-- ==== Sys2Proof/Word.lean ====
section
/-! DEFINITION. The plain types of the part: words, microseconds, and the index of each numbered record. -/

namespace Sys2Proof

/-- A 16-bit word of the host port (`spec/00_scope.md` section 4, "Word"). -/
abbrev Word := BitVec 16

/-- A timebase time or a duration in microseconds (R2: the count does not wrap; log entry 24). -/
abbrev Time := Nat

/-- A receive input, IN0 to IN3. -/
abbrev InputId := Fin 4

/-- A transmit output, TX0 or TX1. -/
abbrev OutputId := Fin 2

/-- A code entry slot (R16). -/
abbrev SlotNo := Fin 128

/-- A group number (R19). -/
abbrev GroupNo := Fin 16

/-- A cell number of the cell pool (R47). -/
abbrev CellNo := Fin 768

/-- A press record number (R97). -/
abbrev PressNo := Fin 16

/-- A relay record number (R123). -/
abbrev RelayNo := Fin 64

/-- A subset of {IN0, IN1, IN2, IN3}: bit i is INi (R9, R19, R183). -/
abbrev InputMask := BitVec 4

/-- A subset of {TX0, TX1}: bit o is TXo (R63, R123). -/
abbrev OutputMask := BitVec 2

end Sys2Proof
end

