-- ==== Sys2Proof/Syntax.lean ====
section
/-! DEFINITION. The commands of the part: one constructor of `Instr` per row of spec/opcode_table.json, in the
table's order, with the operands the rules give the row. A command that stands for an event of a clock carries the
timebase time `t` at which it is taken (log entry 1). -/

namespace Sys2Proof

/-- The two indivisible parts of a host command whose work is a request to a block (R169, R171; log entry 3). -/
inductive HostPart where
  /-- The COMMAND write with this immediate argument, at its frame end (R169). -/
  | commandWrite (arg : BitVec 8)
  /-- The block takes the request of the command that is in EXECUTE (R171). -/
  | request
  deriving DecidableEq, Repr

/-- What the row CAPTURE brings of an SPI frame (R159, R160; log entry 4): a part of the frame, or the whole of its
address byte. -/
inductive SpiEvent where
  /-- SELECT falls: a frame begins (R159). -/
  | selectFalls
  /-- One clock of SCLK with this level of MOSI at its rising edge (R159); the 8th of a frame is its capture (R160). -/
  | clock (mosi : Bool)
  /-- The clocks that complete this address byte, the last of them the capture (R160). -/
  | addressByte (address : BitVec 8)
  /-- SELECT rises: the frame ends (R159). -/
  | selectRises
  deriving DecidableEq, Repr

/-- The sticky bits of an input that the matcher or the press tracker requests (R78). -/
inductive RequestedBit where
  | unmatched
  | orphanRepeat
  | pressRefused
  deriving DecidableEq, Repr

/-- The 28 commands of the command code table (R176). -/
inductive HostCommand where
  | initializePart | tableStatus
  | groupDefine | groupEdit | groupRemove | groupRead
  | entryInstall | entryEdit | entrySuspend | entryResume | entryRetire | entryRead | entryFind | entryList
  | inputConfigure | inputStatus
  | report | pressRead | pressEnd
  | relaySet | relayClear | relayRead
  | outputConfigure | outputStatus | send | holdStart | holdEnd | outputFlush
  deriving DecidableEq, Repr

/-- The commands of the part, one per row of spec/opcode_table.json. -/
inductive Instr where
  /-- HARDWARE_RESET (R45, R178): power-on, or RESET held low for at least 10 us, has ended. -/
  | hardwareReset
  /-- MEMORY_TEST_END (R59): the test ends with these cells failing. -/
  | memoryTestEnd (failing : List CellNo) (t : Time)
  /-- FLAGS_READ (R163), at frame end. -/
  | flagsRead
  /-- TRANSFER_WRITE (R173), at frame end. -/
  | transferWrite (w : Word)
  /-- TRANSFER_READ (R173), at frame end. -/
  | transferRead
  /-- ABORT (R175): a CONTROL write whose bit 15 is 1, at frame end. -/
  | abort (w : Word)
  /-- INTERRUPT_ENABLE_WRITE (R165): a CONTROL write whose bit 15 is 0, at frame end. -/
  | interruptEnableWrite (w : Word)
  /-- IGNORED_LOCATION_WRITE (R161): a write to one of the locations 3 to 7, at frame end. -/
  | ignoredLocationWrite (location : Fin 8) (w : Word)
  /-- BAD_COMMAND (R169): a COMMAND write whose code names no command, at frame end. -/
  | badCommand (code arg : BitVec 8)
  /-- TRANSFER_TIMEOUT (R174). -/
  | transferTimeout (t : Time)
  /-- INITIALIZE (R182): the COMMAND write. -/
  | initializeCommand (arg : BitVec 8)
  /-- TABLE_STATUS (R182): the COMMAND write. -/
  | tableStatus (arg : BitVec 8)
  /-- GROUP_DEFINE (R184): the COMMAND write. -/
  | groupDefine (arg : BitVec 8)
  /-- GROUP_EDIT (R185): the COMMAND write. -/
  | groupEdit (arg : BitVec 8)
  /-- GROUP_REMOVE (R186): the COMMAND write. -/
  | groupRemove (arg : BitVec 8)
  /-- GROUP_READ (R186): the COMMAND write. -/
  | groupRead (arg : BitVec 8)
  /-- ENTRY_INSTALL (R187): the COMMAND write. -/
  | entryInstall (arg : BitVec 8)
  /-- ENTRY_EDIT (R188): the COMMAND write. -/
  | entryEdit (arg : BitVec 8)
  /-- ENTRY_SUSPEND (R189): the COMMAND write. -/
  | entrySuspend (arg : BitVec 8)
  /-- ENTRY_RESUME (R189): the COMMAND write. -/
  | entryResume (arg : BitVec 8)
  /-- ENTRY_RETIRE (R189): the COMMAND write. -/
  | entryRetire (arg : BitVec 8)
  /-- ENTRY_READ (R190): the COMMAND write. -/
  | entryRead (arg : BitVec 8)
  /-- ENTRY_FIND (R191): the COMMAND write. -/
  | entryFind (arg : BitVec 8)
  /-- ENTRY_LIST (R191): the COMMAND write. -/
  | entryList (arg : BitVec 8)
  /-- INPUT_CONFIGURE (R80, R192). -/
  | inputConfigure (part : HostPart)
  /-- INPUT_STATUS (R79, R192). -/
  | inputStatus (part : HostPart)
  /-- REPORT (R118, R193). -/
  | report (part : HostPart)
  /-- PRESS_READ (R119, R193). -/
  | pressRead (part : HostPart)
  /-- PRESS_END (R113, R194). -/
  | pressEnd (part : HostPart)
  /-- RELAY_SET (R125, R195). -/
  | relaySet (part : HostPart)
  /-- RELAY_CLEAR (R126, R196). -/
  | relayClear (part : HostPart)
  /-- RELAY_READ (R126, R196). -/
  | relayRead (part : HostPart)
  /-- OUTPUT_CONFIGURE (R154, R197). -/
  | outputConfigure (part : HostPart)
  /-- OUTPUT_STATUS (R156, R197). -/
  | outputStatus (part : HostPart)
  /-- SEND (R198). -/
  | send (part : HostPart)
  /-- HOLD_START (R198). -/
  | holdStart (part : HostPart)
  /-- HOLD_END (R137, R199). -/
  | holdEnd (part : HostPart)
  /-- OUTPUT_FLUSH (R153, R199). -/
  | outputFlush (part : HostPart)
  /-- LOOKUP (R86): the claim of this input is served. -/
  | lookup (i : InputId)
  /-- FRAME_GRANT (R41): the frame grant claim of this output is served. -/
  | frameGrant (o : OutputId)
  /-- DAMAGE_NOTICE (R42): the damage notice claim of this output is served. -/
  | damageNotice (o : OutputId)
  /-- INSTALL_PARAMETER_STEP (R28). -/
  | installParameterStep
  /-- PARAMETER_PHASE_CLEAN_UP (R29). -/
  | parameterPhaseCleanUp
  /-- INSTALL_FINAL_STEP (R30). -/
  | installFinalStep
  /-- GROUP_PARAMETER_STEP (R35, R36). -/
  | groupParameterStep
  /-- GROUP_DEFINE_FINAL_STEP (R35). -/
  | groupDefineFinalStep
  /-- GROUP_EDIT_FINAL_STEP (R36, R37). -/
  | groupEditFinalStep
  /-- GROUP_REMOVE_STEP (R38). -/
  | groupRemoveStep
  /-- ENTRY_EDIT_STEP (R31). -/
  | entryEditStep
  /-- SUSPEND (R32). -/
  | suspend
  /-- RESUME (R33). -/
  | resume
  /-- RETIRE (R34). -/
  | retire
  /-- ENTRY_READ_STEP (R43). -/
  | entryReadStep
  /-- GROUP_READ_STEP (R43). -/
  | groupReadStep
  /-- ENTRY_FIND_STEP (R44). -/
  | entryFindStep
  /-- ENTRY_LIST_STEP (R44). -/
  | entryListStep
  /-- TABLE_STATUS_STEP (R44). -/
  | tableStatusStep
  /-- HANDLE_CHECK (R136): `later` says that the block takes the request in a step of its own (log entry 19). -/
  | handleCheck (later : Bool)
  /-- INITIALIZE_TABLE_STEP (R46). -/
  | initializeTableStep
  /-- CHAIN_RELEASE (R55): the pool takes the next released chain. -/
  | chainRelease
  /-- REFERENCE_REMOVAL (R54): the pool takes this output's removal request. -/
  | referenceRemoval (o : OutputId)
  /-- LINE_TRANSITION (R65): the line of this input goes to its other level. -/
  | lineTransition (i : InputId) (t : Time)
  /-- CARRIER_GAP (R66). -/
  | carrierGap (i : InputId) (t : Time)
  /-- GLITCH_FLOOR_REACHED (R68, R69, R70, R73). -/
  | glitchFloorReached (i : InputId) (t : Time)
  /-- STUCK (R72). -/
  | stuck (i : InputId) (t : Time)
  /-- END_GAP (R70). -/
  | endGap (i : InputId) (t : Time)
  /-- DISCARDING_END_GAP (R73). -/
  | discardingEndGap (i : InputId) (t : Time)
  /-- BLANKING_ASSERTED (R76): the input takes the signal of this output. -/
  | blankingAsserted (i : InputId) (o : OutputId)
  /-- BLANKING_RELEASED (R77). -/
  | blankingReleased (i : InputId)
  /-- STICKY_SET_REQUEST (R78): the input takes a waiting request for this bit. -/
  | stickySetRequest (i : InputId) (bit : RequestedBit)
  /-- MATCH_RESULT (R101): the tracker takes the match result at the head of the notice path. -/
  | matchResult
  /-- RELEASE_EXPIRY (R107). -/
  | releaseExpiry (r : PressNo) (t : Time)
  /-- PRESS_LIMIT_EXPIRY (R108). -/
  | pressLimitExpiry (r : PressNo) (t : Time)
  /-- ENTRY_RETIRED_NOTICE (R111). -/
  | entryRetiredNotice
  /-- ENTRY_SUSPENDED_NOTICE (R111). -/
  | entrySuspendedNotice
  /-- ENTRY_DAMAGED_NOTICE (R111). -/
  | entryDamagedNotice
  /-- GROUP_CHANGED_NOTICE (R111). -/
  | groupChangedNotice
  /-- INPUT_CHANGE_NOTICE (R112). -/
  | inputChangeNotice
  /-- LINK_REQUEST (R115). -/
  | linkRequest
  /-- LINK_CLEAR (R116): the tracker takes the next link-clear of this output. -/
  | linkClear (o : OutputId)
  /-- PRESS_START (R128). -/
  | pressStart
  /-- RELAY_RETIRE_NOTICE (R131). -/
  | relayRetireNotice
  /-- HOLD_ENDED (R148): this output takes its next hold-ended message. -/
  | holdEnded (o : OutputId)
  /-- FRAME_END (R143). -/
  | frameEnd (o : OutputId) (t : Time)
  /-- INTERVAL_END (R145). -/
  | intervalEnd (o : OutputId) (t : Time)
  /-- HOLD_LIMIT (R147). -/
  | holdLimit (o : OutputId) (t : Time)
  /-- SPACE_END (R150). -/
  | spaceEnd (o : OutputId) (t : Time)
  /-- FRAME_PARITY_FAULT (R151). -/
  | frameParityFault (o : OutputId) (t : Time)
  /-- CAPTURE (R160): the address byte of a frame is complete; with the clocks and SELECT of the frame (R159). -/
  | capture (event : SpiEvent)
  deriving DecidableEq, Repr

end Sys2Proof
end

