-- ==== Sys2Proof/Decode.lean ====
section
/-! DEFINITION. What a word spells. The opcode table gives no row any bits, so `decodeTableWord` answers none
(log entry 31). Beside it stand the two tables of words the manual does give: the command codes of R176 and the
SPI frames of R159 and R161, in both directions. -/

namespace Sys2Proof

/-- The rows of spec/opcode_table.json give no bits: no word spells one of them. -/
def decodeTableWord (_nbits _w : Nat) : Option Instr := none

/-- The code of each command, COMMAND word bits 15 to 8 (R169, R176). -/
def HostCommand.code : HostCommand → BitVec 8
  | .initializePart => 0x01
  | .tableStatus => 0x02
  | .groupDefine => 0x10
  | .groupEdit => 0x11
  | .groupRemove => 0x12
  | .groupRead => 0x13
  | .entryInstall => 0x20
  | .entryEdit => 0x21
  | .entrySuspend => 0x22
  | .entryResume => 0x23
  | .entryRetire => 0x24
  | .entryRead => 0x25
  | .entryFind => 0x26
  | .entryList => 0x27
  | .inputConfigure => 0x30
  | .inputStatus => 0x31
  | .report => 0x40
  | .pressRead => 0x41
  | .pressEnd => 0x42
  | .relaySet => 0x50
  | .relayClear => 0x51
  | .relayRead => 0x52
  | .outputConfigure => 0x60
  | .outputStatus => 0x61
  | .send => 0x62
  | .holdStart => 0x63
  | .holdEnd => 0x64
  | .outputFlush => 0x65

/-- Every command of R176, in the order of its table. -/
def allHostCommands : List HostCommand :=
  [.initializePart, .tableStatus, .groupDefine, .groupEdit, .groupRemove, .groupRead,
   .entryInstall, .entryEdit, .entrySuspend, .entryResume, .entryRetire, .entryRead, .entryFind, .entryList,
   .inputConfigure, .inputStatus, .report, .pressRead, .pressEnd, .relaySet, .relayClear, .relayRead,
   .outputConfigure, .outputStatus, .send, .holdStart, .holdEnd, .outputFlush]

/-- The command a code names, if any: "Any other code, 0x00 included, ends with BAD_COMMAND" (R176). -/
def commandOfCode (code : BitVec 8) : Option HostCommand :=
  allHostCommands.find? (fun c => c.code == code)

/-- The row of the COMMAND write of each command (R169). -/
def HostCommand.writeRow (c : HostCommand) (arg : BitVec 8) : Instr :=
  match c with
  | .initializePart => .initializeCommand arg
  | .tableStatus => .tableStatus arg
  | .groupDefine => .groupDefine arg
  | .groupEdit => .groupEdit arg
  | .groupRemove => .groupRemove arg
  | .groupRead => .groupRead arg
  | .entryInstall => .entryInstall arg
  | .entryEdit => .entryEdit arg
  | .entrySuspend => .entrySuspend arg
  | .entryResume => .entryResume arg
  | .entryRetire => .entryRetire arg
  | .entryRead => .entryRead arg
  | .entryFind => .entryFind arg
  | .entryList => .entryList arg
  | .inputConfigure => .inputConfigure (.commandWrite arg)
  | .inputStatus => .inputStatus (.commandWrite arg)
  | .report => .report (.commandWrite arg)
  | .pressRead => .pressRead (.commandWrite arg)
  | .pressEnd => .pressEnd (.commandWrite arg)
  | .relaySet => .relaySet (.commandWrite arg)
  | .relayClear => .relayClear (.commandWrite arg)
  | .relayRead => .relayRead (.commandWrite arg)
  | .outputConfigure => .outputConfigure (.commandWrite arg)
  | .outputStatus => .outputStatus (.commandWrite arg)
  | .send => .send (.commandWrite arg)
  | .holdStart => .holdStart (.commandWrite arg)
  | .holdEnd => .holdEnd (.commandWrite arg)
  | .outputFlush => .outputFlush (.commandWrite arg)

/-- The row of a COMMAND write of a 16-bit word: the code in bits 15 to 8, the immediate argument in bits 7 to 0
(R169). -/
def decodeCommandWord (w : Word) : Instr :=
  let code : BitVec 8 := w.extractLsb' 8 8
  let arg : BitVec 8 := w.extractLsb' 0 8
  match commandOfCode code with
  | some c => c.writeRow arg
  | none => .badCommand code arg

/-- The COMMAND word of a command and its immediate argument (R169). -/
def commandWord (c : HostCommand) (arg : BitVec 8) : Word := c.code ++ arg

/-- The address byte of a frame: bit 7 is 1 for a read, bits 2 to 0 the location (R159). -/
def addressByte (read : Bool) (location : BitVec 3) : BitVec 8 := BitVec.ofBool read ++ 0#4 ++ location

/-- The row whose effects come at the end of a 24-clock frame of this address byte and data word (R159 to R161).
A frame with any of bits 6 to 3 set, and a read of a location other than FLAGS and TRANSFER, has no effect at its
end and is no row. -/
def decodeFrame (address : BitVec 8) (data : Word) : Option Instr :=
  if address.extractLsb' 3 4 ≠ 0#4 then none
  else
    match address.getLsbD 7, (address.extractLsb' 0 3).toNat with
    | true, 0 => some .flagsRead
    | true, 1 => some .transferRead
    | true, _ => none
    | false, 0 => some (decodeCommandWord data)
    | false, 1 => some (.transferWrite data)
    | false, 2 => some (if data.getLsbD 15 then .abort data else .interruptEnableWrite data)
    | false, n => some (.ignoredLocationWrite (Fin.ofNat 8 n) data)

/-- The COMMAND word of a row, for the rows that are COMMAND writes (R169, R176). -/
def commandWordOf : Instr → Option Word
  | .badCommand code arg => some (code ++ arg)
  | .initializeCommand arg => some (commandWord .initializePart arg)
  | .tableStatus arg => some (commandWord .tableStatus arg)
  | .groupDefine arg => some (commandWord .groupDefine arg)
  | .groupEdit arg => some (commandWord .groupEdit arg)
  | .groupRemove arg => some (commandWord .groupRemove arg)
  | .groupRead arg => some (commandWord .groupRead arg)
  | .entryInstall arg => some (commandWord .entryInstall arg)
  | .entryEdit arg => some (commandWord .entryEdit arg)
  | .entrySuspend arg => some (commandWord .entrySuspend arg)
  | .entryResume arg => some (commandWord .entryResume arg)
  | .entryRetire arg => some (commandWord .entryRetire arg)
  | .entryRead arg => some (commandWord .entryRead arg)
  | .entryFind arg => some (commandWord .entryFind arg)
  | .entryList arg => some (commandWord .entryList arg)
  | .inputConfigure (.commandWrite arg) => some (commandWord .inputConfigure arg)
  | .inputStatus (.commandWrite arg) => some (commandWord .inputStatus arg)
  | .report (.commandWrite arg) => some (commandWord .report arg)
  | .pressRead (.commandWrite arg) => some (commandWord .pressRead arg)
  | .pressEnd (.commandWrite arg) => some (commandWord .pressEnd arg)
  | .relaySet (.commandWrite arg) => some (commandWord .relaySet arg)
  | .relayClear (.commandWrite arg) => some (commandWord .relayClear arg)
  | .relayRead (.commandWrite arg) => some (commandWord .relayRead arg)
  | .outputConfigure (.commandWrite arg) => some (commandWord .outputConfigure arg)
  | .outputStatus (.commandWrite arg) => some (commandWord .outputStatus arg)
  | .send (.commandWrite arg) => some (commandWord .send arg)
  | .holdStart (.commandWrite arg) => some (commandWord .holdStart arg)
  | .holdEnd (.commandWrite arg) => some (commandWord .holdEnd arg)
  | .outputFlush (.commandWrite arg) => some (commandWord .outputFlush arg)
  | _ => none

/-- The address byte and data word of the frame a host row ends (R159, R161); a read frame's data bits on MOSI are
not used by the part and are written here as 0. None for the rows that are no frame end. -/
def encodeFrame : Instr → Option (BitVec 8 × Word)
  | .flagsRead => some (addressByte true 0, 0)
  | .transferRead => some (addressByte true 1, 0)
  | .transferWrite w => some (addressByte false 1, w)
  | .abort w => some (addressByte false 2, w)
  | .interruptEnableWrite w => some (addressByte false 2, w)
  | .ignoredLocationWrite location w => some (addressByte false (BitVec.ofNat 3 location.val), w)
  | i => (commandWordOf i).map (fun w => (addressByte false 0, w))

end Sys2Proof
end

