-- ==== Sys2Proof/Config.lean ====
section
/-! DEFINITION. The fixed constants of the part and the values the manual leaves free. -/

namespace Sys2Proof.Config

/-- Carrier gap limit (R63, R66). -/
def carrierGap : Time := 70

/-- Longest mark (R63, R72). -/
def markLimit : Time := 60000

/-- Largest run count of a burst (R71). -/
def maxRuns : Nat := 127

/-- Smallest slack of a window (R7). -/
def minSlack : Nat := 40

/-- Length of the memory test, 40 ms (R59). -/
def memoryTestTime : Time := 40000

/-- Transfer timeout, 50 ms (R174). -/
def transferTimeout : Time := 50000

/-- Least gap between the frames of one item, 5 ms (R133, R145). -/
def leastFrameGap : Time := 5000

/-- Largest number of items of a send queue, the active one included (R136). -/
def queueDepth : Nat := 8

/-- Largest value of a press's frames, its duration and an item's frames sent (R97, R135). -/
def counterLimit : Nat := 65535

/-- Microseconds in a millisecond (R2). -/
def ms : Time := 1000

/-- Microseconds in a second. -/
def second : Time := 1000000

/-- The run the memory test leaves in position `pos` of cell `cell`. FREE VALUE: the runs left in passing
cells "have no meaning" (R59) and the manual does not name the values the test writes. Log entry 11. -/
opaque memoryTestRun : Nat → Nat → Word

end Sys2Proof.Config
end

