-- ==== Sys2Proof/Machine/State.lean ====
section
/-! DEFINITION. The state of the part as plain data, block by block, and its value after a hardware reset. -/

namespace Sys2Proof.Machine

/-! ## Reasons to stop -/

/-- A machine stop. No rule of the manual stops the part, so nothing raises it. -/
inductive Fault where
  /-- Raised by nothing: kept so that the type has a name to list. Safe. -/
  | stopped
  deriving DecidableEq, Repr

/-- A command without a meaning. -/
inductive Refusal where
  /-- Raised by an arm of `exec` whose row has no meaning yet; no arm raises it. Safe. -/
  | notModelled (mnemonic : String)
  deriving DecidableEq, Repr

/-! ## Handles and timing patterns -/

/-- A handle, slot/generation (R17, R180). -/
structure Handle where
  slot : SlotNo
  gen : Fin 16
  deriving DecidableEq, Repr

/-- 0 for the main pattern, 1 for the alternate (00_scope.md section 4). -/
inductive Variant where
  | main
  | alternate
  deriving DecidableEq, Repr

/-- The kind of input a burst came from (R10, R74). -/
inductive BurstKind where
  | carrier
  | envelope
  deriving DecidableEq, Repr

/-- A finished burst (R74); its run count is the length of `runs`. -/
structure Burst where
  input : InputId
  kind : BurstKind
  runs : List Nat
  estimate : Option Nat
  startTime : Time
  endTime : Time
  deriving DecidableEq, Repr

/-! ## Cell pool (chapter 3) -/

/-- A stored run with its parity bit (R48). -/
structure StoredRun where
  value : Word
  parity : Bool
  deriving DecidableEq, Repr

/-- The condition of a cell (R47). -/
inductive CellCondition where
  | free | reserved | owned | returning | withheld | testing
  deriving DecidableEq, Repr

/-- A cell record (R47). -/
structure Cell where
  condition : CellCondition
  runs : Vector StoredRun 8
  fault : Bool
  refs : OutputMask
  deriving DecidableEq, Repr

/-- A released chain that outputs still read (R56). -/
structure ReturningChain where
  chain : List CellNo
  refs : OutputMask
  deriving DecidableEq, Repr

/-- The cell pool: the cells, the free list (R49), the return list (R56) and the reservation in chain order (R50),
empty when no command holds one. -/
structure Pool where
  cells : Vector Cell 768
  freeList : List CellNo
  returnList : List ReturningChain
  reservation : List CellNo
  deriving DecidableEq, Repr

/-- What a read of one run answers (R48). -/
inductive RunRead where
  /-- The run's duration. -/
  | value (d : Nat)
  /-- Unreadable, found in this cell. -/
  | unreadable (c : CellNo)
  /-- The chain has no such position; no pattern of the table is so (log entry 27). -/
  | absent
  deriving DecidableEq, Repr

/-! ## Code table (chapter 2) -/

/-- The state of an installed entry (R18). -/
inductive EntryStatus where
  | active | suspended | damaged
  deriving DecidableEq, Repr

/-- The fields of an entry that is ACTIVE, SUSPENDED or DAMAGED (R16). -/
structure Installed where
  status : EntryStatus
  group : GroupNo
  key : Word
  tolerance : Fin 8
  runCount : Nat
  main : List CellNo
  alternate : Option (List CellNo)
  mainDamaged : Bool
  alternateDamaged : Bool
  deriving DecidableEq, Repr

/-- The fields of a LOADING entry (R16). -/
structure Loading where
  group : GroupNo
  key : Word
  tolerance : Fin 8
  runCount : Nat
  alternatePresent : Bool
  deriving DecidableEq, Repr

/-- What a slot holds (R16, R18). -/
inductive Occupant where
  | free
  | loading (l : Loading)
  | installed (e : Installed)
  deriving DecidableEq, Repr

/-- A code entry record (R16). -/
structure Entry where
  generation : Fin 16
  occupant : Occupant
  deriving DecidableEq, Repr

/-- Transmit duty class (R19). -/
inductive Duty where
  | quarter | third | half
  deriving DecidableEq, Repr

/-- The settings of a group, carried by S1 to S6 (R19, R183). -/
structure GroupSettings where
  inputMask : InputMask
  duty : Duty
  repeatTolerance : Fin 8
  receiveNominal : Nat
  receiveWindow : Nat
  transmitCarrier : Nat
  releaseGap : Nat
  repeatPeriod : Nat
  pressLimit : Nat
  deriving DecidableEq, Repr

/-- A pattern held by a group: its run count and its chain (R3, R19). -/
structure Pattern where
  runCount : Nat
  chain : List CellNo
  deriving DecidableEq, Repr

/-- A DEFINED group (R19). -/
structure Group where
  settings : GroupSettings
  repeatPattern : Option Pattern
  repeatDamaged : Bool
  entryCount : Nat
  deriving DecidableEq, Repr

/-- A reference to a pattern: the form in which bins hold patterns and matches name them (R3, R21). -/
inductive PatternRef where
  | frame (slot : SlotNo) (v : Variant)
  | ofGroup (g : GroupNo)
  deriving DecidableEq, Repr

/-- Who owns a pattern that a conflict check compares (R27): a new pattern in reserved cells (main, alternate or
repeat), or a stored one. -/
inductive ContenderOwner where
  | reservedFrame (v : Variant)
  | reservedRepeat
  | stored (ref : PatternRef)
  deriving DecidableEq, Repr

/-- A pattern of a conflict check with the settings it is compared under (R13, R15). -/
structure Contender where
  owner : ContenderOwner
  runCount : Nat
  chain : List CellNo
  tolerance : Fin 8
  inputMask : InputMask
  deriving DecidableEq, Repr

/-- The result of comparing one pair of patterns, or of a whole check (R27). -/
inductive CheckVerdict where
  /-- No conflict found. -/
  | clear
  /-- The first conflict found, naming the other pattern of its pair. -/
  | conflict (other : ContenderOwner)
  /-- A run of a pattern in reserved cells was unreadable. -/
  | unreadable
  deriving DecidableEq, Repr

/-- A position of the claim rotation (R22). -/
inductive Position where
  | input (i : InputId)
  | output (o : OutputId)
  | host
  deriving DecidableEq, Repr

/-- The table steps of the host (R24). -/
inductive HostStep where
  | installParameter | cleanUp | installFinal | groupParameter | groupDefineFinal | groupEditFinal | groupRemove
  | entryEdit | suspend | resume | retire | entryRead | groupRead | entryFind | entryList | tableStatus
  | handleCheck | initializeTable
  deriving DecidableEq, Repr

/-- The pattern an output was sending (R42, R151). -/
inductive SentPattern where
  | frame (v : Variant)
  | repeatOf (g : GroupNo)
  deriving DecidableEq, Repr

/-- What a damage notice names (R42). -/
structure DamageReport where
  handle : Handle
  sent : SentPattern
  cell : CellNo
  deriving DecidableEq, Repr

/-- The claim of an output (R22). -/
inductive OutputClaim where
  | frameGrant
  | damage (d : DamageReport)
  deriving DecidableEq, Repr

/-- The seven claim positions and the last one served (R22, R23). -/
structure Claims where
  lookup : Vector Bool 4
  output : Vector (Option OutputClaim) 2
  host : Option HostStep
  last : Position
  deriving DecidableEq, Repr

/-! ## Receive inputs (chapter 4) -/

/-- Kind of an input (R63). -/
inductive InputKind where
  | off | carrier | envelope
  deriving DecidableEq, Repr

/-- Line polarity (R63, R133). -/
inductive Polarity where
  | activeLow | activeHigh
  deriving DecidableEq, Repr

/-- The configuration record of an input: end gap in ms, glitch floor in us (R63). -/
structure InputConfig where
  kind : InputKind
  polarity : Polarity
  endGap : Nat
  glitchFloor : Nat
  blankMask : OutputMask
  deriving DecidableEq, Repr

/-- The line of an input: its level and its latest transitions (R65, R66, R77). -/
structure Line where
  high : Bool
  lastRise : Option Time
  lastFall : Option Time
  deriving DecidableEq, Repr

/-- The raw mark or raw space in progress (R65, R66), with the active edges counted in a raw mark (R67). -/
structure Raw where
  mark : Bool
  since : Time
  edges : Nat
  firstEdge : Time
  deriving DecidableEq, Repr

/-- The run of a burst that is still open, with its start (R68 to R70). -/
inductive OpenRun where
  | mark (start : Time)
  | space (start : Time)
  deriving DecidableEq, Repr

/-- The burst under assembly (R68 to R72): closed runs, the open run, the tentative run's start, and the carrier
estimate once its segment has ended (R67). -/
structure Assembly where
  start : Time
  runs : List Nat
  openRun : OpenRun
  tentative : Option Time
  estimate : Option Nat
  estimated : Bool
  deriving DecidableEq, Repr

/-- The end-gap measure of DISCARDING (R73): the start of the space measured, a tentative mark, and whether the
measure is to start when the line becomes quiet (R77). -/
structure Discard where
  spaceSince : Option Time
  tentative : Option Time
  untilQuiet : Bool
  deriving DecidableEq, Repr

/-- The state of an input and what it is measuring (R64). -/
inductive Assembler where
  | off
  | waiting (tentative : Option Time)
  | assembling (a : Assembly)
  | discarding (d : Discard)
  | blanked
  deriving DecidableEq, Repr

/-- The seven sticky bits of an input (R78). -/
structure InputSticky where
  overrun : Bool
  overlength : Bool
  stuck : Bool
  blankedDrop : Bool
  unmatched : Bool
  orphanRepeat : Bool
  pressRefused : Bool
  deriving DecidableEq, Repr

/-- A receive input (chapter 4). -/
structure Input where
  config : InputConfig
  line : Line
  raw : Raw
  assembler : Assembler
  held : Option Burst
  sticky : InputSticky
  deriving DecidableEq, Repr

/-! ## Press tracker (chapter 6) -/

/-- The ten causes of the end of a press (chapter 6 section 6.5). -/
inductive EndCause where
  | released | limit | newPress | otherKey | forced | retired | suspended | damaged | groupChanged | inputChanged
  deriving DecidableEq, Repr

/-- The part of a press record that depends on its state HELD or ENDED (R97, R98). -/
inductive PressLife where
  | held (deadline : Time) (limit : Option Time) (links : OutputMask)
  | ended (cause : EndCause) (duration : Nat)
  deriving DecidableEq, Repr

/-- A press record that is not FREE (R97). -/
structure Press where
  sequence : BitVec 8
  input : InputId
  group : GroupNo
  handle : Handle
  key : Word
  variant : Variant
  frames : Nat
  startTime : Time
  lastCredit : Time
  releaseGap : Nat
  startPending : Bool
  endPending : Bool
  life : PressLife
  deriving DecidableEq, Repr

/-- What a FRAME or ALT result names (R89, R92); ALT is the variant `alternate`. -/
structure EntryMatch where
  group : GroupNo
  handle : Handle
  variant : Variant
  key : Word
  releaseGap : Nat
  pressLimit : Nat
  deriving DecidableEq, Repr

/-- What a REPEAT result names (R89, R92). -/
structure RepeatMatch where
  group : GroupNo
  releaseGap : Nat
  pressLimit : Nat
  deriving DecidableEq, Repr

/-- The outcome of a lookup (R92). -/
inductive Found where
  | entry (m : EntryMatch)
  | ofGroup (m : RepeatMatch)
  | none
  deriving DecidableEq, Repr

/-- The comparison of one candidate (R88). -/
inductive CandidateVerdict where
  | matched
  | apart
  | fault (cell : CellNo)
  deriving DecidableEq, Repr

/-- A match result (R92). -/
structure MatchResult where
  input : InputId
  startTime : Time
  endTime : Time
  found : Found
  deriving DecidableEq, Repr

/-- A notice of the ordered notice path (R25, R94). -/
inductive Notice where
  | result (r : MatchResult)
  | entryRetired (h : Handle)
  | entrySuspended (h : Handle)
  | entryDamaged (h : Handle)
  | groupChanged (g : GroupNo)
  deriving DecidableEq, Repr

/-- The press tracker's records, report list and sequence counter (R97, R99, R117). -/
structure Tracker where
  presses : Vector (Option Press) 16
  reportList : List PressNo
  sequence : BitVec 8
  deriving DecidableEq, Repr

/-- A press named by record number and sequence number: hold-ended, link request, link-clear (R110, R115, R116). -/
structure PressName where
  record : PressNo
  sequence : BitVec 8
  deriving DecidableEq, Repr

/-- A link request of the relay unit (R115). -/
structure LinkRequest where
  output : OutputId
  press : PressName
  deriving DecidableEq, Repr

/-- A press start (R114). -/
structure PressStart where
  press : PressName
  handle : Handle
  input : InputId
  deriving DecidableEq, Repr

/-! ## Relay unit (chapter 7) -/

/-- Mode of a relay record (R123). -/
inductive RelayMode where
  | once (count : Nat)
  | follow
  deriving DecidableEq, Repr

/-- Last outcome of a relay record (R123, R130). -/
inductive RelayOutcome where
  | none | queued | queueFull | targetStale | targetDamaged | outputOff
  deriving DecidableEq, Repr

/-- A relay record that is VALID or STALE (R123, R124). -/
structure RelayRecord where
  stale : Bool
  source : Handle
  inputMask : InputMask
  outputMask : OutputMask
  target : Handle
  mode : RelayMode
  lastOutcome : RelayOutcome
  deriving DecidableEq, Repr

/-! ## Transmit outputs (chapter 8) -/

/-- Kind of an output (R133). -/
inductive OutputKind where
  | off | modulated | envelope
  deriving DecidableEq, Repr

/-- The configuration record of an output: minimum item space in ms, hold limit in s (R133). -/
structure OutputConfig where
  kind : OutputKind
  polarity : Polarity
  minItemSpace : Nat
  holdLimit : Nat
  deriving DecidableEq, Repr

/-- Who placed an item: the host with its tag, or the relay unit for a press (R135). -/
inductive ItemOrigin where
  | host (tag : BitVec 8)
  | relay (press : PressName)
  deriving DecidableEq, Repr

/-- Form of an item (R135). -/
inductive ItemForm where
  | send (count : Nat)
  | hold
  deriving DecidableEq, Repr

/-- The outcomes an item can end with (R150). -/
inductive ItemOutcome where
  | sent | limit | stale | damaged | flushed | outputOff
  deriving DecidableEq, Repr

/-- What an ACTIVE item holds beside a QUEUED one (R135, R139). -/
structure ActiveItem where
  variant : Variant
  startTime : Time
  framesSent : Nat
  deriving DecidableEq, Repr

/-- An item of a send queue (R135); it is ACTIVE when `active` is present and QUEUED otherwise. -/
structure Item where
  origin : ItemOrigin
  form : ItemForm
  handle : Handle
  follow : Bool
  holdEnded : Bool
  endPending : Option ItemOutcome
  active : Option ActiveItem
  deriving DecidableEq, Repr

/-- A frame in progress (R141, R143): what the grant gave, when it started, and the run being driven. `run` is 0
until run 1 is driven; the run being driven lasts from `runStart` to `runEnd`. -/
structure Frame where
  sent : SentPattern
  runCount : Nat
  chain : List CellNo
  carrier : Nat
  duty : Duty
  repeatPeriod : Nat
  startTime : Time
  run : Nat
  runStart : Time
  runEnd : Time
  deriving DecidableEq, Repr

/-- The state of an output (R134). -/
inductive OutputState where
  | off
  | idle
  | grant
  | frame (f : Frame)
  | interval (nextStart : Time)
  | space (until_ : Time)
  deriving DecidableEq, Repr

/-- The answer of an output to an offer (R136). -/
inductive OfferAnswer where
  | accepted | outputOff | queueFull | duplicateTag
  deriving DecidableEq, Repr

/-- A completion record (R155). -/
structure Completion where
  tag : BitVec 8
  hold : Bool
  outcome : ItemOutcome
  deriving DecidableEq, Repr

/-- A transmit output (chapter 8). -/
structure Output where
  config : OutputConfig
  state : OutputState
  queue : List Item
  toggle : BitVec 16
  completion : Option Completion
  hostDone : Bool
  relayRefused : Bool
  damageSeen : Bool
  deriving DecidableEq, Repr

/-! ## Host port (chapter 9) -/

/-- The outcome codes (R176). -/
inductive HostOutcome where
  | ok | badCommand | badParameter | aborted | xferTimeout | tableFull | noSpace | duplicateKey | conflict
  | noSuchEntry | noSuchGroup | groupNotEmpty | badRun | queueFull | noSuchPress | noSuchHold | outputOff
  | entryDamaged | relayFull | duplicateTag | groupDefined
  deriving DecidableEq, Repr

/-- The command in progress, its immediate argument, and the parameter words taken, in order (R168, R169). -/
structure Task where
  command : HostCommand
  arg : BitVec 8
  words : List Word
  deriving DecidableEq, Repr

/-- What PARAMETER is waiting for (R168, R175): a word, requested at a time, or a parameter step, with an ABORT held
or not. -/
inductive Await where
  | word (since : Time)
  | step (heldAbort : Bool)
  deriving DecidableEq, Repr

/-- The command engine (R168). In RESULT `offered` is the word on offer, `rest` the words still to be offered and
`since` the time the offer was made. -/
inductive Engine where
  | testing
  | idle
  | parameter (task : Task) (wait : Await)
  | execute (task : Task) (heldAbort : Bool)
  | result (task : Task) (outcome : HostOutcome) (offered : Word) (rest : List Word) (since : Time)
  | cleanup (task : Task) (outcome : HostOutcome)
  deriving DecidableEq, Repr

/-- What the check of a parameter word decides (R170): the command has its outcome, the next word is requested, a
parameter step is raised, or EXECUTE is entered. -/
inductive WordVerdict where
  | refused (outcome : HostOutcome)
  | next
  | step
  | last
  deriving DecidableEq, Repr

/-- COMPLETION (R166). -/
structure HostCompletion where
  code : BitVec 8
  cut : Bool
  outcome : HostOutcome
  deriving DecidableEq, Repr

/-- ATTENTION (R167). -/
structure Attention where
  input : Vector Bool 4
  output : Vector Bool 2
  table : Bool
  deriving DecidableEq, Repr

/-- What has come of an SPI frame (R159, R160): its clocks, 25 standing for more than 24; the bits of the address byte
and of the data word taken from MOSI, the latest lowest; the word fixed at its capture and whether that was an offered
result word; and whether a hardware reset has come since SELECT fell (R178). -/
structure SpiShift where
  clocks : Nat
  address : BitVec 8
  data : Word
  word : Word
  offered : Bool
  void : Bool
  deriving DecidableEq, Repr

/-- The SPI frame in progress (R159): none while SELECT is high. -/
inductive SpiFrame where
  | none
  | frame (f : SpiShift)
  deriving DecidableEq, Repr

/-- The host port (chapter 9). -/
structure Port where
  ready : Bool
  done : Bool
  fault : Bool
  collide : Bool
  enables : BitVec 4
  completion : HostCompletion
  attention : Attention
  engine : Engine
  spi : SpiFrame
  miso : Word
  deriving DecidableEq, Repr

/-! ## Messages between blocks -/

/-- Messages sent by one block and not yet taken by another, oldest first (R25, R54, R55, R78, R94, R100, R127,
R148; log entry 7). -/
structure Mail where
  path : List Notice
  inputChanges : List InputId
  linkRequests : List LinkRequest
  linkClears : Vector (List PressName) 2
  pressStarts : List PressStart
  retires : List Handle
  holdEnded : Vector (List PressName) 2
  sticky : Vector (List RequestedBit) 4
  releases : List (List CellNo)
  removals : Vector (Option (List CellNo)) 2
  deriving DecidableEq, Repr

/-! ## The machine -/

/-- The whole part, and the queue of the commands that are waiting. -/
structure State where
  timebase : Time
  memoryTest : Option Time
  entries : Vector Entry 128
  groups : Vector (Option Group) 16
  bins : Vector (List PatternRef) 63
  claims : Claims
  working : Option Burst
  pool : Pool
  inputs : Vector Input 4
  tracker : Tracker
  relays : Vector (Option RelayRecord) 64
  outputs : Vector Output 2
  port : Port
  mail : Mail
  pending : List Instr
  deriving DecidableEq, Repr

/-! ## Reset values -/

/-- A cell in the memory test (R59, R60); DESIGN CHOICE, log entry 12: its runs read 0. -/
def Cell.resetValue : Cell where
  condition := .testing
  runs := Vector.replicate 8 ⟨0, false⟩
  fault := false
  refs := 0

/-- The pool at the start of a memory test (R59, R60). -/
def Pool.resetValue : Pool where
  cells := Vector.replicate 768 Cell.resetValue
  freeList := []
  returnList := []
  reservation := []

/-- No claim waiting, HOST served last (R45). -/
def Claims.resetValue : Claims where
  lookup := Vector.replicate 4 false
  output := Vector.replicate 2 none
  host := none
  last := .host

/-- No sticky bit set. -/
def InputSticky.clear : InputSticky := ⟨false, false, false, false, false, false, false⟩

/-- An input after a hardware reset (R63, R82) whose line is `line`. -/
def Input.resetValue (line : Line) : Input where
  config := { kind := .off, polarity := .activeLow, endGap := 10, glitchFloor := 24, blankMask := 0 }
  line := line
  raw := { mark := false, since := 0, edges := 0, firstEdge := 0 }
  assembler := .off
  held := none
  sticky := InputSticky.clear

/-- DESIGN CHOICE, log entry 12: the line of an input stands high and no transition of it has been noted. -/
def Line.resetValue : Line := { high := true, lastRise := none, lastFall := none }

/-- 16 FREE records, an empty report list, counter 0 (R121, R122). -/
def Tracker.resetValue : Tracker where
  presses := Vector.replicate 16 none
  reportList := []
  sequence := 0

/-- An output after a hardware reset (R133, R158). -/
def Output.resetValue : Output where
  config := { kind := .off, polarity := .activeLow, minItemSpace := 15, holdLimit := 12 }
  state := .off
  queue := []
  toggle := 0
  completion := none
  hostDone := false
  relayRefused := false
  damageSeen := false

/-- ATTENTION 0 (R178). -/
def Attention.clear : Attention where
  input := Vector.replicate 4 false
  output := Vector.replicate 2 false
  table := false

/-- The host port after a hardware reset (R166, R178); `miso` is DESIGN CHOICE, log entry 12. -/
def Port.resetValue : Port where
  ready := false
  done := false
  fault := false
  collide := false
  enables := 0
  completion := { code := 0, cut := false, outcome := .ok }
  attention := Attention.clear
  engine := .testing
  spi := .none
  miso := 0

/-- No message on its way (R45, R122, R132). -/
def Mail.empty : Mail where
  path := []
  inputChanges := []
  linkRequests := []
  linkClears := Vector.replicate 2 []
  pressStarts := []
  retires := []
  holdEnded := Vector.replicate 2 []
  sticky := Vector.replicate 4 []
  releases := []
  removals := Vector.replicate 2 none

/-- The part right after a hardware reset: the memory test has just begun and the timebase count is 0
(R2, R45, R60, R82, R122, R132, R158, R178). -/
def State.reset : State where
  timebase := 0
  memoryTest := some 0
  entries := Vector.replicate 128 { generation := 0, occupant := .free }
  groups := Vector.replicate 16 none
  bins := Vector.replicate 63 []
  claims := Claims.resetValue
  working := none
  pool := Pool.resetValue
  inputs := Vector.replicate 4 (Input.resetValue Line.resetValue)
  tracker := Tracker.resetValue
  relays := Vector.replicate 64 none
  outputs := Vector.replicate 2 Output.resetValue
  port := Port.resetValue
  mail := Mail.empty
  pending := []

end Sys2Proof.Machine
end

