-- ==== Sys2Proof/Machine/Operands.lean ====
section
/-! DEFINITION. The layouts of words: bit fields, handles, parameter words and their checks, result words
(chapters 9 and 10). -/

namespace Sys2Proof.Machine

/-! ## Bit fields -/

/-- Bits `lo + len - 1` down to `lo` of a word, as a number. -/
def bitField (w : Word) (lo len : Nat) : Nat := (w.toNat >>> lo) % 2 ^ len

/-- A number as a result word. -/
def wordOf (n : Nat) : Word := BitVec.ofNat 16 n

/-- Bit value of a Bool at position `k`. -/
def bitAt (b : Bool) (k : Nat) : Nat := if b then 2 ^ k else 0

/-! ## Handles (R180) -/

/-- The word of a handle: generation in bits 11 to 8, slot in bits 6 to 0. -/
def Handle.toWord (h : Handle) : Word := wordOf (h.gen.val * 256 + h.slot.val)

/-- The handle a word names, or none when any of bits 15 to 12 or bit 7 is set, 0xFFFF included (R180). -/
def Handle.ofWord (w : Word) : Option Handle :=
  if bitField w 12 4 = 0 ∧ bitField w 7 1 = 0 then
    some ⟨Fin.ofNat 128 (bitField w 0 7), Fin.ofNat 16 (bitField w 8 4)⟩
  else none

/-- The word for no handle (R17, R180). -/
def noHandleWord : Word := 0xFFFF

/-! ## Immediate arguments (R179) -/

/-- Whether the immediate argument of a command lies in its accepted range. -/
def argAccepted (c : HostCommand) (arg : BitVec 8) : Bool :=
  match c with
  | .groupDefine | .groupEdit | .groupRemove | .groupRead | .entryFind | .entryList => decide (arg.toNat ≤ 15)
  | .inputConfigure | .inputStatus => decide (arg.toNat ≤ 3)
  | .outputConfigure | .outputStatus | .send | .holdStart | .holdEnd | .outputFlush => decide (arg.toNat ≤ 1)
  | .pressRead | .pressEnd => decide (arg.toNat ≤ 15)
  | .initializePart | .tableStatus | .entryInstall | .entryEdit | .entrySuspend | .entryResume | .entryRetire
  | .entryRead | .report | .relaySet | .relayClear | .relayRead => true

/-- The group an immediate argument names. -/
def argGroup (arg : BitVec 8) : GroupNo := Fin.ofNat 16 arg.toNat

/-- The input an immediate argument names. -/
def argInput (arg : BitVec 8) : InputId := Fin.ofNat 4 arg.toNat

/-- The output an immediate argument names. -/
def argOutput (arg : BitVec 8) : OutputId := Fin.ofNat 2 arg.toNat

/-- The press record an immediate argument names. -/
def argPress (arg : BitVec 8) : PressNo := Fin.ofNat 16 arg.toNat

/-- Whether a command has parameter words (chapter 10). -/
def hasParameters : HostCommand → Bool
  | .initializePart | .tableStatus | .groupRemove | .groupRead | .entryList | .inputStatus | .report
  | .pressRead | .outputStatus | .outputFlush => false
  | .groupDefine | .groupEdit | .entryInstall | .entryEdit | .entrySuspend | .entryResume | .entryRetire
  | .entryRead | .entryFind | .inputConfigure | .pressEnd | .relaySet | .relayClear | .relayRead
  | .outputConfigure | .send | .holdStart | .holdEnd => true

/-- The table step a command raises when it enters EXECUTE, if its first step is one (R176). -/
def executeStep : HostCommand → Option HostStep
  | .initializePart => some .initializeTable
  | .tableStatus => some .tableStatus
  | .groupDefine => some .groupDefineFinal
  | .groupEdit => some .groupEditFinal
  | .groupRemove => some .groupRemove
  | .groupRead => some .groupRead
  | .entryInstall => some .installFinal
  | .entryEdit => some .entryEdit
  | .entrySuspend => some .suspend
  | .entryResume => some .resume
  | .entryRetire => some .retire
  | .entryRead => some .entryRead
  | .entryFind => some .entryFind
  | .entryList => some .entryList
  | .relaySet | .send | .holdStart => some .handleCheck
  | .inputConfigure | .inputStatus | .report | .pressRead | .pressEnd | .relayClear | .relayRead
  | .outputConfigure | .outputStatus | .holdEnd | .outputFlush => none

/-- The parameter step a command raises (R28, R35, R36); only installs and group defines and edits have one. -/
def parameterStep : HostCommand → HostStep
  | .entryInstall => .installParameter
  | _ => .groupParameter

/-- Parameter word `k` of a task, counting from 0. -/
def Task.word (task : Task) (k : Nat) : Word := task.words.getD k 0

/-! ## Run words and run counts (R4) -/

/-- A run lies in 16 to 60,000 us (R4). -/
def runAccepted (w : Word) : Bool := decide (16 ≤ w.toNat ∧ w.toNat ≤ 60000)

/-- A run count is odd and in 3 to `limit` (R3, R4): 127 for frame patterns and 15 for repeat patterns. -/
def countAccepted (limit n : Nat) : Bool := decide (n % 2 = 1 ∧ 3 ≤ n ∧ n ≤ limit)

/-- The cells of a pattern of `n` runs: n divided by 8, rounded up. -/
def cellsFor (n : Nat) : Nat := (n + 7) / 8

/-! ## Group settings words (R183) -/

/-- The duty class field of S1: 1 is 1/4, 2 is 1/3, 3 is 1/2; 0 is out of range. -/
def dutyOfField : Nat → Option Duty
  | 1 => some .quarter
  | 2 => some .third
  | 3 => some .half
  | _ => none

/-- The field of a duty class. -/
def Duty.field : Duty → Nat
  | .quarter => 1
  | .third => 2
  | .half => 3

/-- The repeat choice of S1. -/
def repeatChoice (s1 : Word) : Nat := bitField s1 12 2

/-- Settings word `k` (0 for S1 to 5 for S6) lies in the ranges of R183; `choices` is the largest repeat choice, 1
for GROUP DEFINE and 2 for GROUP EDIT. -/
def settingsWordAccepted (choices k : Nat) (w : Word) : Bool :=
  match k with
  | 0 => (dutyOfField (bitField w 4 2)).isSome && decide (repeatChoice w ≤ choices)
  | 1 =>
    let nominal := bitField w 0 8
    decide ((nominal = 0 ∨ (40 ≤ nominal ∧ nominal ≤ 120)) ∧ 1 ≤ bitField w 8 4)
  | 2 => decide (40 ≤ bitField w 0 8 ∧ bitField w 0 8 ≤ 120)
  | 3 => decide (40 ≤ w.toNat ∧ w.toNat ≤ 1000)
  | 4 => decide (30 ≤ w.toNat ∧ w.toNat ≤ 300)
  | _ => decide (w.toNat ≤ 120)

/-- The settings carried by words 0 to 5 of a GROUP DEFINE or GROUP EDIT (R183). -/
def Task.settings (task : Task) : GroupSettings where
  inputMask := BitVec.ofNat 4 (bitField (task.word 0) 0 4)
  duty := (dutyOfField (bitField (task.word 0) 4 2)).getD .quarter
  repeatTolerance := Fin.ofNat 8 (bitField (task.word 0) 8 3)
  receiveNominal := bitField (task.word 1) 0 8
  receiveWindow := bitField (task.word 1) 8 4
  transmitCarrier := bitField (task.word 2) 0 8
  releaseGap := (task.word 3).toNat
  repeatPeriod := (task.word 4).toNat
  pressLimit := (task.word 5).toNat

/-- S1 to S6 of a group as GROUP READ returns them (R186): the repeat choice reads 1 when a repeat pattern is
present. -/
def settingsWords (g : GroupSettings) (repeatPresent : Bool) : List Word :=
  [wordOf (g.inputMask.toNat + g.duty.field * 2 ^ 4 + g.repeatTolerance.val * 2 ^ 8 + bitAt repeatPresent 12),
   wordOf (g.receiveNominal + g.receiveWindow * 2 ^ 8),
   wordOf g.transmitCarrier,
   wordOf g.releaseGap,
   wordOf g.repeatPeriod,
   wordOf g.pressLimit]

/-! ## Entry words (R187, R190) -/

/-- Group field of w1 of ENTRY INSTALL. -/
def installGroup (w1 : Word) : GroupNo := Fin.ofNat 16 (bitField w1 12 4)

/-- Alternate-present bit of w1 of ENTRY INSTALL. -/
def installAlternate (w1 : Word) : Bool := w1.getLsbD 8

/-- Tolerance class of w1 of ENTRY INSTALL. -/
def installTolerance (w1 : Word) : Fin 8 := Fin.ofNat 8 (bitField w1 0 3)

/-- State field of an ENTRY READ header. -/
def EntryStatus.field : EntryStatus → Nat
  | .active => 1
  | .suspended => 2
  | .damaged => 3

/-- The header word of ENTRY READ (R190). -/
def entryHeader (e : Installed) (gen : Fin 16) : Word :=
  wordOf (e.status.field * 2 ^ 14 + bitAt e.alternate.isSome 13 + bitAt e.mainDamaged 12
    + bitAt e.alternateDamaged 11 + e.tolerance.val * 2 ^ 8 + e.group.val * 2 ^ 4 + gen.val)

/-- The header word of GROUP READ (R186). -/
def groupHeader (g : Group) : Word :=
  wordOf (bitAt g.repeatDamaged 14 + bitAt g.repeatPattern.isSome 13 + g.entryCount)

/-! ## Conflict words (R181) -/

/-- The two result words of CONFLICT; `handleWord` is the word of the handle of an entry's slot. -/
def conflictWords (handleWord : SlotNo → Word) : ContenderOwner → List Word
  | .stored (.frame slot .main) => [wordOf 1, handleWord slot]
  | .stored (.frame slot .alternate) => [wordOf 2, handleWord slot]
  | .stored (.ofGroup g) => [wordOf 3, wordOf g.val]
  | .reservedFrame _ | .reservedRepeat => [wordOf 4, noHandleWord]

/-! ## Input words (R192) -/

/-- Word `k` of INPUT CONFIGURE lies in its range. -/
def inputWordAccepted (k : Nat) (w : Word) : Bool :=
  match k with
  | 0 => decide (bitField w 0 2 ≤ 2)
  | 1 => decide (3 ≤ w.toNat ∧ w.toNat ≤ 40)
  | _ => decide (8 ≤ w.toNat ∧ w.toNat ≤ 120)

/-- The polarity bit of w1 of INPUT CONFIGURE and OUTPUT CONFIGURE. -/
def polarityOf (w1 : Word) : Polarity := if w1.getLsbD 4 then .activeHigh else .activeLow

/-- The configuration record of INPUT CONFIGURE. -/
def Task.inputConfig (task : Task) : InputConfig where
  kind := match bitField (task.word 0) 0 2 with
    | 1 => .carrier
    | 2 => .envelope
    | _ => .off
  polarity := polarityOf (task.word 0)
  endGap := (task.word 1).toNat
  glitchFloor := (task.word 2).toNat
  blankMask := BitVec.ofNat 2 (bitField (task.word 0) 8 2)

/-- State field of INPUT STATUS. -/
def Assembler.field : Assembler → Nat
  | .off => 0
  | .waiting _ => 1
  | .assembling _ => 2
  | .discarding _ => 3
  | .blanked => 4

/-- The result word of INPUT STATUS (R192). -/
def inputStatusWord (i : Input) : Word :=
  wordOf (bitAt i.sticky.overrun 0 + bitAt i.sticky.overlength 1 + bitAt i.sticky.stuck 2
    + bitAt i.sticky.blankedDrop 3 + bitAt i.sticky.unmatched 4 + bitAt i.sticky.orphanRepeat 5
    + bitAt i.sticky.pressRefused 6 + i.assembler.field * 2 ^ 8)

/-! ## Press words (R119, R193) -/

/-- End cause field of a report. -/
def EndCause.field : EndCause → Nat
  | .released => 1
  | .limit => 2
  | .newPress => 3
  | .otherKey => 4
  | .forced => 5
  | .retired => 6
  | .suspended => 7
  | .damaged => 8
  | .groupChanged => 9
  | .inputChanged => 10

/-- Variant field, 0 or 1. -/
def Variant.field : Variant → Nat
  | .main => 0
  | .alternate => 1

/-- The duration from a start time to a last credit time: whole milliseconds, held at 65,535 (R97). -/
def pressDuration (startTime lastCredit : Time) : Nat :=
  min ((lastCredit - startTime) / Config.ms) Config.counterLimit

/-- The duration a report shows (R119). -/
def Press.duration (p : Press) : Nat :=
  match p.life with
  | .ended _ d => d
  | .held .. => pressDuration p.startTime p.lastCredit

/-- Whether a press record is ENDED. -/
def Press.isEnded (p : Press) : Bool :=
  match p.life with
  | .ended .. => true
  | .held .. => false

/-- End cause field: 0 while HELD. -/
def Press.causeField (p : Press) : Nat :=
  match p.life with
  | .ended c _ => c.field
  | .held .. => 0

/-- The six report words of a record (R193). -/
def reportWords (r : PressNo) (p : Press) : List Word :=
  [wordOf (p.causeField * 2 ^ 12 + bitAt p.endPending 9 + bitAt p.startPending 8 + bitAt p.isEnded 7 + r.val),
   wordOf (p.group.val * 2 ^ 12 + p.variant.field * 2 ^ 10 + p.input.val * 2 ^ 8 + p.sequence.toNat),
   p.handle.toWord,
   p.key,
   wordOf p.frames,
   wordOf p.duration]

/-! ## Relay words (R195, R196) -/

/-- Mode field of a relay word. -/
def RelayMode.field : RelayMode → Nat
  | .once count => count * 2 ^ 12
  | .follow => 2 ^ 8

/-- Source input mask of a relay word. -/
def relayInputMask (w3 : Word) : InputMask := BitVec.ofNat 4 (bitField w3 0 4)

/-- Target output mask of a relay word. -/
def relayOutputMask (w3 : Word) : OutputMask := BitVec.ofNat 2 (bitField w3 4 2)

/-- Mode of a relay word; the count is ignored for FOLLOW. -/
def relayMode (w3 : Word) : RelayMode := if w3.getLsbD 8 then .follow else .once (bitField w3 12 4)

/-- The relay word lies in its ranges: no mask empty, and a ONCE count of 1 to 15 (R125, R195). -/
def relayWordAccepted (w3 : Word) : Bool :=
  decide (relayInputMask w3 ≠ 0) && decide (relayOutputMask w3 ≠ 0)
    && (w3.getLsbD 8 || decide (1 ≤ bitField w3 12 4))

/-- The relay word of a record, in the layout of RELAY SET (R195, R196). -/
def RelayRecord.word (r : RelayRecord) : Word :=
  wordOf (r.inputMask.toNat + r.outputMask.toNat * 2 ^ 4 + r.mode.field)

/-- Last outcome field of RELAY READ. -/
def RelayOutcome.field : RelayOutcome → Nat
  | .none => 0
  | .queued => 1
  | .queueFull => 2
  | .targetStale => 3
  | .targetDamaged => 4
  | .outputOff => 5

/-- The result words of RELAY READ (R196). -/
def relayWords : Option RelayRecord → List Word
  | none => [wordOf 0]
  | some r =>
    [wordOf ((if r.stale then 2 else 1) + r.lastOutcome.field * 2 ^ 4), r.source.toWord, r.target.toWord, r.word]

/-! ## Output words (R197, R198) -/

/-- Word `k` of OUTPUT CONFIGURE lies in its range. -/
def outputWordAccepted (k : Nat) (w : Word) : Bool :=
  match k with
  | 0 => decide (bitField w 0 2 ≤ 2)
  | 1 => decide (5 ≤ w.toNat ∧ w.toNat ≤ 50)
  | _ => decide (1 ≤ w.toNat ∧ w.toNat ≤ 60)

/-- The configuration record of OUTPUT CONFIGURE. -/
def Task.outputConfig (task : Task) : OutputConfig where
  kind := match bitField (task.word 0) 0 2 with
    | 1 => .modulated
    | 2 => .envelope
    | _ => .off
  polarity := polarityOf (task.word 0)
  minItemSpace := (task.word 1).toNat
  holdLimit := (task.word 2).toNat

/-- State field of OUTPUT STATUS. -/
def OutputState.field : OutputState → Nat
  | .off => 0
  | .idle => 1
  | .grant => 2
  | .frame _ => 3
  | .interval _ => 4
  | .space _ => 5

/-- Outcome field of a completion record. -/
def ItemOutcome.field : ItemOutcome → Nat
  | .sent => 1
  | .limit => 2
  | .stale => 3
  | .damaged => 4
  | .flushed => 5
  | .outputOff => 6

/-- Whether a form is HOLD. -/
def ItemForm.isHold : ItemForm → Bool
  | .send _ => false
  | .hold => true

/-- SEND count field; 0 for a HOLD. -/
def ItemForm.countField : ItemForm → Nat
  | .send c => c
  | .hold => 0

/-- Word 2 of OUTPUT STATUS: the completion record, 0 when it is empty. -/
def completionWord : Option Completion → Word
  | none => 0
  | some c => wordOf (c.tag.toNat + bitAt c.hold 8 + c.outcome.field * 2 ^ 12)

/-- Words 3 to 6 of OUTPUT STATUS, for an ACTIVE item (R197). -/
def activeItemWords (item : Item) (a : ActiveItem) : List Word :=
  let relayed := match item.origin with
    | .host _ => false
    | .relay _ => true
  let named := match item.origin with
    | .host tag => tag.toNat
    | .relay p => p.record.val * 2 ^ 8 + p.sequence.toNat
  let pendingField := match item.endPending with
    | none => 0
    | some o => o.field
  [wordOf (bitAt relayed 15 + bitAt item.form.isHold 14 + a.variant.field * 2 ^ 13 + bitAt item.holdEnded 12
     + item.form.countField * 2 ^ 8 + pendingField),
   wordOf named,
   item.handle.toWord,
   wordOf a.framesSent]

/-- The result words of OUTPUT STATUS (R156, R197). -/
def outputStatusWords (o : Output) : List Word :=
  let active := match o.queue with
    | item :: _ => item.active.map (activeItemWords item)
    | [] => none
  wordOf (bitAt o.hostDone 0 + bitAt o.relayRefused 1 + bitAt o.damageSeen 2 + o.state.field * 2 ^ 4
      + o.queue.length * 2 ^ 8 + bitAt active.isSome 12)
    :: completionWord o.completion :: active.getD []

/-- The count field of w2 of SEND (R198). -/
def sendCount (w2 : Word) : Nat := bitField w2 0 4

/-- The tag of w2 of SEND, bits 15 to 8 (R198). -/
def sendTag (w2 : Word) : BitVec 8 := w2.extractLsb' 8 8

/-- The tag of HOLD START and HOLD END, and the sequence of PRESS END: bits 7 to 0 (R194, R198, R199). -/
def lowByte (w : Word) : BitVec 8 := w.extractLsb' 0 8

/-! ## The check of each parameter word (R170, R179) -/

/-- The number of parameter words of an ENTRY INSTALL whose first three words are taken (R187). -/
def Task.installTotal (task : Task) : Nat :=
  let n := (task.word 2).toNat
  3 + (if installAlternate (task.word 0) then 2 * n else n)

/-- The check of run word number `count` of `total` words in all. -/
def runVerdict (w : Word) (count total : Nat) : WordVerdict :=
  if runAccepted w then (if count < total then .next else .last) else .refused .badRun

/-- Accept a word, and go on to `v`, or refuse it BAD_PARAMETER. -/
def accept (ok : Bool) (v : WordVerdict) : WordVerdict := if ok then v else .refused .badParameter

/-- The check of a GROUP DEFINE or GROUP EDIT word (R183 to R185). `task` holds the words taken before. -/
def groupWordVerdict (choices : Nat) (task : Task) (w : Word) : WordVerdict :=
  let k := task.words.length
  if k < 5 then accept (settingsWordAccepted choices k w) .next
  else if k = 5 then
    accept (settingsWordAccepted choices k w) (if repeatChoice (task.word 0) = 1 then .next else .last)
  else if k = 6 then .step
  else runVerdict w (k + 1) (7 + (task.word 6).toNat)

/-- The check of the parameter word `w` of a command, `task` holding the words taken before it (R170, chapter
10). -/
def wordVerdict (task : Task) (w : Word) : WordVerdict :=
  let k := task.words.length
  match task.command with
  | .groupDefine => groupWordVerdict 1 task w
  | .groupEdit => groupWordVerdict 2 task w
  | .entryInstall =>
    if k < 2 then .next else if k = 2 then .step else runVerdict w (k + 1) task.installTotal
  | .entryEdit => if k < 2 then .next else .last
  | .entrySuspend | .entryResume | .entryRetire | .entryRead | .entryFind | .pressEnd | .relayClear
  | .holdEnd => .last
  | .inputConfigure => accept (inputWordAccepted k w) (if k < 2 then .next else .last)
  | .relaySet => if k < 2 then .next else accept (relayWordAccepted w) .last
  | .relayRead => accept (decide (w.toNat ≤ 63)) .last
  | .outputConfigure => accept (outputWordAccepted k w) (if k < 2 then .next else .last)
  | .send => if k = 0 then .next else accept (decide (1 ≤ sendCount w)) .last
  | .holdStart => if k = 0 then .next else .last
  | .initializePart | .tableStatus | .groupRemove | .groupRead | .entryList | .inputStatus | .report
  | .pressRead | .outputStatus | .outputFlush => .last

/-- The 0-based index of the run a parameter word is, for the words written into the reservation (R51). -/
def runIndex (task : Task) : Option Nat :=
  let k := task.words.length
  match task.command with
  | .entryInstall => if 3 ≤ k then some (k - 3) else none
  | .groupDefine | .groupEdit => if 7 ≤ k then some (k - 7) else none
  | _ => none

end Sys2Proof.Machine
end

