-- ==== Sys2Proof/Machine/Flags.lean ====
section
/-! DEFINITION. The status and control words of the host port and the INT line (R161 to R168). -/

namespace Sys2Proof.Machine

/-- BUSY: a command is in progress (R162, R168). -/
def Engine.busy : Engine → Bool
  | .testing | .idle => false
  | .parameter .. | .execute .. | .result .. | .cleanup .. => true

/-- XREQ: a word is awaited in PARAMETER or offered in RESULT (R162, R168). -/
def Engine.xreq : Engine → Bool
  | .parameter _ (.word _) => true
  | .result .. => true
  | .parameter _ (.step _) | .testing | .idle | .execute .. | .cleanup .. => false

/-- XDIR: the requested word is offered by the part (R162). -/
def Engine.xdir : Engine → Bool
  | .result .. => true
  | .parameter .. | .testing | .idle | .execute .. | .cleanup .. => false

/-- ATTN: at least one ATTENTION bit is 1 (R162, R167). -/
def Attention.any (a : Attention) : Bool :=
  a.input[0] || a.input[1] || a.input[2] || a.input[3] || a.output[0] || a.output[1] || a.table

/-- REPORT: the report list holds at least one record (R117, R162). -/
def State.reportFlag (s : State) : Bool := !s.tracker.reportList.isEmpty

/-- The FLAGS word (R161, R162). -/
def State.flagsWord (s : State) : Word :=
  wordOf (bitAt s.port.ready 15 + bitAt s.port.engine.busy 14 + bitAt s.port.engine.xreq 13
    + bitAt s.port.engine.xdir 12 + bitAt s.port.done 11 + bitAt s.port.fault 10 + bitAt s.port.collide 9
    + bitAt s.reportFlag 8 + bitAt s.port.attention.any 7)

/-- The CONTROL word; bit 15 reads 0 (R161, R165). -/
def State.controlWord (s : State) : Word := wordOf s.port.enables.toNat

/-- The outcome codes (R176). -/
def HostOutcome.code : HostOutcome → Nat
  | .ok => 0
  | .badCommand => 1
  | .badParameter => 2
  | .aborted => 3
  | .xferTimeout => 4
  | .tableFull => 5
  | .noSpace => 6
  | .duplicateKey => 7
  | .conflict => 8
  | .noSuchEntry => 9
  | .noSuchGroup => 10
  | .groupNotEmpty => 11
  | .badRun => 12
  | .queueFull => 13
  | .noSuchPress => 14
  | .noSuchHold => 15
  | .outputOff => 16
  | .entryDamaged => 17
  | .relayFull => 18
  | .duplicateTag => 19
  | .groupDefined => 20

/-- The COMPLETION word (R161, R166). -/
def HostCompletion.word (c : HostCompletion) : Word :=
  wordOf (c.code.toNat * 2 ^ 8 + bitAt c.cut 7 + c.outcome.code)

/-- The ATTENTION word (R161, R167). -/
def Attention.word (a : Attention) : Word :=
  wordOf (bitAt a.input[0] 0 + bitAt a.input[1] 1 + bitAt a.input[2] 2 + bitAt a.input[3] 3
    + bitAt a.output[0] 4 + bitAt a.output[1] 5 + bitAt a.table 6)

/-- The result word on offer, if one is (R172, R173). -/
def Engine.offered : Engine → Option Word
  | .result _ _ w _ _ => some w
  | .parameter .. | .testing | .idle | .execute .. | .cleanup .. => none

/-- What a read of a location returns (R161): 0 for TRANSFER with nothing offered and for locations 5 to 7. -/
def State.readLocation (s : State) (location : Nat) : Word :=
  match location with
  | 0 => s.flagsWord
  | 1 => s.port.engine.offered.getD 0
  | 2 => s.controlWord
  | 3 => s.port.completion.word
  | 4 => s.port.attention.word
  | _ => 0

/-- The INT line is driven low: an enabled condition holds (R165). -/
def State.intLow (s : State) : Bool :=
  (s.port.enables.getLsbD 3 && s.port.attention.any) || (s.port.enables.getLsbD 2 && s.reportFlag)
    || (s.port.enables.getLsbD 1 && s.port.fault) || (s.port.enables.getLsbD 0 && s.port.done)

end Sys2Proof.Machine
end

