-- ==== Sys2Proof/Machine/Timing.lean ====
section
/-! DEFINITION. Timing patterns (chapter 1): tolerance windows, the carrier filter and the estimate, and the
intersection of windows. -/

namespace Sys2Proof.Machine

/-- The percentage of a tolerance class (R6). -/
def tolerancePercent (c : Fin 8) : Nat := [6, 9, 12, 15, 18, 21, 25, 30].getD c.val 0

/-- The slack of a run of duration `d`: the larger of floor(d p / 100) and 40 (R7). -/
def slack (c : Fin 8) (d : Nat) : Nat := max (d * tolerancePercent c / 100) Config.minSlack

/-- The low bound of a window, held at 1 (R7). -/
def windowLow (c : Fin 8) (d : Nat) : Nat := max (d - slack c d) 1

/-- The high bound of a window (R7). -/
def windowHigh (c : Fin 8) (d : Nat) : Nat := d + slack c d

/-- A burst run lies in the window of a stored run (R7). -/
def inWindow (c : Fin 8) (d b : Nat) : Bool := decide (windowLow c d ≤ b ∧ b ≤ windowHigh c d)

/-- Two windows intersect when the low bound of each is at most the high bound of the other (R8). -/
def windowsIntersect (c₁ : Fin 8) (d₁ : Nat) (c₂ : Fin 8) (d₂ : Nat) : Bool :=
  decide (windowLow c₁ d₁ ≤ windowHigh c₂ d₂ ∧ windowLow c₂ d₂ ≤ windowHigh c₁ d₁)

/-- The carrier filter of a group (R11). -/
def passesCarrier (g : GroupSettings) (kind : BurstKind) (estimate : Option Nat) : Bool :=
  match kind with
  | .envelope => true
  | .carrier =>
    if g.receiveNominal = 0 then true
    else match estimate with
      | none => false
      | some e => decide (g.receiveNominal ≤ e + g.receiveWindow ∧ e ≤ g.receiveNominal + g.receiveWindow)

/-- The carrier estimate over a segment of `edges` active edges whose first and last lie `span` us apart:
2000 (c - 1) / T rounded to the nearest, a half up, at most 255; absent below 4 edges (R67). -/
def carrierEstimate (edges : Nat) (span : Time) : Option Nat :=
  if edges < 4 then none
  else if span = 0 then some 255
  else some (min ((2 * (2000 * (edges - 1)) + span) / (2 * span)) 255)

/-- The carrier period in cycles of the 16 MHz clock, rounded to the nearest (R144). -/
def carrierPeriod (f : Nat) : Nat := (2 * 32000 + f) / (2 * f)

/-- The on-phase of a carrier period in clock cycles, rounded down (R144). -/
def onPhase (f : Nat) (duty : Duty) : Nat :=
  match duty with
  | .quarter => carrierPeriod f / 4
  | .third => carrierPeriod f / 3
  | .half => carrierPeriod f / 2

/-- The input is in the mask (R9). -/
def InputMask.has (m : InputMask) (i : InputId) : Bool := m.getLsbD i.val

/-- The output is in the mask. -/
def OutputMask.has (m : OutputMask) (o : OutputId) : Bool := m.getLsbD o.val

/-- The mask with the output added (R53). -/
def OutputMask.insert (m : OutputMask) (o : OutputId) : OutputMask := m ||| BitVec.twoPow 2 o.val

/-- The mask with the output removed (R54). -/
def OutputMask.remove (m : OutputMask) (o : OutputId) : OutputMask := m &&& ~~~(BitVec.twoPow 2 o.val)

end Sys2Proof.Machine
end

