-- ==== Sys2Proof/Machine/Pool.lean ====
section
/-! DEFINITION. The cell pool (chapter 3): reading and writing runs, reservation, references, release, faults. -/

namespace Sys2Proof.Machine

/-- The parity bit of a run: DESIGN CHOICE, log entry 10, even parity over its 16 bits. -/
def parityOf (w : Word) : Bool := (List.range 16).foldl (fun acc k => acc ^^ w.getLsbD k) false

/-- A run as it is written, with its parity (R48). -/
def StoredRun.of (w : Word) : StoredRun := ⟨w, parityOf w⟩

/-- The cell and position of run `k` (counting from 1) of a chain (R16, R48). -/
def runPlace (chain : List CellNo) (k : Nat) : Option (CellNo × Fin 8) :=
  (chain[(k - 1) / 8]?).map (fun c => (c, Fin.ofNat 8 (k - 1)))

/-- The read of run `k` of a chain: unreadable when the cell carries a fault mark or the parity is wrong (R48). -/
def Pool.readRun (p : Pool) (chain : List CellNo) (k : Nat) : RunRead :=
  match runPlace chain k with
  | none => .absent
  | some (c, pos) =>
    let cell := p.cells[c]
    let run := cell.runs[pos]
    if cell.fault || (parityOf run.value != run.parity) then .unreadable c else .value run.value.toNat

/-- Change one cell record. -/
def Pool.modifyCell (p : Pool) (c : CellNo) (f : Cell → Cell) : Pool :=
  { p with cells := p.cells.set c (f p.cells[c]) }

/-- Change the cells of a chain. -/
def Pool.modifyChain (p : Pool) (chain : List CellNo) (f : Cell → Cell) : Pool :=
  chain.foldl (fun p c => p.modifyCell c f) p

/-- A fault recorded on a cell sets its mark; a second record adds nothing (R57). -/
def Pool.recordFault (p : Pool) (c : CellNo) : Pool := p.modifyCell c (fun cell => { cell with fault := true })

/-- A reservation of `n` cells from the head of the free list, or none at all (R50). -/
def Pool.reserve (p : Pool) (n : Nat) : Option Pool :=
  if p.freeList.length < n then none
  else
    let taken := p.freeList.take n
    let p := p.modifyChain taken (fun cell => { cell with condition := .reserved, fault := false, refs := 0 })
    some { p with freeList := p.freeList.drop n, reservation := taken }

/-- The cells of a reservation for `n` runs per pattern: the main (or repeat) part, and the alternate's part (R50,
R51). -/
def reservationParts (n : Nat) (reservation : List CellNo) : List CellNo × List CellNo :=
  (reservation.take (cellsFor n), reservation.drop (cellsFor n))

/-- A checked run word is written into position `k` (from 1) of a chain of reserved cells (R51). -/
def Pool.writeRun (p : Pool) (chain : List CellNo) (k : Nat) (w : Word) : Pool :=
  match runPlace chain k with
  | none => p
  | some (c, pos) => p.modifyCell c (fun cell => { cell with runs := cell.runs.set pos (StoredRun.of w) })

/-- At a successful final step every reserved cell becomes OWNED and the reservation no longer exists (R51). -/
def Pool.ownReservation (p : Pool) : Pool :=
  { p.modifyChain p.reservation (fun cell => { cell with condition := .owned }) with reservation := [] }

/-- A cell comes back: it joins the tail of the free list, or becomes WITHHELD when its fault mark is set (R49,
R58). It carries no references and no mark in either condition (R47). -/
def Pool.returnCell (p : Pool) (c : CellNo) : Pool :=
  if p.cells[c].fault then
    p.modifyCell c (fun cell => { cell with condition := .withheld, fault := false, refs := 0 })
  else
    { p.modifyCell c (fun cell => { cell with condition := .free, refs := 0 }) with freeList := p.freeList ++ [c] }

/-- The cells of a chain come back in chain order (R49, R52, R54, R55). -/
def Pool.returnCells (p : Pool) (chain : List CellNo) : Pool := chain.foldl Pool.returnCell p

/-- Some cell of a chain carries a fault mark, so that its return raises TABLE attention (R58). -/
def Pool.anyFault (p : Pool) (chain : List CellNo) : Bool := chain.any (fun c => p.cells[c].fault)

/-- The reference set of a chain; its cells all carry the same one (R55). -/
def Pool.chainRefs (p : Pool) (chain : List CellNo) : OutputMask :=
  match chain with
  | [] => 0
  | c :: _ => p.cells[c].refs

/-- The reference of an output is added to every cell of a chain (R53). -/
def Pool.addReference (p : Pool) (chain : List CellNo) (o : OutputId) : Pool :=
  p.modifyChain chain (fun cell => { cell with refs := OutputMask.insert cell.refs o })

/-- The reference of an output leaves every cell of a chain (R54). -/
def Pool.dropReference (p : Pool) (chain : List CellNo) (o : OutputId) : Pool :=
  p.modifyChain chain (fun cell => { cell with refs := OutputMask.remove cell.refs o })

/-- The number of cells in a condition (R44). -/
def Pool.count (p : Pool) (c : CellCondition) : Nat := p.cells.toList.countP (fun cell => cell.condition == c)

end Sys2Proof.Machine
end

