-- ==== Sys2Proof/Machine/Ops.lean ====
section
/-! DEFINITION. Shared operations over the state: record updates, ATTENTION, sticky bits, claims and the rotation,
pool requests, messages, and the passing of time. -/

namespace Sys2Proof.Machine

/-! ## Record updates -/

/-- Change one input. -/
def State.setInput (s : State) (i : InputId) (x : Input) : State := { s with inputs := s.inputs.set i x }

/-- Change one output. -/
def State.setOutput (s : State) (o : OutputId) (x : Output) : State := { s with outputs := s.outputs.set o x }

/-- Change one entry record. -/
def State.setEntry (s : State) (slot : SlotNo) (e : Entry) : State := { s with entries := s.entries.set slot e }

/-- Change one group record. -/
def State.setGroup (s : State) (g : GroupNo) (x : Option Group) : State := { s with groups := s.groups.set g x }

/-- Change one press record. -/
def State.setPress (s : State) (r : PressNo) (x : Option Press) : State :=
  { s with tracker := { s.tracker with presses := s.tracker.presses.set r x } }

/-- Change one relay record. -/
def State.setRelay (s : State) (r : RelayNo) (x : Option RelayRecord) : State :=
  { s with relays := s.relays.set r x }

/-- Change the pool. -/
def State.setPool (s : State) (p : Pool) : State := { s with pool := p }

/-- Change the host port. -/
def State.setPort (s : State) (p : Port) : State := { s with port := p }

/-- Change the claims. -/
def State.setClaims (s : State) (c : Claims) : State := { s with claims := c }

/-- Change the messages. -/
def State.setMail (s : State) (m : Mail) : State := { s with mail := m }

/-! ## ATTENTION and sticky bits -/

/-- Set or clear ATTENTION INi (R167). -/
def State.setInputAttention (s : State) (i : InputId) (b : Bool) : State :=
  s.setPort { s.port with attention := { s.port.attention with input := s.port.attention.input.set i b } }

/-- Set or clear ATTENTION TXo (R167). -/
def State.setOutputAttention (s : State) (o : OutputId) (b : Bool) : State :=
  s.setPort { s.port with attention := { s.port.attention with output := s.port.attention.output.set o b } }

/-- Set or clear ATTENTION TABLE (R167). -/
def State.setTableAttention (s : State) (b : Bool) : State :=
  s.setPort { s.port with attention := { s.port.attention with table := b } }

/-- Raise TABLE attention when `b` (R58, R167). -/
def State.raiseTable (s : State) (b : Bool) : State := if b then s.setTableAttention true else s

/-- Set sticky bits of an input, and with them ATTENTION INi, whether or not they were already set (R78). -/
def State.setSticky (s : State) (i : InputId) (f : InputSticky → InputSticky) : State :=
  (s.setInput i { s.inputs[i] with sticky := f s.inputs[i].sticky }).setInputAttention i true

/-- Clear the seven sticky bits and ATTENTION INi (R79 to R81). -/
def State.clearSticky (s : State) (i : InputId) : State :=
  (s.setInput i { s.inputs[i] with sticky := InputSticky.clear }).setInputAttention i false

/-! ## Claims and the rotation (R22, R23) -/

/-- The place of a position in the order IN0, IN1, IN2, IN3, TX0, TX1, HOST (R23). -/
def Position.rank : Position → Nat
  | .input i => i.val
  | .output o => 4 + o.val
  | .host => 6

/-- The position of a rank. -/
def Position.ofRank (n : Nat) : Position :=
  if n < 4 then .input (Fin.ofNat 4 n) else if n < 6 then .output (Fin.ofNat 2 (n - 4)) else .host

/-- A claim waits at the position (R22). -/
def Claims.waiting (c : Claims) : Position → Bool
  | .input i => c.lookup[i]
  | .output o => c.output[o].isSome
  | .host => c.host.isSome

/-- The seven positions in rotation order, from the one after the last served (R23). -/
def Claims.rotation (c : Claims) : List Position :=
  (List.range 7).map (fun d => Position.ofRank ((c.last.rank + 1 + d) % 7))

/-- The position the table controller serves next, if a claim waits (R23). -/
def Claims.nextServed (c : Claims) : Option Position := c.rotation.find? c.waiting

/-- The table controller serves this position now: it is next in rotation, and the releases of the operation served
before have been taken (log entry 8). -/
def State.turnOf (s : State) (p : Position) : Bool :=
  decide (s.claims.nextServed = some p) && s.mail.releases.isEmpty

/-- Raise the lookup claim of an input (R75). -/
def State.raiseLookup (s : State) (i : InputId) : State :=
  s.setClaims { s.claims with lookup := s.claims.lookup.set i true }

/-- Withdraw the lookup claim of an input (R22, R80). -/
def State.withdrawLookup (s : State) (i : InputId) : State :=
  s.setClaims { s.claims with lookup := s.claims.lookup.set i false }

/-- Put a claim at an output's position, or take it away. -/
def State.setOutputClaim (s : State) (o : OutputId) (c : Option OutputClaim) : State :=
  s.setClaims { s.claims with output := s.claims.output.set o c }

/-- Raise a table step of the host (R22). -/
def State.raiseHost (s : State) (h : HostStep) : State := s.setClaims { s.claims with host := some h }

/-- The claim of a position has been served: it waits no more and the position is the last served (R23). -/
def State.served (s : State) (p : Position) : State :=
  let c := match p with
    | .input i => { s.claims with lookup := s.claims.lookup.set i false }
    | .output o => { s.claims with output := s.claims.output.set o none }
    | .host => { s.claims with host := none }
  s.setClaims { c with last := p }

/-- Whether an output's frame grant claim waits at its position. -/
def State.grantWaits (s : State) (o : OutputId) : Bool := decide (s.claims.output[o] = some .frameGrant)

/-- An output raises its frame grant claim, or defers it while its damage notice waits (R139, R152). -/
def State.raiseGrant (s : State) (o : OutputId) : State :=
  match s.claims.output[o] with
  | some (.damage _) => s
  | _ => s.setOutputClaim o (some .frameGrant)

/-- A frame grant claim waiting is withdrawn; a damage notice is not (R22, R153, R154). -/
def State.withdrawGrant (s : State) (o : OutputId) : State :=
  if s.grantWaits o then s.setOutputClaim o none else s

/-! ## Pool requests -/

/-- The cells of a chain come back to the pool; TABLE attention is raised when one becomes WITHHELD (R49, R58). -/
def State.returnCells (s : State) (chain : List CellNo) : State :=
  (s.setPool (s.pool.returnCells chain)).raiseTable (s.pool.anyFault chain)

/-- The reservation is returned in chain order (R52). -/
def State.returnReservation (s : State) : State :=
  let chain := s.pool.reservation
  (s.setPool { s.pool with reservation := [] }).returnCells chain

/-- A release of a chain is sent to the pool (R55). -/
def State.sendRelease (s : State) (chain : List CellNo) : State :=
  s.setMail { s.mail with releases := s.mail.releases ++ [chain] }

/-- An output sends the removal of its references from a chain (R54). -/
def State.sendRemoval (s : State) (o : OutputId) (chain : List CellNo) : State :=
  s.setMail { s.mail with removals := s.mail.removals.set o (some chain) }

/-- A fault is recorded on a cell (R57). -/
def State.recordFault (s : State) (c : CellNo) : State := s.setPool (s.pool.recordFault c)

/-! ## Messages -/

/-- A notice goes onto the ordered notice path (R25, R94). -/
def State.sendNotice (s : State) (n : Notice) : State := s.setMail { s.mail with path := s.mail.path ++ [n] }

/-- A retire notice goes to the relay unit (R25, R34). -/
def State.sendRetire (s : State) (h : Handle) : State := s.setMail { s.mail with retires := s.mail.retires ++ [h] }

/-- An input-change notice goes to the press tracker (R80). -/
def State.sendInputChange (s : State) (i : InputId) : State :=
  s.setMail { s.mail with inputChanges := s.mail.inputChanges ++ [i] }

/-- The matcher or the press tracker requests a sticky bit of an input (R78, R93, R105, R106). -/
def State.requestSticky (s : State) (i : InputId) (b : RequestedBit) : State :=
  s.setMail { s.mail with sticky := s.mail.sticky.set i (s.mail.sticky[i] ++ [b]) }

/-- The relay unit sends a link request (R115, R129). -/
def State.sendLinkRequest (s : State) (o : OutputId) (p : PressName) : State :=
  s.setMail { s.mail with linkRequests := s.mail.linkRequests ++ [⟨o, p⟩] }

/-- An output sends a link-clear notice (R116, R149). -/
def State.sendLinkClear (s : State) (o : OutputId) (p : PressName) : State :=
  s.setMail { s.mail with linkClears := s.mail.linkClears.set o (s.mail.linkClears[o] ++ [p]) }

/-- The press tracker sends a press start to the relay unit (R114). -/
def State.sendPressStart (s : State) (p : PressStart) : State :=
  s.setMail { s.mail with pressStarts := s.mail.pressStarts ++ [p] }

/-- The press tracker sends hold-ended to an output (R110, R115). -/
def State.sendHoldEnded (s : State) (o : OutputId) (p : PressName) : State :=
  s.setMail { s.mail with holdEnded := s.mail.holdEnded.set o (s.mail.holdEnded[o] ++ [p]) }

/-! ## Time (R2, R143) -/

/-- Drive the runs of a frame that begin by `now`: the output reads each run as it begins to drive it, and stops at
a run that is unreadable (R143, R151; log entry 23). At most `fuel` runs. -/
def driveRuns (pool : Pool) (now : Time) : Nat → Frame → Frame
  | 0, f => f
  | fuel + 1, f =>
    if f.run < f.runCount ∧ f.runEnd ≤ now then
      match pool.readRun f.chain (f.run + 1) with
      | .value d => driveRuns pool now fuel { f with run := f.run + 1, runStart := f.runEnd, runEnd := f.runEnd + d }
      | .unreadable _ | .absent => f
    else f

/-- An output drives its frame up to `now`. -/
def Output.drive (pool : Pool) (now : Time) (x : Output) : Output :=
  match x.state with
  | .frame f => { x with state := .frame (driveRuns pool now f.runCount f) }
  | .off | .idle | .grant | .interval _ | .space _ => x

/-- The timebase reaches `t`, unless it has passed it, and the outputs drive their frames up to then (R2, R143; log
entry 1). -/
def State.advanceTo (s : State) (t : Time) : State :=
  let now := max s.timebase t
  { s with timebase := now, outputs := s.outputs.map (Output.drive s.pool now) }

end Sys2Proof.Machine
end

