-- ==== Sys2Proof/Machine/Engine.lean ====
section
/-! DEFINITION. The host port's shared operations (chapter 9): SPI frames, the taking and ending of commands, the
parameter, execute and result phases, the transfer timer's effects and ABORT. -/

namespace Sys2Proof.Machine

/-! ## SPI frames (R159, R160) -/

/-- Replace the engine. -/
def State.setEngine (s : State) (e : Engine) : State := s.setPort { s.port with engine := e }

/-- Whether an address byte is a read (R159). -/
def isRead (address : BitVec 8) : Bool := address.getLsbD 7

/-- The word a frame of this address byte shifts out if it is captured now: for a read the location as it stands,
and 0 for a write (R159, R160, R173). -/
def State.captureWord (s : State) (address : BitVec 8) : Word :=
  if isRead address then s.readLocation (address.extractLsb' 0 3).toNat else 0

/-- Whether a frame of this address byte captured now captures an offered result word (R173). -/
def State.captureOffer (s : State) (address : BitVec 8) : Bool :=
  decide (address = addressByte true 1) && s.port.engine.offered.isSome

/-- Replace the SPI frame. -/
def State.setSpi (s : State) (x : SpiFrame) : State := s.setPort { s.port with spi := x }

/-- A frame whose SELECT has just fallen (R159). -/
def SpiShift.begun : SpiShift := { clocks := 0, address := 0, data := 0, word := 0, offered := false, void := false }

/-- One more clock: its MOSI bit joins the address byte or the data word, MSB first, and a 25th clock or a later one
joins neither (R159). -/
def SpiShift.shift (f : SpiShift) (mosi : Bool) : SpiShift :=
  { f with
    clocks := min (f.clocks + 1) 25
    address := if f.clocks < 8 then f.address.shiftConcat mosi else f.address
    data := if 8 ≤ f.clocks ∧ f.clocks < 24 then f.data.shiftConcat mosi else f.data }

/-- The frame can be, or go on to be, the 24-clock frame of this address byte and data word: every bit it has taken is
that frame's. The bits that MOSI brings in the data word of a read count for nothing (R159). -/
def SpiShift.fits (f : SpiShift) (address : BitVec 8) (w : Word) : Bool :=
  decide (f.clocks ≤ 24) && decide (f.address = address >>> (8 - f.clocks)) &&
    (isRead address || decide (f.data = w >>> (24 - max f.clocks 8)))

/-- The level of MISO in a frame (R159): the captured word, MSB first, from the 8th clock to the 24th, and 0 in the
address byte and after the 24th clock. -/
def SpiShift.misoBit (f : SpiShift) : Bool :=
  if 8 ≤ f.clocks ∧ f.clocks < 24 then f.word.getLsbD (23 - f.clocks) else false

/-- The level of MISO (R159); 0 while SELECT is high (log entry 12). -/
def State.misoLevel (s : State) : Bool :=
  match s.port.spi with
  | .none => false
  | .frame f => f.misoBit

/-- The capture of a frame whose address byte is complete (R160); a void frame captures nothing (R159). -/
def State.captureShift (s : State) (f : SpiShift) : State :=
  if f.void then s.setSpi (.frame f)
  else
    let w := s.captureWord f.address
    s.setPort { s.port with spi := .frame { f with word := w, offered := s.captureOffer f.address }, miso := w }

/-- The frame that an address byte completes: the one in progress, or a new one (log entry 4). -/
def SpiFrame.completed (x : SpiFrame) (address : BitVec 8) : SpiShift :=
  match x with
  | .none => { SpiShift.begun with clocks := 8, address := address }
  | .frame f =>
    if f.clocks < 8 ∧ f.address = address >>> (8 - f.clocks) then { f with clocks := 8, address := address }
    else { SpiShift.begun with clocks := 8, address := address }

/-- SELECT falls (R159). -/
def State.selectFalls (s : State) : State :=
  match s.port.spi with
  | .none => s.setSpi (.frame SpiShift.begun)
  | .frame _ => s

/-- One clock of the frame in progress (R159, R160). -/
def State.spiClock (s : State) (mosi : Bool) : State :=
  match s.port.spi with
  | .none => s
  | .frame f => if f.clocks = 7 then s.captureShift (f.shift mosi) else s.setSpi (.frame (f.shift mosi))

/-- The end of a 24-clock frame of this address byte and data word: what its capture fixed, or none when a reset has
made the frame void (R159, R160, R178). A frame whose capture did not come as a step of its own is captured now (log
entry 4). -/
def State.frameEnd (s : State) (address : BitVec 8) (w : Word) : Option (Word × Bool) × State :=
  let fresh : Option (Word × Bool) × State :=
    (some (s.captureWord address, s.captureOffer address),
      s.setPort { s.port with spi := .none, miso := s.captureWord address })
  match s.port.spi with
  | .none => fresh
  | .frame f =>
    if f.fits address w then
      if f.void then (none, s.setSpi .none)
      else if 8 ≤ f.clocks then (some (f.word, f.offered), s.setSpi .none)
      else fresh
    else fresh

/-- The effect of a write frame at its end; a void frame has none (R159, R160). -/
def State.writeFrame (s : State) (address : BitVec 8) (w : Word) (effect : State → State) : State :=
  match s.frameEnd address w with
  | (some _, s) => effect s
  | (none, s) => s

/-- COLLIDE is set (R164). -/
def State.collide (s : State) : State := s.setPort { s.port with collide := true }

/-! ## Phases (R168 to R172) -/

/-- A command ends, from any phase, in one event (R172): COMPLETION is written, XREQ, XDIR and the timer go with the
engine to IDLE, BUSY becomes 0 and DONE 1, and FAULT 1 unless the outcome is OK. -/
def State.endCode (s : State) (code : BitVec 8) (cut : Bool) (outcome : HostOutcome) : State :=
  s.setPort { s.port with
    completion := { code := code, cut := cut, outcome := outcome }
    engine := .idle
    done := true
    fault := s.port.fault || decide (outcome ≠ .ok) }

/-- The command of a task ends (R172). -/
def State.endTask (s : State) (task : Task) (cut : Bool) (outcome : HostOutcome) : State :=
  s.endCode task.command.code cut outcome

/-- The part asks for the next parameter word: XREQ 1, XDIR 0, the transfer timer starts (R170, R174). -/
def State.requestWord (s : State) (task : Task) : State := s.setEngine (.parameter task (.word s.timebase))

/-- A parameter step is raised; XREQ is 0 and no timer runs (R170). -/
def State.enterStep (s : State) (task : Task) : State :=
  (s.setEngine (.parameter task (.step false))).raiseHost (parameterStep task.command)

/-- The command enters EXECUTE and raises its table step, if its first step is one (R171). -/
def State.enterExecute (s : State) (task : Task) : State :=
  let s := s.setEngine (.execute task false)
  match executeStep task.command with
  | some h => s.raiseHost h
  | none => s

/-- The command has its outcome and its clean-up is raised (R29, R170). -/
def State.enterCleanup (s : State) (task : Task) (outcome : HostOutcome) : State :=
  (s.setEngine (.cleanup task outcome)).raiseHost .cleanUp

/-- A command ended in its parameter phase: through CLEANUP when a slot or a reservation has been taken, at once
otherwise (R29, R170, R174, R175). -/
def State.endOrCleanUp (s : State) (task : Task) (outcome : HostOutcome) : State :=
  if s.pool.reservation.isEmpty then s.endTask task false outcome else s.enterCleanup task outcome

/-- The last step of a command has ended with an outcome and its result words (R171, R175): RESULT when there are
words and no ABORT is held, otherwise the end of the command, with CUT when words were not offered. -/
def State.finish (s : State) (task : Task) (heldAbort : Bool) (outcome : HostOutcome) (results : List Word) : State :=
  match results with
  | [] => s.endTask task false outcome
  | w :: ws =>
    if heldAbort then s.endTask task true outcome
    else s.setEngine (.result task outcome w ws s.timebase)

/-- A parameter step has succeeded: a held ABORT ends the command ABORTED through CLEANUP; otherwise the next word is
requested (R170, R175). -/
def State.stepPassed (s : State) (task : Task) (heldAbort : Bool) : State :=
  if heldAbort then s.enterCleanup task .aborted else s.requestWord task

/-- A parameter step has failed: the command ends with the step's outcome (R170, R175). -/
def State.stepFailed (s : State) (task : Task) (outcome : HostOutcome) : State := s.endTask task false outcome

/-! ## COMMAND writes (R169, R179) -/

/-- A command with this code is taken (R169). -/
def State.takeCommand (s : State) (code arg : BitVec 8) : State :=
  let s := s.setPort { s.port with done := false, fault := false }
  match commandOfCode code with
  | none => s.endCode code false .badCommand
  | some c =>
    let task : Task := { command := c, arg := arg, words := [] }
    if argAccepted c arg then
      if hasParameters c then s.requestWord task else s.enterExecute task
    else s.endCode code false .badParameter

/-- The frame end of a COMMAND write: taken when READY is 1 and BUSY is 0, refused with COLLIDE otherwise (R164,
R169). -/
def State.commandWrite (s : State) (code arg : BitVec 8) : State :=
  s.writeFrame (addressByte false 0) (code ++ arg) (fun s =>
    if s.port.ready && !s.port.engine.busy then s.takeCommand code arg else s.collide)

/-! ## TRANSFER (R170, R173) -/

/-- The chain and position a run word is written to: the main part and then the alternate's part of the reservation
for an install, the whole reservation for a group (R51). -/
def State.runTarget (s : State) (task : Task) (index : Nat) : List CellNo × Nat :=
  match task.command with
  | .entryInstall =>
    let n := (task.word 2).toNat
    let parts := reservationParts n s.pool.reservation
    if index < n then (parts.1, index + 1) else (parts.2, index - n + 1)
  | _ => (s.pool.reservation, index + 1)

/-- A checked run word is written into its position of the reservation; any other word is not stored there (R51). -/
def State.storeRun (s : State) (task : Task) (w : Word) : State :=
  match runIndex task with
  | none => s
  | some index =>
    let target := s.runTarget task index
    s.setPool (s.pool.writeRun target.1 target.2 w)

/-- An awaited parameter word is taken and checked (R170). -/
def State.takeWord (s : State) (task : Task) (w : Word) : State :=
  let longer : Task := { task with words := task.words ++ [w] }
  match wordVerdict task w with
  | .refused outcome => s.endOrCleanUp task outcome
  | .next => (s.storeRun task w).requestWord longer
  | .step => s.enterStep longer
  | .last => (s.storeRun task w).enterExecute longer

/-- An offered result word is taken: the next is offered, or the command ends (R172). -/
def State.takeResult (s : State) : State :=
  match s.port.engine with
  | .result task outcome _ [] _ => s.endTask task false outcome
  | .result task outcome _ (w :: ws) _ => s.setEngine (.result task outcome w ws s.timebase)
  | .testing | .idle | .parameter .. | .execute .. | .cleanup .. => s

/-- The result phase is cut: the remaining words are dropped and the command ends with CUT and its own outcome (R174,
R175). -/
def State.cutResult (s : State) (task : Task) (outcome : HostOutcome) : State := s.endTask task true outcome

/-! ## CONTROL writes and ABORT (R165, R175) -/

/-- ABORT acts according to the state of the engine (R175). -/
def State.abortCommand (s : State) : State :=
  match s.port.engine with
  | .testing | .idle | .cleanup .. => s
  | .parameter task (.word _) => s.endOrCleanUp task .aborted
  | .parameter task (.step _) => s.setEngine (.parameter task (.step true))
  | .execute task _ => s.setEngine (.execute task true)
  | .result task outcome .. => s.cutResult task outcome

/-- The frame end of a CONTROL write: bits 3 to 0 replace the enables, every time; bit 15 raises ABORT (R165). -/
def State.controlWrite (s : State) (w : Word) : State :=
  s.writeFrame (addressByte false 2) w (fun s =>
    let s := s.setPort { s.port with enables := w.extractLsb' 0 4 }
    if w.getLsbD 15 then s.abortCommand else s)

/-! ## Steps of the command in progress (R171) -/

/-- A table step of the host is served: its claim waits and its turn has come; `body` gets the task and whether an
ABORT is held (R22, R23, R171). -/
def State.hostStep (s : State) (h : HostStep) (body : Task → Bool → State → State) : State :=
  if s.claims.host = some h ∧ s.turnOf .host then
    match s.port.engine with
    | .execute task heldAbort => body task heldAbort (s.served .host)
    | .parameter task (.step heldAbort) => body task heldAbort (s.served .host)
    | .parameter _ (.word _) | .testing | .idle | .result .. | .cleanup .. => s
  else s

/-- A block takes the request of the command in EXECUTE, when the command is `c` and no table step of it waits
(R171). -/
def State.blockRequest (s : State) (c : HostCommand) (body : Task → Bool → State → State) : State :=
  match s.port.engine with
  | .execute task heldAbort =>
    if task.command = c ∧ s.claims.host = none then body task heldAbort s else s
  | .testing | .idle | .parameter .. | .result .. | .cleanup .. => s

end Sys2Proof.Machine
end

