-- ==== Sys2Proof/Machine/Presses.lean ====
section
/-! DEFINITION. Shared operations of the press tracker (chapter 6): crediting, creating and ending presses, and the
report list. -/

namespace Sys2Proof.Machine

/-- The press is HELD. -/
def Press.isHeld (p : Press) : Bool := !p.isEnded

/-- The name of a press: record number and sequence number (R99). -/
def Press.name (r : PressNo) (p : Press) : PressName := ⟨r, p.sequence⟩

/-- The record that is HELD for an input and a group (R101). -/
def Tracker.findHeld (t : Tracker) (i : InputId) (g : GroupNo) : Option (PressNo × Press) :=
  (List.finRange 16).findSome? (fun r => match t.presses[r] with
    | some p => if p.isHeld && decide (p.input = i ∧ p.group = g) then some (r, p) else none
    | none => none)

/-- The lowest-numbered FREE record (R104). -/
def Tracker.lowestFree (t : Tracker) : Option PressNo :=
  (List.finRange 16).find? (fun r => t.presses[r].isNone)

/-- The record joins the tail of the report list, unless it is on it (R104, R110, R117). -/
def State.joinReports (s : State) (r : PressNo) : State :=
  if s.tracker.reportList.contains r then s
  else { s with tracker := { s.tracker with reportList := s.tracker.reportList ++ [r] } }

/-- A HELD record is credited from a result (R102, R106). -/
def Press.credit (p : Press) (endTime : Time) (releaseGap : Nat) : Press :=
  match p.life with
  | .held _ limit links =>
    { p with
      frames := min (p.frames + 1) Config.counterLimit
      lastCredit := endTime
      releaseGap := releaseGap
      life := .held (endTime + releaseGap * Config.ms) limit links }
  | .ended .. => p

/-- The follow links present are told that the press has ended, TX0 first (R110). -/
def State.sendHoldEndeds (s : State) (links : OutputMask) (press : PressName) : State :=
  let s := if OutputMask.has links 0 then s.sendHoldEnded 0 press else s
  if OutputMask.has links 1 then s.sendHoldEnded 1 press else s

/-- A HELD record is ended with a cause, by the steps of R110; any other record is left as it is. -/
def State.endPress (s : State) (r : PressNo) (cause : EndCause) : State :=
  match s.tracker.presses[r] with
  | none => s
  | some p =>
    match p.life with
    | .ended .. => s
    | .held _ _ links =>
      let ended := { p with
        life := .ended cause (pressDuration p.startTime p.lastCredit)
        endPending := true }
      ((s.setPress r (some ended)).joinReports r).sendHoldEndeds links (p.name r)

/-- The press a FRAME or ALT result creates, with its sequence number (R104). -/
def newPress (sequence : BitVec 8) (m : MatchResult) (e : EntryMatch) : Press where
  sequence := sequence
  input := m.input
  group := e.group
  handle := e.handle
  key := e.key
  variant := e.variant
  frames := 1
  startTime := m.startTime
  lastCredit := m.endTime
  releaseGap := e.releaseGap
  startPending := true
  endPending := false
  life := .held (m.endTime + e.releaseGap * Config.ms)
    (if e.pressLimit = 0 then none else some (m.startTime + e.pressLimit * Config.second)) 0

/-- A press is created in the lowest FREE record (R104), or refused when there is none (R105). -/
def State.createPress (s : State) (m : MatchResult) (e : EntryMatch) : State :=
  match s.tracker.lowestFree with
  | none => s.requestSticky m.input .pressRefused
  | some r =>
    let sequence := s.tracker.sequence + 1
    let s : State := { s with tracker := { s.tracker with sequence := sequence } }
    ((s.setPress r (some (newPress sequence m e))).joinReports r).sendPressStart
      { press := ⟨r, sequence⟩, handle := e.handle, input := m.input }

/-- The press tracker takes a match result (R93, R101 to R106). -/
def State.takeMatch (s : State) (m : MatchResult) : State :=
  match m.found with
  | .none => s
  | .ofGroup g =>
    match s.tracker.findHeld m.input g.group with
    | some (r, p) => s.setPress r (some (p.credit m.endTime g.releaseGap))
    | none => s.requestSticky m.input .orphanRepeat
  | .entry e =>
    match s.tracker.findHeld m.input e.group with
    | none => s.createPress m e
    | some (r, p) =>
      if p.handle = e.handle then
        if p.variant = e.variant then s.setPress r (some (p.credit m.endTime e.releaseGap))
        else (s.endPress r .newPress).createPress m e
      else (s.endPress r .otherKey).createPress m e

/-- End the record if it is HELD and `reaches` it. -/
def State.endPressIf (s : State) (reaches : Press → Bool) (cause : EndCause) (r : PressNo) : State :=
  match s.tracker.presses[r] with
  | some p => if reaches p then s.endPress r cause else s
  | none => s

/-- A notice ends every HELD record it reaches, one by one in ascending record number (R111, R112). -/
def State.endPresses (s : State) (reaches : Press → Bool) (cause : EndCause) : State :=
  (List.finRange 16).foldl (fun s r => s.endPressIf reaches cause r) s

/-- The release deadline of a HELD record has been reached (R107). -/
def State.releaseDue (s : State) (r : PressNo) : Bool :=
  match s.tracker.presses[r] with
  | none => false
  | some p => match p.life with
    | .held deadline _ _ => decide (deadline ≤ s.timebase)
    | .ended .. => false

/-- The press-limit deadline of a HELD record is present and has been reached (R108). -/
def State.limitDue (s : State) (r : PressNo) : Bool :=
  match s.tracker.presses[r] with
  | none => false
  | some p => match p.life with
    | .held _ (some limit) _ => decide (limit ≤ s.timebase)
    | .held _ none _ => false
    | .ended .. => false

/-- The record is HELD with this sequence number (R113, R115, R116). -/
def State.heldNamed (s : State) (press : PressName) : Option Press :=
  match s.tracker.presses[press.record] with
  | some p => if p.isHeld && decide (p.sequence = press.sequence) then some p else none
  | none => none

/-- Change the follow links of a HELD press. -/
def Press.withLinks (p : Press) (f : OutputMask → OutputMask) : Press :=
  match p.life with
  | .held deadline limit links => { p with life := .held deadline limit (f links) }
  | .ended .. => p

/-- The press tracker takes a link request (R115). -/
def State.takeLinkRequest (s : State) (q : LinkRequest) : State :=
  match s.heldNamed q.press with
  | some p => s.setPress q.press.record (some (p.withLinks (OutputMask.insert · q.output)))
  | none => s.sendHoldEnded q.output q.press

/-- The press tracker takes a link-clear notice of an output (R116). -/
def State.takeLinkClear (s : State) (o : OutputId) (press : PressName) : State :=
  match s.heldNamed press with
  | some p => s.setPress press.record (some (p.withLinks (OutputMask.remove · o)))
  | none => s

/-- REPORT collects the head of the report list (R118); the answer is its result words (R193). -/
def State.collectReport (s : State) : State × List Word :=
  match s.tracker.reportList with
  | [] => (s, [0xFFFF])
  | r :: rest =>
    let s' : State := { s with tracker := { s.tracker with reportList := rest } }
    match s.tracker.presses[r] with
    | none => (s', [0xFFFF])
    | some p =>
      let after := if p.isEnded then none else some { p with startPending := false, endPending := false }
      (s'.setPress r after, reportWords r p)

end Sys2Proof.Machine
end

