-- ==== Sys2Proof/Machine/Table.lean ====
section
/-! DEFINITION. Shared operations over the code table (chapter 2): currency of handles, length bins, patterns and
their settings, damage marking, and the conflict check. -/

namespace Sys2Proof.Machine

/-! ## Entries -/

/-- The handle of the present occupant of a slot (R17). -/
def State.handleOf (s : State) (slot : SlotNo) : Handle := ⟨slot, s.entries[slot].generation⟩

/-- The installed entry of a slot, if it is ACTIVE, SUSPENDED or DAMAGED. -/
def State.installedAt (s : State) (slot : SlotNo) : Option Installed :=
  match s.entries[slot].occupant with
  | .installed e => some e
  | .free | .loading _ => none

/-- The entry of a current handle; a handle with generation 0 is never current (R17). -/
def State.currentEntry (s : State) (h : Handle) : Option Installed :=
  if s.entries[h.slot].generation = h.gen ∧ h.gen ≠ 0 then s.installedAt h.slot else none

/-- The handle and entry a handle word names, when it is current (R17, R180). -/
def State.currentWord (s : State) (w : Word) : Option (Handle × Installed) :=
  match Handle.ofWord w with
  | none => none
  | some h => (s.currentEntry h).map (fun e => (h, e))

/-- Replace the installed entry of a slot, keeping its generation. -/
def State.setInstalled (s : State) (slot : SlotNo) (e : Installed) : State :=
  s.setEntry slot { s.entries[slot] with occupant := .installed e }

/-- The slot becomes FREE with its generation unchanged (R17). -/
def State.freeSlot (s : State) (slot : SlotNo) : State :=
  s.setEntry slot { s.entries[slot] with occupant := .free }

/-- The lowest-numbered FREE slot (R28). -/
def State.lowestFreeSlot (s : State) : Option SlotNo :=
  (List.finRange 128).find? (fun slot => decide (s.entries[slot].occupant = .free))

/-- The slot that is LOADING, for the one install in progress (R18). -/
def State.loadingSlot (s : State) : Option SlotNo :=
  (List.finRange 128).find? (fun slot => match s.entries[slot].occupant with
    | .loading _ => true
    | .free | .installed _ => false)

/-- The group and key value a slot holds against others: LOADING, ACTIVE, SUSPENDED or DAMAGED (R26). -/
def Occupant.holdsKey (g : GroupNo) (key : Word) : Occupant → Bool
  | .free => false
  | .loading l => decide (l.group = g ∧ l.key = key)
  | .installed e => decide (e.group = g ∧ e.key = key)

/-- Some slot other than `except` holds the group and key value (R26, R28, R31). -/
def State.keyHeld (s : State) (g : GroupNo) (key : Word) (except : Option SlotNo) : Bool :=
  (List.finRange 128).any (fun slot => decide (some slot ≠ except) && s.entries[slot].occupant.holdsKey g key)

/-- The slots of the installed entries of a group, in slot order (R44). -/
def State.slotsOfGroup (s : State) (g : GroupNo) : List SlotNo :=
  (List.finRange 128).filter (fun slot => match s.installedAt slot with
    | some e => decide (e.group = g)
    | none => false)

/-! ## Length bins (R21) -/

/-- The bin of a run count, for the odd counts 3 to 127. -/
def binOf (n : Nat) : Option (Fin 63) :=
  if h : n % 2 = 1 ∧ 3 ≤ n ∧ n ≤ 127 then some ⟨(n - 3) / 2, by omega⟩ else none

/-- The patterns in the bin of a run count, head first. -/
def State.binList (s : State) (n : Nat) : List PatternRef :=
  match binOf n with
  | some b => s.bins[b]
  | none => []

/-- Replace the bin of a run count. -/
def State.setBin (s : State) (n : Nat) (l : List PatternRef) : State :=
  match binOf n with
  | some b => { s with bins := s.bins.set b l }
  | none => s

/-- A pattern joins its bin at the tail (R21). -/
def State.joinBin (s : State) (n : Nat) (r : PatternRef) : State := s.setBin n (s.binList n ++ [r])

/-- A pattern leaves its bin, if it is there; the others keep their order (R21). -/
def State.leaveBin (s : State) (n : Nat) (r : PatternRef) : State :=
  s.setBin n ((s.binList n).filter (fun x => decide (x ≠ r)))

/-- The frame patterns of an entry join their bin: main, then alternate if present (R21). -/
def State.joinFrames (s : State) (slot : SlotNo) (e : Installed) : State :=
  let s := s.joinBin e.runCount (.frame slot .main)
  if e.alternate.isSome then s.joinBin e.runCount (.frame slot .alternate) else s

/-- Both frame patterns of an entry leave their bin (R21). -/
def State.leaveFrames (s : State) (slot : SlotNo) (e : Installed) : State :=
  (s.leaveBin e.runCount (.frame slot .main)).leaveBin e.runCount (.frame slot .alternate)

/-! ## Patterns -/

/-- The chain of a frame pattern of an entry. -/
def Installed.chainOf (e : Installed) : Variant → Option (List CellNo)
  | .main => some e.main
  | .alternate => e.alternate

/-- A stored pattern with its owner's settings as they stand (R5, R9, R13). -/
def State.contenderOf (s : State) (ref : PatternRef) : Option Contender :=
  match ref with
  | .frame slot v =>
    match s.installedAt slot with
    | none => none
    | some e =>
      match e.chainOf v, s.groups[e.group] with
      | some chain, some g =>
        some { owner := .stored ref, runCount := e.runCount, chain := chain, tolerance := e.tolerance
               inputMask := g.settings.inputMask }
      | _, _ => none
  | .ofGroup g =>
    match s.groups[g] with
    | none => none
    | some group => group.repeatPattern.map (fun p =>
        { owner := .stored ref, runCount := p.runCount, chain := p.chain
          tolerance := group.settings.repeatTolerance, inputMask := group.settings.inputMask })

/-! ## Damage (R39, R40) -/

/-- R39: a fault found in a frame pattern makes an ACTIVE or SUSPENDED entry DAMAGED, sets the pattern's mark, takes
its patterns out of their bin, sends an entry-damaged notice and raises TABLE attention; a DAMAGED entry is left
unchanged. -/
def State.damageEntry (s : State) (slot : SlotNo) (v : Variant) : State :=
  match s.installedAt slot with
  | none => s
  | some e =>
    match e.status with
    | .damaged => s
    | .active | .suspended =>
      let marked := match v with
        | .main => { e with status := .damaged, mainDamaged := true }
        | .alternate => { e with status := .damaged, alternateDamaged := true }
      (((s.leaveFrames slot e).setInstalled slot marked).sendNotice (.entryDamaged (s.handleOf slot))).setTableAttention
        true

/-- R40: a fault found in a repeat pattern sets REPEAT_DAMAGED, takes the pattern out of its bin and raises TABLE
attention; a mark already set changes nothing. -/
def State.damageRepeat (s : State) (g : GroupNo) : State :=
  match s.groups[g] with
  | none => s
  | some group =>
    match group.repeatPattern, group.repeatDamaged with
    | some p, false =>
      ((s.leaveBin p.runCount (.ofGroup g)).setGroup g (some { group with repeatDamaged := true })).setTableAttention
        true
    | _, _ => s

/-- The owner of a stored pattern is marked damaged (R39, R40). -/
def State.damagePattern (s : State) : PatternRef → State
  | .frame slot v => s.damageEntry slot v
  | .ofGroup g => s.damageRepeat g

/-! ## The conflict check (R27) -/

/-- One read of a conflict check: the run, or none when it is unreadable; the fault is recorded and a stored
pattern is marked damaged in the same step. The third answer says that the run belonged to reserved cells, so that
the check stops. -/
def State.checkRead (s : State) (c : Contender) (k : Nat) : Option Nat × State × Bool :=
  match s.pool.readRun c.chain k with
  | .value d => (some d, s, false)
  | .absent => (none, s, false)
  | .unreadable cell =>
    let s := s.recordFault cell
    match c.owner with
    | .stored ref => (none, s.damagePattern ref, false)
    | .reservedFrame _ | .reservedRepeat => (none, s, true)

/-- Run-by-run comparison of two patterns of equal run count and common scope: it ends at the first index whose
windows do not intersect; an unreadable run counts as intersecting (R13, R27; log entry 13). -/
def compareRuns (p q : Contender) : List Nat → State → State × CheckVerdict
  | [], s => (s, .conflict q.owner)
  | k :: ks, s =>
    match s.checkRead p k with
    | (_, s, true) => (s, .unreadable)
    | (dp, s, false) =>
      match s.checkRead q k with
      | (_, s, true) => (s, .unreadable)
      | (dq, s, false) =>
        match dp, dq with
        | some a, some b =>
          if windowsIntersect p.tolerance a q.tolerance b then compareRuns p q ks s else (s, .clear)
        | _, _ => compareRuns p q ks s

/-- The comparison of one pair (R13): conditions 1 and 2, then the windows. -/
def comparePair (p q : Contender) (s : State) : State × CheckVerdict :=
  if p.runCount = q.runCount ∧ p.inputMask &&& q.inputMask ≠ 0 then
    compareRuns p q ((List.range p.runCount).map (· + 1)) s
  else (s, .clear)

/-- A pattern against each of a list, stopping at the first conflict or unreadable reserved run. -/
def compareAgainst (p : Contender) : List Contender → State → State × CheckVerdict
  | [], s => (s, .clear)
  | q :: qs, s =>
    match comparePair p q s with
    | (s, .clear) => compareAgainst p qs s
    | r => r

/-- The patterns under test with one another, each pair once, in their order. -/
def compareWithin : List Contender → State → State × CheckVerdict
  | [], s => (s, .clear)
  | p :: ps, s =>
    match compareAgainst p ps s with
    | (s, .clear) => compareWithin ps s
    | r => r

/-- Each pattern under test against every pattern of the set. -/
def compareEach (set : List Contender) : List Contender → State → State × CheckVerdict
  | [], s => (s, .clear)
  | p :: ps, s =>
    match compareAgainst p set s with
    | (s, .clear) => compareEach set ps s
    | r => r

/-- The conflict check: the patterns under test with one another, then each against the set (R27, R30, R36; log
entry 13). -/
def conflictCheck (underTest set : List Contender) (s : State) : State × CheckVerdict :=
  match compareWithin underTest s with
  | (s, .clear) => compareEach set underTest s
  | r => r

/-- The stored frame patterns in slot order, main before alternate (R27). -/
def frameRefs : List PatternRef :=
  (List.finRange 128).flatMap (fun slot => [.frame slot .main, .frame slot .alternate])

/-- The stored repeat patterns in group order (R27). -/
def repeatRefs : List PatternRef := (List.finRange 16).map .ofGroup

/-- The set of R27 without the patterns that `excluded` names: the stored forms of the patterns under test, and a
repeat pattern that a group edit replaces or removes. -/
def State.conflictSet (s : State) (excluded : PatternRef → Bool) : List Contender :=
  ((frameRefs ++ repeatRefs).filter (fun r => !excluded r)).filterMap s.contenderOf

/-- The result words of a conflict, naming the other pattern (R181). -/
def State.conflictResult (s : State) (other : ContenderOwner) : List Word :=
  conflictWords (fun slot => (s.handleOf slot).toWord) other

/-- Count of the entries in a status (R44). -/
def State.countStatus (s : State) (st : EntryStatus) : Nat :=
  s.entries.toList.countP (fun e => match e.occupant with
    | .installed i => decide (i.status = st)
    | .free | .loading _ => false)

end Sys2Proof.Machine
end

