-- ==== Sys2Proof/Machine/Sending.lean ====
section
/-! DEFINITION. Shared operations of the transmit outputs (chapter 8): offers, the start and the end of items, the
ending causes of a HOLD, flush and configuration, and the level of the output line. -/

namespace Sys2Proof.Machine

/-- The output asserts its blanking signal: GRANT, FRAME, INTERVAL or SPACE (R76, R134). -/
def OutputState.blanking : OutputState → Bool
  | .off | .idle => false
  | .grant | .frame _ | .interval _ | .space _ => true

/-- The ACTIVE item at the head of the queue, and the items behind it (R138). -/
def Output.activeItem (x : Output) : Option (Item × ActiveItem × List Item) :=
  match x.queue with
  | [] => none
  | item :: rest => item.active.map (fun a => (item, a, rest))

/-- The variant of an item that starts on an output, and the output's toggle memory after it (R139, R140). -/
def State.itemVariant (s : State) (toggle : BitVec 16) (h : Handle) : Variant × BitVec 16 :=
  match s.currentEntry h with
  | none => (.main, toggle)
  | some e =>
    if e.status ≠ .damaged ∧ e.alternate.isSome then
      (if toggle.getLsbD e.group.val then .alternate else .main, toggle ^^^ BitVec.twoPow 16 e.group.val)
    else (.main, toggle)

/-- The head item starts, or the output enters IDLE when its queue is empty (R138, R139, R150). -/
def State.startHead (s : State) (o : OutputId) : State :=
  let x := s.outputs[o]
  match x.queue with
  | [] => s.setOutput o { x with state := .idle }
  | item :: rest =>
    let v := s.itemVariant x.toggle item.handle
    let item := { item with active := some { variant := v.1, startTime := s.timebase, framesSent := 0 } }
    (s.setOutput o { x with state := .grant, queue := item :: rest, toggle := v.2 }).raiseGrant o

/-- Steps 2 and 3 of the end of an item (R150): a HOST item writes the completion record and sets HOST_DONE; an item
with follow yes sends its link-clear unless it ended SENT (R149). -/
def State.reportItemEnd (s : State) (o : OutputId) (item : Item) (outcome : ItemOutcome) : State :=
  match item.origin with
  | .host tag =>
    (s.setOutput o { s.outputs[o] with
      completion := some { tag := tag, hold := item.form.isHold, outcome := outcome }
      hostDone := true }).setOutputAttention o true
  | .relay press => if item.follow && decide (outcome ≠ .sent) then s.sendLinkClear o press else s

/-- The frame in progress, if the output is in FRAME. -/
def OutputState.frame? : OutputState → Option Frame
  | .frame f => some f
  | .off | .idle | .grant | .interval _ | .space _ => none

/-- The references of the frame in progress are removed, if the output is in FRAME (R54, R150). -/
def State.dropFrame (s : State) (o : OutputId) : State :=
  match s.outputs[o].state.frame? with
  | some f => s.sendRemoval o f.chain
  | none => s

/-- The ACTIVE item of an output ends with an outcome at time `t`, by the steps of R150. -/
def State.endActive (s : State) (o : OutputId) (outcome : ItemOutcome) (t : Time) : State :=
  match s.outputs[o].activeItem with
  | none => s
  | some (item, a, rest) =>
    let reached := s.outputs[o].state.frame?.isSome || decide (0 < a.framesSent)
    let s := (s.dropFrame o).reportItemEnd o item outcome
    let x := s.outputs[o]
    if reached then
      s.setOutput o { x with queue := rest, state := .space (t + x.config.minItemSpace * Config.ms) }
    else (s.setOutput o { x with queue := rest }).startHead o

/-- Change the ACTIVE item at the head of an output's queue. -/
def State.setActive (s : State) (o : OutputId) (item : Item) (rest : List Item) : State :=
  s.setOutput o { s.outputs[o] with queue := item :: rest }

/-- An ending cause taken for the ACTIVE item of an output (R147): in FRAME and in GRANT it sets end pending, unless
one is pending already; in INTERVAL the item ends at once. -/
def State.endingCause (s : State) (o : OutputId) (outcome : ItemOutcome) : State :=
  match s.outputs[o].activeItem with
  | none => s
  | some (item, _, rest) =>
    match s.outputs[o].state with
    | .frame _ | .grant =>
      if item.endPending.isNone then s.setActive o { item with endPending := some outcome } rest else s
    | .interval _ => s.endActive o outcome s.timebase
    | .off | .idle | .space _ => s

/-- Set the hold-ended flag of the first item that `p` names. -/
def markHoldEnded (p : Item → Bool) : List Item → List Item
  | [] => []
  | item :: rest => if p item then { item with holdEnded := true } :: rest else item :: markHoldEnded p rest

/-- The item that `p` names, queued or active, has its hold-ended flag set, which acts as R147 gives; the answer says
whether there was one (R137, R148). A flag already set stays set and the answer is still yes, as R137 says; the table
of R201 says NO_SUCH_HOLD of every repeated HOLD END (log entry 33). -/
def State.setHoldEnded (s : State) (o : OutputId) (p : Item → Bool) : State × Bool :=
  let x := s.outputs[o]
  if x.queue.any p then
    let s := s.setOutput o { x with queue := markHoldEnded p x.queue }
    match x.activeItem with
    | some (item, _, _) => if p item then (s.endingCause o .sent, true) else (s, true)
    | none => (s, true)
  else (s, false)

/-- The HOST HOLD item of a tag (R136, R137). -/
def isHostHold (tag : BitVec 8) (item : Item) : Bool :=
  decide (item.origin = .host tag) && item.form.isHold

/-- The item with follow yes of a press (R148). -/
def followsPress (press : PressName) (item : Item) : Bool :=
  item.follow && decide (item.origin = .relay press)

/-- The hold limit of an output's ACTIVE item is reached: it is a HOLD, its flag is clear, and the timebase has
reached its start time plus the hold limit (R147). -/
def State.holdLimitDue (s : State) (o : OutputId) : Bool :=
  match s.outputs[o].activeItem with
  | none => false
  | some (item, a, _) =>
    item.form.isHold && !item.holdEnded
      && decide (a.startTime + s.outputs[o].config.holdLimit * Config.second ≤ s.timebase)

/-- The checks of an offer in their order (R136). -/
def Output.answer (x : Output) (item : Item) : OfferAnswer :=
  if x.config.kind = .off then .outputOff
  else if Config.queueDepth ≤ x.queue.length then .queueFull
  else match item.origin with
    | .host tag => if item.form.isHold && x.queue.any (isHostHold tag) then .duplicateTag else .accepted
    | .relay _ => .accepted

/-- An output takes an offer and answers at once (R136): an accepted item joins the tail and starts if the output is
IDLE (R138); a relay offer refused QUEUE_FULL sets RELAY_REFUSED (R156). -/
def State.offer (s : State) (o : OutputId) (item : Item) : State × OfferAnswer :=
  let x := s.outputs[o]
  match x.answer item with
  | .accepted =>
    let s := s.setOutput o { x with queue := x.queue ++ [item] }
    (if x.state = .idle then s.startHead o else s, .accepted)
  | .queueFull =>
    match item.origin with
    | .relay _ => ((s.setOutput o { x with relayRefused := true }).setOutputAttention o true, .queueFull)
    | .host _ => (s, .queueFull)
  | .outputOff => (s, .outputOff)
  | .duplicateTag => (s, .duplicateTag)

/-- A new item (R135): flag clear, no end pending, QUEUED. -/
def newItem (origin : ItemOrigin) (form : ItemForm) (h : Handle) (follow : Bool) : Item where
  origin := origin
  form := form
  handle := h
  follow := follow
  holdEnded := false
  endPending := none
  active := none

/-- Items end with an outcome by steps 2 and 3 of R150, in order. -/
def State.reportItemEnds (s : State) (o : OutputId) (outcome : ItemOutcome) (items : List Item) : State :=
  items.foldl (fun s item => s.reportItemEnd o item outcome) s

/-- OUTPUT FLUSH (R153): the queued items end FLUSHED, then the active item according to its state. -/
def State.flush (s : State) (o : OutputId) : State :=
  match s.outputs[o].activeItem with
  | none =>
    let s := s.reportItemEnds o .flushed s.outputs[o].queue
    s.setOutput o { s.outputs[o] with queue := [] }
  | some (item, _, rest) =>
    let s := s.reportItemEnds o .flushed rest
    let s := s.setOutput o { s.outputs[o] with queue := [item] }
    match s.outputs[o].state with
    | .grant => (s.withdrawGrant o).endActive o (item.endPending.getD .flushed) s.timebase
    | .frame _ | .interval _ | .off | .idle | .space _ => s.endingCause o .flushed

/-- OUTPUT CONFIGURE (R154): what OFF does, then the new record. -/
def State.configureOutput (s : State) (o : OutputId) (c : OutputConfig) : State :=
  let s := (s.dropFrame o).withdrawGrant o
  let s := s.reportItemEnds o .outputOff s.outputs[o].queue
  s.setOutput o { s.outputs[o] with
    config := c
    state := if c.kind = .off then .off else .idle
    queue := []
    toggle := 0 }

/-- The toggle bit of a group is cleared in both outputs (R35, R38, R140). -/
def State.clearToggle (s : State) (g : GroupNo) : State :=
  { s with outputs := s.outputs.map (fun x =>
      { x with toggle := x.toggle &&& ~~~(BitVec.twoPow 16 g.val) }) }

/-! ## The output line (R133, R143, R144) -/

/-- The output drives its line to the active level in clock cycle `sub` (0 to 15) of the present microsecond: within
a mark, throughout for ENVELOPE, and in the on-phases of the carrier for MODULATED. -/
def State.txActive (s : State) (o : OutputId) (sub : Fin 16) : Bool :=
  match s.outputs[o].state with
  | .frame f =>
    if f.run % 2 = 1 ∧ f.runStart ≤ s.timebase ∧ s.timebase < f.runEnd then
      match s.outputs[o].config.kind with
      | .envelope => true
      | .modulated =>
        decide ((16 * (s.timebase - f.runStart) + sub.val) % carrierPeriod f.carrier < onPhase f.carrier f.duty)
      | .off => false
    else false
  | .off | .idle | .grant | .interval _ | .space _ => false

/-- The level of the output line: high for active with active-high polarity, low for active with active-low (R133). -/
def State.txLevel (s : State) (o : OutputId) (sub : Fin 16) : Bool :=
  match s.outputs[o].config.polarity with
  | .activeHigh => s.txActive o sub
  | .activeLow => !s.txActive o sub

end Sys2Proof.Machine
end

