-- ==== Sys2Proof/Machine/Receiving.lean ====
section
/-! DEFINITION. Shared operations of the receive inputs (chapter 4): raw marks and spaces, burst assembly, the held
slot, blanking and configuration. -/

namespace Sys2Proof.Machine

/-! ## The line (R65, R66, R77) -/

/-- The line stands at its active level (R65). -/
def lineActive (c : InputConfig) (l : Line) : Bool :=
  match c.polarity with
  | .activeHigh => l.high
  | .activeLow => !l.high

/-- The latest transition into the active level: the latest active edge (R66). -/
def lastActiveEdge (c : InputConfig) (l : Line) : Option Time :=
  match c.polarity with
  | .activeHigh => l.lastRise
  | .activeLow => l.lastFall

/-- The latest transition to the inactive level. -/
def lastInactiveEdge (c : InputConfig) (l : Line) : Option Time :=
  match c.polarity with
  | .activeHigh => l.lastFall
  | .activeLow => l.lastRise

/-- The line goes to its other level at `t`. -/
def Line.toggled (l : Line) (t : Time) : Line :=
  if l.high then { l with high := false, lastFall := some t } else { l with high := true, lastRise := some t }

/-- 70 us have passed since the latest active edge (R66; log entry 17). -/
def gapPassed (c : InputConfig) (l : Line) (now : Time) : Bool :=
  match lastActiveEdge c l with
  | none => true
  | some e => decide (e + Config.carrierGap ≤ now)

/-- The line is quiet: at its inactive level and, on a CARRIER input, no active edge within the last 70 us (R77; log
entry 17). -/
def lineQuiet (c : InputConfig) (l : Line) (now : Time) : Bool :=
  !lineActive c l &&
    match c.kind with
    | .carrier => match lastActiveEdge c l with
      | none => true
      | some e => decide (e + Config.carrierGap < now)
    | .envelope | .off => true

/-- The first microsecond from which a line that has gone inactive is quiet (R77; log entry 18). -/
def quietFrom (c : InputConfig) (l : Line) (inactiveAt : Time) : Time :=
  match c.kind with
  | .carrier => match lastActiveEdge c l with
    | none => inactiveAt
    | some e => max inactiveAt (e + Config.carrierGap + 1)
  | .envelope | .off => inactiveAt

/-- How far a raw mark in progress is known to have lasted at `now`: to `now` while the line is active, and on a
CARRIER input between two pulses to the latest transition to inactive, where the mark ends if no further edge comes
(R66; log entry 15). -/
def Input.markExtent (x : Input) (now : Time) : Time :=
  match x.config.kind with
  | .carrier => if lineActive x.config x.line then now else (lastInactiveEdge x.config x.line).getD now
  | .envelope | .off => now

/-! ## Assembly (R67 to R73) -/

/-- DISCARDING with no measure running. -/
def Discard.start : Discard := { spaceSince := none, tentative := none, untilQuiet := false }

/-- A raw mark begins at `t` (R68 to R70, R73). -/
def Assembler.markBegins (t : Time) : Assembler → Assembler
  | .off => .off
  | .blanked => .blanked
  | .waiting _ => .waiting (some t)
  | .assembling a =>
    match a.openRun with
    | .mark _ => .assembling { a with tentative := none }
    | .space _ => .assembling { a with tentative := some t }
  | .discarding d => .discarding { d with tentative := some t }

/-- The estimate of a burst, once its first raw mark has ended (R67). -/
def Assembly.withEstimate (x : Input) (a : Assembly) : Assembly :=
  if a.estimated then a
  else
    let last := (lastActiveEdge x.config x.line).getD x.raw.firstEdge
    { a with estimate := carrierEstimate x.raw.edges (last - x.raw.firstEdge), estimated := true }

/-- The raw mark in progress ends, its end being `e` (R68 to R70, R73, R77). -/
def Input.markEnds (x : Input) (e : Time) : Assembler :=
  match x.assembler with
  | .off => .off
  | .blanked => .blanked
  | .waiting _ => .waiting none
  | .assembling a =>
    let a := a.withEstimate x
    match a.openRun with
    | .mark _ => .assembling { a with tentative := some e }
    | .space _ => .assembling { a with tentative := none }
  | .discarding d =>
    match d.spaceSince, d.tentative with
    | none, none =>
      .discarding
        { spaceSince := some (if d.untilQuiet then quietFrom x.config x.line e else e), tentative := none
          untilQuiet := false }
    | _, _ => .discarding { d with tentative := none }

/-- The raw mark in progress ends and a raw space begins, both timed from `e` (R65, R66). -/
def Input.endMark (x : Input) (e : Time) : Input :=
  { x with assembler := x.markEnds e, raw := { mark := false, since := e, edges := 0, firstEdge := 0 } }

/-- What GLITCH_FLOOR_REACHED does to the assembler, when its time has come at `now`: a burst starts (R68), an open
mark is closed (R69), an open space is closed (R70), the 128th run abandons the burst (R71, answered with true), or
a mark breaks the measure of DISCARDING (R73). None when no tentative run has lasted the floor. -/
def Input.floorReached (x : Input) (now : Time) : Option (Assembler × Bool) :=
  let floor := x.config.glitchFloor
  let markLasted := fun (t : Time) => x.raw.mark && decide (t + floor ≤ x.markExtent now)
  match x.assembler with
  | .off | .blanked => none
  | .waiting none => none
  | .waiting (some t) =>
    if markLasted t then
      some (.assembling
        { start := t, runs := [], openRun := .mark t, tentative := none, estimate := none
          estimated := decide (x.config.kind ≠ .carrier) }, false)
    else none
  | .assembling a =>
    match a.openRun, a.tentative with
    | _, none => none
    | .mark start, some t =>
      if !x.raw.mark && decide (t + floor ≤ now) then
        some (.assembling { a with runs := a.runs ++ [t - start], openRun := .space t, tentative := none }, false)
      else none
    | .space start, some t =>
      if markLasted t then
        if a.runs.length < Config.maxRuns then
          some (.assembling { a with runs := a.runs ++ [t - start], openRun := .mark t, tentative := none }, false)
        else some (.discarding Discard.start, true)
      else none
  | .discarding d =>
    match d.tentative with
    | none => none
    | some t => if markLasted t then some (.discarding Discard.start, false) else none

/-- The open mark has lasted more than 60,000 us, measured only while the line is at mark (R72; log entry 15). -/
def Input.stuckDue (x : Input) (now : Time) : Bool :=
  match x.assembler with
  | .assembling a =>
    match a.openRun with
    | .mark start => x.raw.mark && decide (start + Config.markLimit < x.markExtent now)
    | .space _ => false
  | .off | .waiting _ | .discarding _ | .blanked => false

/-- The raw mark of a CARRIER input ends: the line is inactive and 70 us have passed since the latest active edge
(R66). -/
def Input.gapDue (x : Input) (now : Time) : Bool :=
  decide (x.config.kind = .carrier) && x.raw.mark && !lineActive x.config x.line && gapPassed x.config x.line now

/-- The raw mark of a CARRIER input has ended before an edge that comes now: an edge no more than 70 us after the one
before it continues the mark (R66; log entry 17). -/
def Input.gapOverdue (x : Input) (now : Time) : Bool :=
  decide (x.config.kind = .carrier) && x.raw.mark && lineQuiet x.config x.line now

/-- The burst under assembly and the start of its open space, when that space, with no tentative mark running, has
lasted the end gap (R70; log entry 16). -/
def Input.endGapDue (x : Input) (now : Time) : Option (Assembly × Time) :=
  match x.assembler with
  | .assembling a =>
    match a.openRun, a.tentative with
    | .space start, none =>
      if start + x.config.endGap * Config.ms ≤ now then some (a, start) else none
    | _, _ => none
  | .off | .waiting _ | .discarding _ | .blanked => none

/-- The line of a DISCARDING input has been at space for the end gap (R73). -/
def Input.discardGapDue (x : Input) (now : Time) : Bool :=
  match x.assembler with
  | .discarding d =>
    match d.spaceSince, d.tentative with
    | some start, none => decide (start + x.config.endGap * Config.ms ≤ now)
    | _, _ => false
  | .off | .waiting _ | .assembling _ | .blanked => false

/-- The kind recorded in a burst (R74). -/
def InputKind.burstKind : InputKind → BurstKind
  | .carrier => .carrier
  | .envelope | .off => .envelope

/-- The burst an assembly completes to (R70, R74); an ENVELOPE burst has no estimate. -/
def finishedBurst (i : InputId) (x : Input) (a : Assembly) (endTime : Time) : Burst where
  input := i
  kind := x.config.kind.burstKind
  runs := a.runs
  estimate := match x.config.kind with
    | .carrier => a.estimate
    | .envelope | .off => none
  startTime := a.start
  endTime := endTime

/-- A completed burst enters the empty held slot and raises its lookup claim, or is dropped with OVERRUN (R75). -/
def State.offerBurst (s : State) (i : InputId) (b : Burst) : State :=
  match s.inputs[i].held with
  | none => (s.setInput i { s.inputs[i] with held := some b }).raiseLookup i
  | some _ => s.setSticky i (fun y => { y with overrun := true })

/-! ## The input's own events, each taken only when its time has come -/

/-- The input watches its line: it is not OFF or BLANKED and no memory test runs (R64, R76, R81). -/
def State.watching (s : State) (i : InputId) : Bool :=
  s.memoryTest.isNone &&
    match s.inputs[i].assembler with
    | .off | .blanked => false
    | .waiting _ | .assembling _ | .discarding _ => true

/-- GLITCH_FLOOR_REACHED (R68 to R71, R73). -/
def State.inputFloor (s : State) (i : InputId) : State :=
  match s.inputs[i].floorReached s.timebase with
  | none => s
  | some (a, overlength) =>
    let s := s.setInput i { s.inputs[i] with assembler := a }
    if overlength then s.setSticky i (fun y => { y with overlength := true }) else s

/-- STUCK (R72). -/
def State.inputStuck (s : State) (i : InputId) : State :=
  if s.inputs[i].stuckDue s.timebase then
    (s.setInput i { s.inputs[i] with assembler := .discarding Discard.start }).setSticky i
      (fun y => { y with stuck := true })
  else s

/-- CARRIER_GAP (R66): the mark's end is the line's last transition to the inactive level. -/
def State.inputGap (s : State) (i : InputId) : State :=
  let x := s.inputs[i]
  if x.gapDue s.timebase then s.setInput i (x.endMark ((lastInactiveEdge x.config x.line).getD s.timebase)) else s

/-- A raw mark that ended before an edge that comes now has its end taken (R66; log entry 14). -/
def State.inputGapBefore (s : State) (i : InputId) : State :=
  let x := s.inputs[i]
  if x.gapOverdue s.timebase then s.setInput i (x.endMark ((lastInactiveEdge x.config x.line).getD s.timebase)) else s

/-- END_GAP (R70): the burst completes, or a runt is dropped; the input returns to WAITING. -/
def State.inputEndGap (s : State) (i : InputId) : State :=
  match s.inputs[i].endGapDue s.timebase with
  | none => s
  | some (a, endTime) =>
    let b := finishedBurst i s.inputs[i] a endTime
    let s := s.setInput i { s.inputs[i] with assembler := .waiting none }
    if a.runs.length < 3 then s else s.offerBurst i b

/-- DISCARDING_END_GAP (R73). -/
def State.inputDiscardGap (s : State) (i : InputId) : State :=
  if s.inputs[i].discardGapDue s.timebase then s.setInput i { s.inputs[i] with assembler := .waiting none } else s

/-- Every event of the input whose time has come is taken, in the order in which they fall due between two
transitions of the line (log entry 14). -/
def State.settleInput (s : State) (i : InputId) : State :=
  (((((s.inputFloor i).inputStuck i).inputGapBefore i).inputFloor i).inputEndGap i).inputDiscardGap i

/-- The line's transition at the present count, read by an input that watches it (R65, R66). -/
def Input.takeTransition (x : Input) (now : Time) : Input :=
  let x := { x with line := x.line.toggled now }
  if lineActive x.config x.line then
    if x.raw.mark then { x with raw := { x.raw with edges := x.raw.edges + 1 } }
    else
      { x with
        raw := { mark := true, since := now, edges := 1, firstEdge := now }
        assembler := x.assembler.markBegins now }
  else
    match x.config.kind with
    | .carrier => if x.raw.mark && gapPassed x.config x.line now then x.endMark now else x
    | .envelope | .off => x.endMark now

/-- LINE_TRANSITION (R65, R66, R76). An input that does not watch its line still notes the edge, in every state and
kind and during a memory test, and the quiet test of R77 counts it (log entry 32). -/
def State.inputTransition (s : State) (i : InputId) : State :=
  if s.watching i then
    let s := s.settleInput i
    s.setInput i (s.inputs[i].takeTransition s.timebase)
  else s.setInput i { s.inputs[i] with line := s.inputs[i].line.toggled s.timebase }

/-! ## Blanking and configuration (R76, R77, R80, R81) -/

/-- Some output of the mask asserts its blanking signal (R76). -/
def State.blankedBy (s : State) (m : OutputMask) : Bool :=
  (List.finRange 2).any (fun o => OutputMask.has m o && s.outputs[o].state.blanking)

/-- The input looks at its line: WAITING when it is quiet, DISCARDING otherwise, the end-gap measure to start when
the line next becomes quiet (R77). -/
def Input.resume (x : Input) (now : Time) : Input :=
  if lineQuiet x.config x.line now then
    { x with assembler := .waiting none, raw := { mark := false, since := now, edges := 0, firstEdge := 0 } }
  else
    { x with
      assembler := .discarding { spaceSince := none, tentative := none, untilQuiet := true }
      raw := { mark := true, since := now, edges := 0, firstEdge := now } }

/-- The state an input takes: OFF for kind OFF, BLANKED while a mask output asserts, else as its line stands (R77,
R80, R81). -/
def State.placeInput (s : State) (i : InputId) : State :=
  let x := s.inputs[i]
  if x.config.kind = .off then s.setInput i { x with assembler := .off }
  else if s.blankedBy x.config.blankMask then s.setInput i { x with assembler := .blanked }
  else s.setInput i (x.resume s.timebase)

/-- The input enters BLANKED; a burst under assembly is discarded with BLANKED_DROP (R76). -/
def State.enterBlanked (s : State) (i : InputId) : State :=
  let x := s.inputs[i]
  let s' := s.setInput i { x with assembler := .blanked }
  match x.assembler with
  | .assembling _ => s'.setSticky i (fun y => { y with blankedDrop := true })
  | .waiting _ | .discarding _ => s'
  | .off | .blanked => s

/-- INPUT CONFIGURE, in the order of R80. -/
def State.configureInput (s : State) (i : InputId) (c : InputConfig) : State :=
  let s := (s.setInput i { s.inputs[i] with held := none }).withdrawLookup i
  let s := (s.sendInputChange i).clearSticky i
  let s := s.setInput i { s.inputs[i] with config := c }
  s.placeInput i

/-- An input at the INITIALIZE table step (R81): bursts and sticky bits go, the configuration stays, and the state is
DISCARDING, or OFF for kind OFF. -/
def Input.cleared (x : Input) : Input :=
  { x with
    held := none
    sticky := InputSticky.clear
    assembler := if x.config.kind = .off then .off else .discarding Discard.start }

end Sys2Proof.Machine
end

