-- ==== Sys2Proof/Machine/Relaying.lean ====
section
/-! DEFINITION. Shared operations of the relay unit (chapter 7). -/

namespace Sys2Proof.Machine

/-- The record that is not EMPTY and names this source handle (R124, R128). -/
def State.relayOfSource (s : State) (h : Handle) : Option (RelayNo × RelayRecord) :=
  (List.finRange 64).findSome? (fun n => match s.relays[n] with
    | some r => if r.source = h then some (n, r) else none
    | none => none)

/-- The lowest-numbered EMPTY record (R125). -/
def State.lowestEmptyRelay (s : State) : Option RelayNo :=
  (List.finRange 64).find? (fun n => s.relays[n].isNone)

/-- The record a RELAY SET writes, by its words (R125, R195). -/
def relayRecordOf (source target : Handle) (w3 : Word) : RelayRecord where
  stale := false
  source := source
  inputMask := relayInputMask w3
  outputMask := relayOutputMask w3
  target := target
  mode := relayMode w3
  lastOutcome := .none

/-- The relay unit takes a SET (R125): the record naming the source, else the lowest EMPTY one, else RELAY_FULL. -/
def State.relayWrite (s : State) (r : RelayRecord) : State × Option RelayNo :=
  match s.relayOfSource r.source with
  | some (n, _) => (s.setRelay n (some r), some n)
  | none => match s.lowestEmptyRelay with
    | some n => (s.setRelay n (some r), some n)
    | none => (s, none)

/-- The item a relay record offers for a press (R129). -/
def RelayRecord.item (r : RelayRecord) (press : PressName) : Item :=
  match r.mode with
  | .once count => newItem (.relay press) (.send count) r.target false
  | .follow => newItem (.relay press) .hold r.target true

/-- The last outcome after one more answer: the last refusal decides (R130). -/
def RelayOutcome.after (old : RelayOutcome) : OfferAnswer → RelayOutcome
  | .accepted => old
  | .outputOff => .outputOff
  | .queueFull | .duplicateTag => .queueFull

/-- Offer an item to one output of the mask; the answers so far are folded into an outcome, and the outputs that
accepted a FOLLOW item are kept for their link requests (R129, R130). -/
def State.relayOffer (r : RelayRecord) (press : PressName) (acc : State × RelayOutcome × List OutputId)
    (o : OutputId) : State × RelayOutcome × List OutputId :=
  if OutputMask.has r.outputMask o then
    match acc.1.offer o (r.item press) with
    | (s, answer) =>
      (s, acc.2.1.after answer,
        if answer = .accepted ∧ r.mode = .follow then acc.2.2 ++ [o] else acc.2.2)
  else acc

/-- The relay unit acts on the record of a press start, in the order of R128. -/
def State.relayPress (s : State) (n : RelayNo) (r : RelayRecord) (p : PressStart) : State :=
  if !InputMask.has r.inputMask p.input then s
  else if r.stale then s.setRelay n (some { r with lastOutcome := .targetStale })
  else match s.currentEntry r.target with
    | none => s.setRelay n (some { r with stale := true, lastOutcome := .targetStale })
    | some e =>
      if e.status = .damaged then s.setRelay n (some { r with lastOutcome := .targetDamaged })
      else
        let offered := [0, 1].foldl (State.relayOffer r p.press) (s, .queued, [])
        let s := offered.1.setRelay n (some { r with lastOutcome := offered.2.1 })
        offered.2.2.foldl (fun s o => s.sendLinkRequest o p.press) s

/-- The relay unit takes a press start (R128). -/
def State.takePressStart (s : State) (p : PressStart) : State :=
  match s.relayOfSource p.handle with
  | none => s
  | some (n, r) => s.relayPress n r p

/-- A relay record after an entry-retired notice for a handle (R131). -/
def RelayRecord.afterRetire (h : Handle) (r : RelayRecord) : Option RelayRecord :=
  if r.source = h then none
  else if r.target = h then some { r with stale := true }
  else some r

/-- The relay unit takes an entry-retired notice (R131). -/
def State.takeRetire (s : State) (h : Handle) : State :=
  { s with relays := s.relays.map (fun x => x.bind (RelayRecord.afterRetire h)) }

end Sys2Proof.Machine
end

