-- ==== Sys2Proof/Machine/HostCommands.lean ====
section
/-! DEFINITION. The 28 command rows (chapter 10): the COMMAND write of each, and for the commands whose work is a
request to a block, what the block does when it takes the request. -/

namespace Sys2Proof.Machine

/-! ## Commands whose steps are table steps -/

/-- INITIALIZE (R169, R182). -/
def execInitializeCommand (arg : BitVec 8) (s : State) : Host.Outcome State Fault Refusal :=
  .next (s.commandWrite HostCommand.initializePart.code arg)

/-- TABLE STATUS (R169, R182). -/
def execTableStatus (arg : BitVec 8) (s : State) : Host.Outcome State Fault Refusal :=
  .next (s.commandWrite HostCommand.tableStatus.code arg)

/-- GROUP DEFINE (R169, R184). -/
def execGroupDefine (arg : BitVec 8) (s : State) : Host.Outcome State Fault Refusal :=
  .next (s.commandWrite HostCommand.groupDefine.code arg)

/-- GROUP EDIT (R169, R185). -/
def execGroupEdit (arg : BitVec 8) (s : State) : Host.Outcome State Fault Refusal :=
  .next (s.commandWrite HostCommand.groupEdit.code arg)

/-- GROUP REMOVE (R169, R186). -/
def execGroupRemove (arg : BitVec 8) (s : State) : Host.Outcome State Fault Refusal :=
  .next (s.commandWrite HostCommand.groupRemove.code arg)

/-- GROUP READ (R169, R186). -/
def execGroupRead (arg : BitVec 8) (s : State) : Host.Outcome State Fault Refusal :=
  .next (s.commandWrite HostCommand.groupRead.code arg)

/-- ENTRY INSTALL (R169, R187). -/
def execEntryInstall (arg : BitVec 8) (s : State) : Host.Outcome State Fault Refusal :=
  .next (s.commandWrite HostCommand.entryInstall.code arg)

/-- ENTRY EDIT (R169, R188). -/
def execEntryEdit (arg : BitVec 8) (s : State) : Host.Outcome State Fault Refusal :=
  .next (s.commandWrite HostCommand.entryEdit.code arg)

/-- ENTRY SUSPEND (R169, R189). -/
def execEntrySuspend (arg : BitVec 8) (s : State) : Host.Outcome State Fault Refusal :=
  .next (s.commandWrite HostCommand.entrySuspend.code arg)

/-- ENTRY RESUME (R169, R189). -/
def execEntryResume (arg : BitVec 8) (s : State) : Host.Outcome State Fault Refusal :=
  .next (s.commandWrite HostCommand.entryResume.code arg)

/-- ENTRY RETIRE (R169, R189). -/
def execEntryRetire (arg : BitVec 8) (s : State) : Host.Outcome State Fault Refusal :=
  .next (s.commandWrite HostCommand.entryRetire.code arg)

/-- ENTRY READ (R169, R190). -/
def execEntryRead (arg : BitVec 8) (s : State) : Host.Outcome State Fault Refusal :=
  .next (s.commandWrite HostCommand.entryRead.code arg)

/-- ENTRY FIND (R169, R191). -/
def execEntryFind (arg : BitVec 8) (s : State) : Host.Outcome State Fault Refusal :=
  .next (s.commandWrite HostCommand.entryFind.code arg)

/-- ENTRY LIST (R169, R191). -/
def execEntryList (arg : BitVec 8) (s : State) : Host.Outcome State Fault Refusal :=
  .next (s.commandWrite HostCommand.entryList.code arg)

/-! ## Commands whose work is a request to a block -/

/-- A command row with two parts: its COMMAND write, or the block taking its request. -/
def State.hostCommand (s : State) (c : HostCommand) (part : HostPart) (work : Task → Bool → State → State) : State :=
  match part with
  | .commandWrite arg => s.commandWrite c.code arg
  | .request => s.blockRequest c work

/-- The input takes INPUT CONFIGURE (R80, R192). -/
def inputConfigureWork (task : Task) (held : Bool) (s : State) : State :=
  (s.configureInput (argInput task.arg) task.inputConfig).finish task held .ok []

/-- INPUT CONFIGURE (R80, R192). -/
def execInputConfigure (part : HostPart) (s : State) : Host.Outcome State Fault Refusal :=
  .next (s.hostCommand .inputConfigure part inputConfigureWork)

/-- The input status step (R79, R192). -/
def inputStatusWork (task : Task) (held : Bool) (s : State) : State :=
  let i := argInput task.arg
  (s.clearSticky i).finish task held .ok [inputStatusWord s.inputs[i]]

/-- INPUT STATUS (R79, R192). -/
def execInputStatus (part : HostPart) (s : State) : Host.Outcome State Fault Refusal :=
  .next (s.hostCommand .inputStatus part inputStatusWork)

/-- The press tracker takes REPORT (R118, R193). -/
def reportWork (task : Task) (held : Bool) (s : State) : State :=
  match s.collectReport with
  | (s, words) => s.finish task held .ok words

/-- REPORT (R118, R193). -/
def execReport (part : HostPart) (s : State) : Host.Outcome State Fault Refusal :=
  .next (s.hostCommand .report part reportWork)

/-- The press tracker takes PRESS READ (R119, R193). -/
def pressReadWork (task : Task) (held : Bool) (s : State) : State :=
  let r := argPress task.arg
  match s.tracker.presses[r] with
  | none => s.finish task held .noSuchPress []
  | some p => s.finish task held .ok (reportWords r p)

/-- PRESS READ (R119, R193). -/
def execPressRead (part : HostPart) (s : State) : Host.Outcome State Fault Refusal :=
  .next (s.hostCommand .pressRead part pressReadWork)

/-- The press tracker takes PRESS END (R113, R194). -/
def pressEndWork (task : Task) (held : Bool) (s : State) : State :=
  let press : PressName := ⟨argPress task.arg, lowByte (task.word 0)⟩
  match s.heldNamed press with
  | some _ => (s.endPress press.record .forced).finish task held .ok []
  | none => s.finish task held .noSuchPress []

/-- PRESS END (R113, R194). -/
def execPressEnd (part : HostPart) (s : State) : Host.Outcome State Fault Refusal :=
  .next (s.hostCommand .pressEnd part pressEndWork)

/-- A relay request of the host is taken after every retire notice of an earlier command (R127). -/
def afterRetires (work : Task → Bool → State → State) (task : Task) (held : Bool) (s : State) : State :=
  if s.mail.retires.isEmpty then work task held s else s

/-- The relay unit takes RELAY SET after its handle check (R125, R195). -/
def relaySetWork (task : Task) (held : Bool) (s : State) : State :=
  match Handle.ofWord (task.word 0), Handle.ofWord (task.word 1) with
  | some source, some target =>
    match s.relayWrite (relayRecordOf source target (task.word 2)) with
    | (s, some n) => s.finish task held .ok [wordOf n.val]
    | (s, none) => s.finish task held .relayFull []
  | _, _ => s.finish task held .noSuchEntry []

/-- RELAY SET (R125, R195). -/
def execRelaySet (part : HostPart) (s : State) : Host.Outcome State Fault Refusal :=
  .next (s.hostCommand .relaySet part (afterRetires relaySetWork))

/-- The relay unit takes RELAY CLEAR (R126, R196). -/
def relayClearWork (task : Task) (held : Bool) (s : State) : State :=
  match (Handle.ofWord (task.word 0)).bind s.relayOfSource with
  | some (n, _) => (s.setRelay n none).finish task held .ok []
  | none => s.finish task held .noSuchEntry []

/-- RELAY CLEAR (R126, R196). -/
def execRelayClear (part : HostPart) (s : State) : Host.Outcome State Fault Refusal :=
  .next (s.hostCommand .relayClear part (afterRetires relayClearWork))

/-- The relay unit takes RELAY READ (R126, R196). -/
def relayReadWork (task : Task) (held : Bool) (s : State) : State :=
  let n : RelayNo := Fin.ofNat 64 (task.word 0).toNat
  s.finish task held .ok (relayWords s.relays[n])

/-- RELAY READ (R126, R196). -/
def execRelayRead (part : HostPart) (s : State) : Host.Outcome State Fault Refusal :=
  .next (s.hostCommand .relayRead part (afterRetires relayReadWork))

/-- The output takes OUTPUT CONFIGURE (R154, R197). -/
def outputConfigureWork (task : Task) (held : Bool) (s : State) : State :=
  (s.configureOutput (argOutput task.arg) task.outputConfig).finish task held .ok []

/-- OUTPUT CONFIGURE (R154, R197). -/
def execOutputConfigure (part : HostPart) (s : State) : Host.Outcome State Fault Refusal :=
  .next (s.hostCommand .outputConfigure part outputConfigureWork)

/-- The three sticky bits of an output and ATTENTION TXn are cleared (R156). -/
def State.clearOutputSticky (s : State) (o : OutputId) : State :=
  (s.setOutput o { s.outputs[o] with hostDone := false, relayRefused := false, damageSeen := false }).setOutputAttention
    o false

/-- The output status step (R156, R197). -/
def outputStatusWork (task : Task) (held : Bool) (s : State) : State :=
  let o := argOutput task.arg
  (s.clearOutputSticky o).finish task held .ok (outputStatusWords s.outputs[o])

/-- OUTPUT STATUS (R156, R197). -/
def execOutputStatus (part : HostPart) (s : State) : Host.Outcome State Fault Refusal :=
  .next (s.hostCommand .outputStatus part outputStatusWork)

/-- The outcome of a host offer (R136, R198). -/
def OfferAnswer.outcome : OfferAnswer → HostOutcome
  | .accepted => .ok
  | .outputOff => .outputOff
  | .queueFull => .queueFull
  | .duplicateTag => .duplicateTag

/-- The output takes the host's offer of an item (R136, R198). -/
def hostOffer (form : ItemForm) (tag : BitVec 8) (task : Task) (held : Bool) (s : State) : State :=
  match Handle.ofWord (task.word 0) with
  | none => s.finish task held .noSuchEntry []
  | some h =>
    match s.offer (argOutput task.arg) (newItem (.host tag) form h false) with
    | (s, answer) => s.finish task held answer.outcome []

/-- The output takes the offer of SEND after its handle check (R136, R198). -/
def sendWork (task : Task) (held : Bool) (s : State) : State :=
  hostOffer (.send (sendCount (task.word 1))) (sendTag (task.word 1)) task held s

/-- SEND (R198). -/
def execSend (part : HostPart) (s : State) : Host.Outcome State Fault Refusal :=
  .next (s.hostCommand .send part sendWork)

/-- The output takes the offer of HOLD START after its handle check (R136, R198). -/
def holdStartWork (task : Task) (held : Bool) (s : State) : State :=
  hostOffer .hold (lowByte (task.word 1)) task held s

/-- HOLD START (R198). -/
def execHoldStart (part : HostPart) (s : State) : Host.Outcome State Fault Refusal :=
  .next (s.hostCommand .holdStart part holdStartWork)

/-- The output takes HOLD END (R137, R199; a repeat while the item stands is answered OK, log entry 33). -/
def holdEndWork (task : Task) (held : Bool) (s : State) : State :=
  match s.setHoldEnded (argOutput task.arg) (isHostHold (lowByte (task.word 0))) with
  | (s, true) => s.finish task held .ok []
  | (s, false) => s.finish task held .noSuchHold []

/-- HOLD END (R137, R199). -/
def execHoldEnd (part : HostPart) (s : State) : Host.Outcome State Fault Refusal :=
  .next (s.hostCommand .holdEnd part holdEndWork)

/-- The output takes OUTPUT FLUSH (R153, R199). -/
def outputFlushWork (task : Task) (held : Bool) (s : State) : State :=
  (s.flush (argOutput task.arg)).finish task held .ok []

/-- OUTPUT FLUSH (R153, R199). -/
def execOutputFlush (part : HostPart) (s : State) : Host.Outcome State Fault Refusal :=
  .next (s.hostCommand .outputFlush part outputFlushWork)

end Sys2Proof.Machine
end

