-- ==== Sys2Proof/Machine/HostFrames.lean ====
section
/-! DEFINITION. The frame ends of the host port that are not COMMAND writes of a known code, the capture of a frame,
and the transfer timer (R159 to R165, R169, R173 to R175). -/

namespace Sys2Proof.Machine

/-- DONE, FAULT and COLLIDE are cleared where the word returned them as 1 (R163). -/
def State.clearReturned (s : State) (w : Word) : State :=
  s.setPort { s.port with
    done := s.port.done && !w.getLsbD 11
    fault := s.port.fault && !w.getLsbD 10
    collide := s.port.collide && !w.getLsbD 9 }

/-- The frame end of a FLAGS read (R163). -/
def State.flagsRead (s : State) : State :=
  match s.frameEnd (addressByte true 0) 0 with
  | (some (w, _), s) => s.clearReturned w
  | (none, s) => s

/-- FLAGS_READ (R163). -/
def execFlagsRead (s : State) : Host.Outcome State Fault Refusal := .next s.flagsRead

/-- The frame end of a TRANSFER write (R170, R173): the awaited parameter word, or COLLIDE. -/
def State.transferWrite (s : State) (w : Word) : State :=
  s.writeFrame (addressByte false 1) w (fun s =>
    match s.port.engine with
    | .parameter task (.word _) => s.takeWord task w
    | .parameter _ (.step _) | .testing | .idle | .execute .. | .result .. | .cleanup .. => s.collide)

/-- TRANSFER_WRITE (R170, R173). -/
def execTransferWrite (w : Word) (s : State) : Host.Outcome State Fault Refusal := .next (s.transferWrite w)

/-- The frame end of a TRANSFER read (R172, R173): the captured word is taken if its offer still stands; COLLIDE when
none was captured. -/
def State.transferRead (s : State) : State :=
  match s.frameEnd (addressByte true 1) 0 with
  | (some (_, true), s) => s.takeResult
  | (some (_, false), s) => s.collide
  | (none, s) => s

/-- TRANSFER_READ (R172, R173). -/
def execTransferRead (s : State) : Host.Outcome State Fault Refusal := .next s.transferRead

/-- ABORT (R165, R175): a CONTROL write with bit 15 set. -/
def execAbort (w : Word) (s : State) : Host.Outcome State Fault Refusal := .next (s.controlWrite w)

/-- INTERRUPT_ENABLE_WRITE (R165): a CONTROL write. -/
def execInterruptEnableWrite (w : Word) (s : State) : Host.Outcome State Fault Refusal := .next (s.controlWrite w)

/-- The frame end of a write to one of the locations 3 to 7: it changes nothing and sets no flag; the frame is over
(R161). -/
def State.ignoredWrite (s : State) (location : Fin 8) (w : Word) : State :=
  s.writeFrame (addressByte false (BitVec.ofNat 3 location.val)) w id

/-- IGNORED_LOCATION_WRITE (R161). -/
def execIgnoredLocationWrite (location : Fin 8) (w : Word) (s : State) : Host.Outcome State Fault Refusal :=
  .next (s.ignoredWrite location w)

/-- BAD_COMMAND (R164, R169): a COMMAND write whose code names no command. -/
def execBadCommand (code arg : BitVec 8) (s : State) : Host.Outcome State Fault Refusal :=
  .next (s.commandWrite code arg)

/-! ## The frame as its clocks bring it (R159, R160) -/

/-- The frame end of a row: what the row does when SELECT rises after the 24th clock of its frame (R160, R161). -/
def State.rowFrameEnd (s : State) : Instr → State
  | .flagsRead => s.flagsRead
  | .transferRead => s.transferRead
  | .transferWrite w => s.transferWrite w
  | .abort w => s.controlWrite w
  | .interruptEnableWrite w => s.controlWrite w
  | .ignoredLocationWrite location w => s.ignoredWrite location w
  | i => match commandWordOf i with
    | some w => s.commandWrite (w.extractLsb' 8 8) (w.extractLsb' 0 8)
    | none => s

/-- SELECT rises (R159): after exactly 24 clocks the frame's address byte and data word pick the row whose effects come
now; a frame of another length, or one that spells no row, is over without effect. -/
def State.selectRises (s : State) : State :=
  match s.port.spi with
  | .none => s
  | .frame f =>
    if f.clocks = 24 then
      match decodeFrame f.address f.data with
      | some i => s.rowFrameEnd i
      | none => s.setSpi .none
    else s.setSpi .none

/-- What the pins of the host port bring (R159, R160). -/
def State.spiEvent (s : State) : SpiEvent → State
  | .selectFalls => s.selectFalls
  | .clock mosi => s.spiClock mosi
  | .addressByte address => s.captureShift (s.port.spi.completed address)
  | .selectRises => s.selectRises

/-- CAPTURE (R159, R160). -/
def execCapture (event : SpiEvent) (s : State) : Host.Outcome State Fault Refusal := .next (s.spiEvent event)

/-- The transfer timer expires, if it runs and its 50 ms have passed (R174). -/
def State.transferExpiry (s : State) : State :=
  match s.port.engine with
  | .parameter task (.word since) =>
    if since + Config.transferTimeout ≤ s.timebase then s.endOrCleanUp task .xferTimeout else s
  | .result task outcome _ _ since =>
    if since + Config.transferTimeout ≤ s.timebase then s.cutResult task outcome else s
  | .parameter _ (.step _) | .testing | .idle | .execute .. | .cleanup .. => s

/-- TRANSFER_TIMEOUT (R174). -/
def execTransferTimeout (t : Time) (s : State) : Host.Outcome State Fault Refusal :=
  .next (s.advanceTo t).transferExpiry

end Sys2Proof.Machine
end

