-- ==== Sys2Proof/Machine/HostSteps.lean ====
section
/-! DEFINITION. The table steps of the host (chapter 2 sections 2.6 to 2.11): one operation of the table controller
each, served at the HOST position. -/

namespace Sys2Proof.Machine

/-! ## Parameter steps and clean-up (R28, R29, R35, R36) -/

/-- A slot goes to LOADING and takes the install's parameters (R28). -/
def State.setLoading (s : State) (slot : SlotNo) (l : Loading) : State :=
  s.setEntry slot { s.entries[slot] with occupant := .loading l }

/-- The parameters of an install whose three first words are taken (R28, R187). -/
def Task.loading (task : Task) : Loading where
  group := installGroup (task.word 0)
  key := task.word 1
  tolerance := installTolerance (task.word 0)
  runCount := (task.word 2).toNat
  alternatePresent := installAlternate (task.word 0)

/-- The cells an install reserves: as many again when the alternate is present (R28, R50). -/
def Loading.cells (l : Loading) : Nat := (if l.alternatePresent then 2 else 1) * cellsFor l.runCount

/-- The five tests of R28 in their order, and the reservation. -/
def installParameterBody (task : Task) (held : Bool) (s : State) : State :=
  let l := task.loading
  if s.groups[l.group].isNone then s.stepFailed task .noSuchGroup
  else if !countAccepted 127 l.runCount then s.stepFailed task .badParameter
  else if s.keyHeld l.group l.key none then s.stepFailed task .duplicateKey
  else match s.lowestFreeSlot with
    | none => s.stepFailed task .tableFull
    | some slot => match s.pool.reserve l.cells with
      | none => s.stepFailed task .noSpace
      | some p => ((s.setLoading slot l).setPool p).stepPassed task held

/-- INSTALL_PARAMETER_STEP (R28, R187). -/
def execInstallParameterStep (s : State) : Host.Outcome State Fault Refusal :=
  .next (s.hostStep .installParameter installParameterBody)

/-- The LOADING slot, if there is one, returns to FREE with its generation unchanged (R29, R30). -/
def State.freeLoading (s : State) : State :=
  match s.loadingSlot with
  | some slot => s.freeSlot slot
  | none => s

/-- The clean-up of an interrupted parameter phase (R29): the slot and the reservation are given back and the command
ends with the outcome that caused it. -/
def State.cleanUp (s : State) : State :=
  if s.claims.host = some .cleanUp ∧ s.turnOf .host then
    match s.port.engine with
    | .cleanup task outcome => ((s.served .host).freeLoading.returnReservation).endTask task false outcome
    | .testing | .idle | .parameter .. | .execute .. | .result .. => s
  else s

/-- PARAMETER_PHASE_CLEAN_UP (R29, R52). -/
def execParameterPhaseCleanUp (s : State) : Host.Outcome State Fault Refusal := .next s.cleanUp

/-- The test of the group's state that comes first in a group parameter step (R184, R185). -/
def groupStateFailure (c : HostCommand) (g : Option Group) : Option HostOutcome :=
  match c with
  | .groupDefine => if g.isSome then some .groupDefined else none
  | _ => if g.isNone then some .noSuchGroup else none

/-- The group parameter step at S7: the group's state, the count, the cells (R35, R36, R184, R185). -/
def groupParameterBody (task : Task) (held : Bool) (s : State) : State :=
  let n := (task.word 6).toNat
  match groupStateFailure task.command s.groups[argGroup task.arg] with
  | some outcome => s.stepFailed task outcome
  | none =>
    if !countAccepted 15 n then s.stepFailed task .badParameter
    else match s.pool.reserve (cellsFor n) with
      | none => s.stepFailed task .noSpace
      | some p => (s.setPool p).stepPassed task held

/-- GROUP_PARAMETER_STEP (R35, R36, R184, R185). -/
def execGroupParameterStep (s : State) : Host.Outcome State Fault Refusal :=
  .next (s.hostStep .groupParameter groupParameterBody)

/-! ## The install final step (R30) -/

/-- The generation after a successful install: it wraps from 15 to 1 (R17). -/
def nextGeneration (g : Fin 16) : Fin 16 := if g = 15 then 1 else g + 1

/-- The patterns under test of an install: main, then the alternate if present, in reserved cells, under the entry's
class and its group's mask (R30). -/
def State.installUnderTest (s : State) (l : Loading) : List Contender :=
  let parts := reservationParts l.runCount s.pool.reservation
  let mask := match s.groups[l.group] with
    | some g => g.settings.inputMask
    | none => 0
  let contender := fun (v : Variant) (chain : List CellNo) =>
    ({ owner := .reservedFrame v, runCount := l.runCount, chain := chain, tolerance := l.tolerance
       inputMask := mask } : Contender)
  contender .main parts.1 :: (if l.alternatePresent then [contender .alternate parts.2] else [])

/-- The entry an install puts into its slot: ACTIVE, owning the reserved cells (R30, R51). -/
def Loading.install (l : Loading) (reservation : List CellNo) : Installed where
  status := .active
  group := l.group
  key := l.key
  tolerance := l.tolerance
  runCount := l.runCount
  main := (reservationParts l.runCount reservation).1
  alternate := if l.alternatePresent then some (reservationParts l.runCount reservation).2 else none
  mainDamaged := false
  alternateDamaged := false

/-- A group's entry count changes (R20). -/
def State.changeCount (s : State) (g : GroupNo) (f : Nat → Nat) : State :=
  match s.groups[g] with
  | some group => s.setGroup g (some { group with entryCount := f group.entryCount })
  | none => s

/-- The six effects of a successful install; the result is the new handle (R30). -/
def State.completeInstall (s : State) (slot : SlotNo) (l : Loading) : State × Word :=
  let e := l.install s.pool.reservation
  let gen := nextGeneration s.entries[slot].generation
  let s := (s.setEntry slot { generation := gen, occupant := .installed e }).setPool s.pool.ownReservation
  ((s.joinFrames slot e).changeCount l.group (· + 1), (⟨slot, gen⟩ : Handle).toWord)

/-- The install that is LOADING: its slot and parameters (R16, R18). -/
def State.loading? (s : State) : Option (SlotNo × Loading) :=
  s.loadingSlot.bind (fun slot => match s.entries[slot].occupant with
    | .loading l => some (slot, l)
    | .free | .installed _ => none)

/-- The install final step (R30). -/
def installFinalBody (task : Task) (held : Bool) (s : State) : State :=
  match s.loading? with
  | none => s
  | some (slot, l) =>
    match conflictCheck (s.installUnderTest l) (s.conflictSet (fun _ => false)) s with
    | (s, .conflict other) =>
      ((s.freeSlot slot).returnReservation).finish task held .conflict (s.conflictResult other)
    | (s, .unreadable) => ((s.freeSlot slot).returnReservation).finish task held .entryDamaged []
    | (s, .clear) =>
      match s.completeInstall slot l with
      | (s, handle) => s.finish task held .ok [handle]

/-- INSTALL_FINAL_STEP (R30, R187). -/
def execInstallFinalStep (s : State) : Host.Outcome State Fault Refusal :=
  .next (s.hostStep .installFinal installFinalBody)

/-! ## Group final steps and remove (R35 to R38) -/

/-- The repeat pattern a GROUP DEFINE or GROUP EDIT brings in its reservation (R51). -/
def State.newRepeat (s : State) (task : Task) : Pattern := ⟨(task.word 6).toNat, s.pool.reservation⟩

/-- The new repeat pattern under test, under the new class and mask (R35, R36). -/
def reservedRepeatContender (task : Task) (p : Pattern) : Contender where
  owner := .reservedRepeat
  runCount := p.runCount
  chain := p.chain
  tolerance := task.settings.repeatTolerance
  inputMask := task.settings.inputMask

/-- The three effects of a successful group define (R35). -/
def State.defineGroup (s : State) (g : GroupNo) (settings : GroupSettings) (p : Option Pattern) : State :=
  let s := s.setGroup g
    (some { settings := settings, repeatPattern := p, repeatDamaged := false, entryCount := 0 })
  let s := match p with
    | some p => (s.setPool s.pool.ownReservation).joinBin p.runCount (.ofGroup g)
    | none => s
  s.clearToggle g

/-- The group define final step (R35, R184): with a repeat pattern the conflict check, without one the test that the
group is UNDEFINED. -/
def groupDefineFinalBody (task : Task) (held : Bool) (s : State) : State :=
  let g := argGroup task.arg
  if repeatChoice (task.word 0) = 1 then
    let p := s.newRepeat task
    match conflictCheck [reservedRepeatContender task p] (s.conflictSet (fun _ => false)) s with
    | (s, .conflict other) => s.returnReservation.finish task held .conflict (s.conflictResult other)
    | (s, .unreadable) => s.returnReservation.finish task held .entryDamaged []
    | (s, .clear) => (s.defineGroup g task.settings (some p)).finish task held .ok []
  else if s.groups[g].isSome then s.finish task held .groupDefined []
  else (s.defineGroup g task.settings none).finish task held .ok []

/-- GROUP_DEFINE_FINAL_STEP (R35, R184). -/
def execGroupDefineFinalStep (s : State) : Host.Outcome State Fault Refusal :=
  .next (s.hostStep .groupDefineFinal groupDefineFinalBody)

/-- The stored frame patterns of a group's entries, in slot order, main before alternate (R36). -/
def State.framesOfGroup (s : State) (g : GroupNo) : List PatternRef :=
  (s.slotsOfGroup g).flatMap (fun slot => [.frame slot .main, .frame slot .alternate])

/-- The patterns under test of a group edit: the new or kept repeat pattern under the new class, then the frame
patterns of the group's entries, all under the new mask (R36). -/
def State.editUnderTest (s : State) (g : GroupNo) (task : Task) : List Contender :=
  let mask := task.settings.inputMask
  let repeatTest := match repeatChoice (task.word 0) with
    | 0 => (s.contenderOf (.ofGroup g)).toList.map (fun c =>
        { c with tolerance := task.settings.repeatTolerance, inputMask := mask })
    | 1 => [reservedRepeatContender task (s.newRepeat task)]
    | _ => []
  repeatTest ++ ((s.framesOfGroup g).filterMap s.contenderOf).map (fun c => { c with inputMask := mask })

/-- A pattern of the group, which the set of a group edit does not hold (R27, R36). -/
def State.belongsTo (s : State) (g : GroupNo) : PatternRef → Bool
  | .frame slot _ => match s.installedAt slot with
    | some e => decide (e.group = g)
    | none => false
  | .ofGroup g' => decide (g' = g)

/-- The old repeat pattern of a group leaves its bin if it was there, and its cells are released (R37, R38). -/
def State.releaseRepeat (s : State) (g : GroupNo) (p : Option Pattern) : State :=
  match p with
  | some p => (s.leaveBin p.runCount (.ofGroup g)).sendRelease p.chain
  | none => s

/-- The change of an accepted group edit, in the order of R37. -/
def State.editGroup (s : State) (g : GroupNo) (task : Task) (group : Group) : State :=
  let written := { group with settings := task.settings }
  let s := match repeatChoice (task.word 0) with
    | 0 => s.setGroup g (some written)
    | 1 =>
      let p := s.newRepeat task
      let s := (s.setGroup g (some { written with repeatPattern := some p, repeatDamaged := false })).releaseRepeat
        g group.repeatPattern
      (s.setPool s.pool.ownReservation).joinBin p.runCount (.ofGroup g)
    | _ =>
      (s.setGroup g (some { written with repeatPattern := none, repeatDamaged := false })).releaseRepeat
        g group.repeatPattern
  s.sendNotice (.groupChanged g)

/-- The group edit final step (R36, R37, R185). -/
def groupEditFinalBody (task : Task) (held : Bool) (s : State) : State :=
  let g := argGroup task.arg
  if s.groups[g].isNone then s.finish task held .noSuchGroup []
  else
    match conflictCheck (s.editUnderTest g task) (s.conflictSet (s.belongsTo g)) s with
    | (s, .conflict other) => s.returnReservation.finish task held .conflict (s.conflictResult other)
    | (s, .unreadable) => s.returnReservation.finish task held .entryDamaged []
    | (s, .clear) =>
      match s.groups[g] with
      | some group => (s.editGroup g task group).finish task held .ok []
      | none => s.finish task held .noSuchGroup []

/-- GROUP_EDIT_FINAL_STEP (R36, R37, R185). -/
def execGroupEditFinalStep (s : State) : Host.Outcome State Fault Refusal :=
  .next (s.hostStep .groupEditFinal groupEditFinalBody)

/-- The group remove step (R38, R186). -/
def groupRemoveBody (task : Task) (held : Bool) (s : State) : State :=
  let g := argGroup task.arg
  match s.groups[g] with
  | none => s.finish task held .noSuchGroup []
  | some group =>
    if 0 < group.entryCount then s.finish task held .groupNotEmpty []
    else (((s.releaseRepeat g group.repeatPattern).setGroup g none).clearToggle g).finish task held .ok []

/-- GROUP_REMOVE_STEP (R38, R186). -/
def execGroupRemoveStep (s : State) : Host.Outcome State Fault Refusal :=
  .next (s.hostStep .groupRemove groupRemoveBody)

/-! ## Edit, suspend, resume, retire (R31 to R34) -/

/-- The key value an ENTRY EDIT asks for: w3 when bit 0 of w2 is 1, the present one otherwise (R188). -/
def editKey (task : Task) (e : Installed) : Word := if (task.word 1).getLsbD 0 then task.word 2 else e.key

/-- The class an ENTRY EDIT asks for: bits 10 to 8 of w2 when bit 1 of w2 is 1, the present one otherwise (R188). -/
def editTolerance (task : Task) (e : Installed) : Fin 8 :=
  if (task.word 1).getLsbD 1 then Fin.ofNat 8 (bitField (task.word 1) 8 3) else e.tolerance

/-- The stored frame patterns of a slot under a class (R31). -/
def State.framesUnder (s : State) (slot : SlotNo) (tolerance : Fin 8) : List Contender :=
  (([.frame slot .main, .frame slot .alternate] : List PatternRef).filterMap s.contenderOf).map
    (fun c => { c with tolerance := tolerance })

/-- A frame pattern of this slot. -/
def ofSlot (slot : SlotNo) : PatternRef → Bool
  | .frame slot' _ => decide (slot' = slot)
  | .ofGroup _ => false

/-- Test 4 of the entry edit: the conflict check, made when the class changes (R31). -/
def State.editCheck (s : State) (slot : SlotNo) (e : Installed) (tolerance : Fin 8) : State × CheckVerdict :=
  if tolerance = e.tolerance then (s, .clear)
  else conflictCheck (s.framesUnder slot tolerance) (s.conflictSet (ofSlot slot)) s

/-- The end of an entry edit whose check found no conflict: ENTRY_DAMAGED when the check has marked the entry itself,
else the new key value and class are written (R31). -/
def State.writeEdit (s : State) (task : Task) (held : Bool) (slot : SlotNo) : State :=
  match s.installedAt slot with
  | none => s.finish task held .noSuchEntry []
  | some e =>
    if e.status = .damaged then s.finish task held .entryDamaged []
    else
      (s.setInstalled slot { e with key := editKey task e, tolerance := editTolerance task e }).finish task held .ok []

/-- The four tests of the entry edit in their order (R31, R188). -/
def entryEditBody (task : Task) (held : Bool) (s : State) : State :=
  match s.currentWord (task.word 0) with
  | none => s.finish task held .noSuchEntry []
  | some (h, e) =>
    if e.status = .damaged then s.finish task held .entryDamaged []
    else if editKey task e ≠ e.key ∧ s.keyHeld e.group (editKey task e) (some h.slot) then
      s.finish task held .duplicateKey []
    else
      match s.editCheck h.slot e (editTolerance task e) with
      | (s, .conflict other) => s.finish task held .conflict (s.conflictResult other)
      | (s, .clear) | (s, .unreadable) => s.writeEdit task held h.slot

/-- ENTRY_EDIT_STEP (R31, R188). -/
def execEntryEditStep (s : State) : Host.Outcome State Fault Refusal :=
  .next (s.hostStep .entryEdit entryEditBody)

/-- The suspend operation (R32): it acts on an ACTIVE entry, and a SUSPENDED one is answered OK unchanged. -/
def suspendBody (task : Task) (held : Bool) (s : State) : State :=
  match s.currentWord (task.word 0) with
  | none => s.finish task held .noSuchEntry []
  | some (h, e) =>
    match e.status with
    | .damaged => s.finish task held .entryDamaged []
    | .suspended => s.finish task held .ok []
    | .active =>
      (((s.leaveFrames h.slot e).setInstalled h.slot { e with status := .suspended }).sendNotice
        (.entrySuspended h)).finish task held .ok []

/-- SUSPEND (R32, R189). -/
def execSuspend (s : State) : Host.Outcome State Fault Refusal := .next (s.hostStep .suspend suspendBody)

/-- The resume operation (R33). -/
def resumeBody (task : Task) (held : Bool) (s : State) : State :=
  match s.currentWord (task.word 0) with
  | none => s.finish task held .noSuchEntry []
  | some (h, e) =>
    match e.status with
    | .damaged => s.finish task held .entryDamaged []
    | .active => s.finish task held .ok []
    | .suspended =>
      ((s.setInstalled h.slot { e with status := .active }).joinFrames h.slot e).finish task held .ok []

/-- RESUME (R33, R189). -/
def execResume (s : State) : Host.Outcome State Fault Refusal := .next (s.hostStep .resume resumeBody)

/-- The chains of an entry's patterns are released, main then alternate (R34). -/
def State.releaseFrames (s : State) (e : Installed) : State :=
  let s := s.sendRelease e.main
  match e.alternate with
  | some chain => s.sendRelease chain
  | none => s

/-- A current entry is retired, in the order of R34. -/
def State.retireEntry (s : State) (h : Handle) (e : Installed) : State :=
  let s := match e.status with
    | .active => s.leaveFrames h.slot e
    | .suspended | .damaged => s
  let s := (s.releaseFrames e).freeSlot h.slot
  ((s.changeCount e.group (· - 1)).sendNotice (.entryRetired h)).sendRetire h

/-- The retire operation (R34). -/
def retireBody (task : Task) (held : Bool) (s : State) : State :=
  match s.currentWord (task.word 0) with
  | none => s.finish task held .noSuchEntry []
  | some (h, e) => (s.retireEntry h e).finish task held .ok []

/-- RETIRE (R34, R189). -/
def execRetire (s : State) : Host.Outcome State Fault Refusal := .next (s.hostStep .retire retireBody)

/-! ## Read steps (R43, R44) -/

/-- One run of a host read: a faulted run reads 0 and its pattern is marked damaged (R43, R57). -/
def State.readTableRun (ref : PatternRef) (chain : List CellNo) (acc : State × List Word) (k : Nat) :
    State × List Word :=
  match acc.1.pool.readRun chain k with
  | .value d => (acc.1, acc.2 ++ [wordOf d])
  | .unreadable c => ((acc.1.recordFault c).damagePattern ref, acc.2 ++ [0])
  | .absent => (acc.1, acc.2 ++ [0])

/-- The `n` runs of a stored pattern, read to the last (R43). -/
def State.readPattern (s : State) (ref : PatternRef) (chain : List CellNo) (n : Nat) : State × List Word :=
  ((List.range n).map (· + 1)).foldl (State.readTableRun ref chain) (s, [])

/-- The runs of an entry: main, then the alternate if present (R43, R190). -/
def State.readFrames (s : State) (slot : SlotNo) (e : Installed) : State × List Word :=
  match s.readPattern (.frame slot .main) e.main e.runCount with
  | (s, words) =>
    match e.alternate with
    | none => (s, words)
    | some chain =>
      match s.readPattern (.frame slot .alternate) chain e.runCount with
      | (s, more) => (s, words ++ more)

/-- The entry read step: the header shows the entry as it stands at the end of the step (R43, R190). -/
def entryReadBody (task : Task) (held : Bool) (s : State) : State :=
  match s.currentWord (task.word 0) with
  | none => s.finish task held .noSuchEntry []
  | some (h, e) =>
    match s.readFrames h.slot e with
    | (s, runs) =>
      let after := (s.installedAt h.slot).getD e
      s.finish task held (if after.status = .damaged then .entryDamaged else .ok)
        (entryHeader after h.gen :: e.key :: wordOf e.runCount :: runs)

/-- ENTRY_READ_STEP (R43, R190). -/
def execEntryReadStep (s : State) : Host.Outcome State Fault Refusal :=
  .next (s.hostStep .entryRead entryReadBody)

/-- The runs of a group's repeat pattern behind its run count, or no words (R186). -/
def State.readRepeat (s : State) (g : GroupNo) (p : Option Pattern) : State × List Word :=
  match p with
  | none => (s, [])
  | some p => match s.readPattern (.ofGroup g) p.chain p.runCount with
    | (s, runs) => (s, wordOf p.runCount :: runs)

/-- The group read step: the header shows REPEAT_DAMAGED as it stands at the end of the step (R43, R186). -/
def groupReadBody (task : Task) (held : Bool) (s : State) : State :=
  let g := argGroup task.arg
  match s.groups[g] with
  | none => s.finish task held .noSuchGroup []
  | some group =>
    match s.readRepeat g group.repeatPattern with
    | (s, words) =>
      let after := s.groups[g].getD group
      s.finish task held .ok
        (groupHeader after :: settingsWords group.settings group.repeatPattern.isSome ++ words)

/-- GROUP_READ_STEP (R43, R186). -/
def execGroupReadStep (s : State) : Host.Outcome State Fault Refusal :=
  .next (s.hostStep .groupRead groupReadBody)

/-- The slot of the installed entry of a group and key value (R44). -/
def State.findKey (s : State) (g : GroupNo) (key : Word) : Option SlotNo :=
  (s.slotsOfGroup g).find? (fun slot => match s.installedAt slot with
    | some e => decide (e.key = key)
    | none => false)

/-- The entry find step (R44, R191). -/
def entryFindBody (task : Task) (held : Bool) (s : State) : State :=
  let g := argGroup task.arg
  if s.groups[g].isNone then s.finish task held .noSuchGroup []
  else match s.findKey g (task.word 0) with
    | some slot => s.finish task held .ok [(s.handleOf slot).toWord]
    | none => s.finish task held .noSuchEntry [noHandleWord]

/-- ENTRY_FIND_STEP (R44, R191). -/
def execEntryFindStep (s : State) : Host.Outcome State Fault Refusal :=
  .next (s.hostStep .entryFind entryFindBody)

/-- The entry list step (R44, R191). -/
def entryListBody (task : Task) (held : Bool) (s : State) : State :=
  let g := argGroup task.arg
  if s.groups[g].isNone then s.finish task held .noSuchGroup []
  else
    let handles := (s.slotsOfGroup g).map (fun slot => (s.handleOf slot).toWord)
    s.finish task held .ok (wordOf handles.length :: handles)

/-- ENTRY_LIST_STEP (R44, R191). -/
def execEntryListStep (s : State) : Host.Outcome State Fault Refusal :=
  .next (s.hostStep .entryList entryListBody)

/-- Count of the FREE entries (R44). -/
def State.countFreeEntries (s : State) : Nat := s.entries.toList.countP (fun e => decide (e.occupant = .free))

/-- Count of the DEFINED groups with REPEAT_DAMAGED set (R44). -/
def State.countRepeatDamaged (s : State) : Nat :=
  s.groups.toList.countP (fun g => match g with
    | some group => group.repeatDamaged
    | none => false)

/-- The ten result words of TABLE STATUS (R182). -/
def State.tableStatusWords (s : State) : List Word :=
  [wordOf (s.pool.count .free), wordOf (s.pool.count .reserved), wordOf (s.pool.count .owned),
   wordOf (s.pool.count .returning), wordOf (s.pool.count .withheld), wordOf s.countFreeEntries,
   wordOf (s.countStatus .active), wordOf (s.countStatus .suspended), wordOf (s.countStatus .damaged),
   wordOf s.countRepeatDamaged]

/-- The table status step: the words are formed, then ATTENTION TABLE is cleared (R44, R182). -/
def tableStatusBody (task : Task) (held : Bool) (s : State) : State :=
  (s.setTableAttention false).finish task held .ok s.tableStatusWords

/-- TABLE_STATUS_STEP (R44, R182). -/
def execTableStatusStep (s : State) : Host.Outcome State Fault Refusal :=
  .next (s.hostStep .tableStatus tableStatusBody)

/-! ## The handle check (R125, R136, R195, R198) -/

/-- The refusal of the handle check, if it fails: RELAY SET tests that both handles are current; SEND and HOLD START
that the handle is current and the entry not DAMAGED (R195, R198). -/
def State.handleFailure (s : State) (task : Task) : Option HostOutcome :=
  match task.command with
  | .relaySet =>
    if (s.currentWord (task.word 0)).isSome && (s.currentWord (task.word 1)).isSome then none else some .noSuchEntry
  | _ =>
    match s.currentWord (task.word 0) with
    | none => some .noSuchEntry
    | some (_, e) => if e.status = .damaged then some .entryDamaged else none

/-- The request that follows a passed handle check, as its block takes it (R125, R136). -/
def handleRequest (task : Task) (held : Bool) (s : State) : State :=
  match task.command with
  | .relaySet => afterRetires relaySetWork task held s
  | .send => sendWork task held s
  | .holdStart => holdStartWork task held s
  | _ => s

/-- The handle check, and behind it the request, unless the block takes that `later` in a step of its own (log entry
19). -/
def handleCheckBody (later : Bool) (task : Task) (held : Bool) (s : State) : State :=
  match s.handleFailure task with
  | some outcome => s.finish task held outcome []
  | none => if later then s else handleRequest task held s

/-- HANDLE_CHECK (R125, R136, R195, R198). -/
def execHandleCheck (later : Bool) (s : State) : Host.Outcome State Fault Refusal :=
  .next (s.hostStep .handleCheck (handleCheckBody later))

end Sys2Proof.Machine
end

