-- ==== Sys2Proof/Machine/InputEvents.lean ====
section
/-! DEFINITION. The events of the receive inputs (chapter 4). A clock event acts only when its time has come, and an
input acts on its line only while it watches it (log entries 1, 2). -/

namespace Sys2Proof.Machine

/-- LINE_TRANSITION (R65 to R70, R73, R76). -/
def execLineTransition (i : InputId) (t : Time) (s : State) : Host.Outcome State Fault Refusal :=
  .next ((s.advanceTo t).inputTransition i)

/-- An event of an input that watches its line, taken at `t`. -/
def State.inputEvent (s : State) (i : InputId) (t : Time) (event : State → State) : State :=
  let s := s.advanceTo t
  if s.watching i then event s else s

/-- CARRIER_GAP (R66, R67, R69). -/
def execCarrierGap (i : InputId) (t : Time) (s : State) : Host.Outcome State Fault Refusal :=
  .next (s.inputEvent i t (fun s => s.inputGap i))

/-- GLITCH_FLOOR_REACHED (R68 to R71, R73). -/
def execGlitchFloorReached (i : InputId) (t : Time) (s : State) : Host.Outcome State Fault Refusal :=
  .next (s.inputEvent i t (fun s => s.inputFloor i))

/-- STUCK (R72). -/
def execStuck (i : InputId) (t : Time) (s : State) : Host.Outcome State Fault Refusal :=
  .next (s.inputEvent i t (fun s => s.inputStuck i))

/-- END_GAP (R70, R74, R75). -/
def execEndGap (i : InputId) (t : Time) (s : State) : Host.Outcome State Fault Refusal :=
  .next (s.inputEvent i t (fun s => s.inputEndGap i))

/-- DISCARDING_END_GAP (R73). -/
def execDiscardingEndGap (i : InputId) (t : Time) (s : State) : Host.Outcome State Fault Refusal :=
  .next (s.inputEvent i t (fun s => s.inputDiscardGap i))

/-- BLANKING_ASSERTED (R76): an output of the input's blank mask asserts, and the input is in neither OFF nor BLANKED;
the input takes it. -/
def execBlankingAsserted (i : InputId) (o : OutputId) (s : State) : Host.Outcome State Fault Refusal :=
  .next (if OutputMask.has s.inputs[i].config.blankMask o && s.outputs[o].state.blanking then s.enterBlanked i else s)

/-- BLANKING_RELEASED (R77): no output of the mask asserts any more, and the BLANKED input looks at its line. -/
def execBlankingReleased (i : InputId) (s : State) : Host.Outcome State Fault Refusal :=
  .next (if s.inputs[i].assembler = .blanked ∧ s.blankedBy s.inputs[i].config.blankMask = false then
      s.setInput i (s.inputs[i].resume s.timebase)
    else s)

/-- Set the sticky bit that a request names (R78). -/
def InputSticky.raise (x : InputSticky) : RequestedBit → InputSticky
  | .unmatched => { x with unmatched := true }
  | .orphanRepeat => { x with orphanRepeat := true }
  | .pressRefused => { x with pressRefused := true }

/-- STICKY_SET_REQUEST (R78, R93, R105, R106): the input takes a waiting request for this bit. -/
def execStickySetRequest (i : InputId) (bit : RequestedBit) (s : State) : Host.Outcome State Fault Refusal :=
  .next (if s.mail.sticky[i].contains bit then
      (s.setMail { s.mail with sticky := s.mail.sticky.set i (s.mail.sticky[i].erase bit) }).setSticky i
        (fun x => x.raise bit)
    else s)

end Sys2Proof.Machine
end

