-- ==== Sys2Proof/Machine/Lookup.lean ====
section
/-! DEFINITION. The lookup (chapter 5): the working burst, the candidates of its bin, their comparison, the faults met
on the way, and the match result. -/

namespace Sys2Proof.Machine

/-- The group whose record decides the scope and the filter of a pattern, and the record (R87). -/
def State.groupOf (s : State) (ref : PatternRef) : Option (GroupNo × Group) :=
  let g := match ref with
    | .frame slot _ => (s.installedAt slot).map Installed.group
    | .ofGroup g => some g
  g.bind (fun g => s.groups[g].map (fun group => (g, group)))

/-- A visited pattern is a candidate: its group's mask holds the burst's input, and the burst passes the group's
carrier filter (R87). -/
def State.isCandidate (s : State) (b : Burst) (ref : PatternRef) : Bool :=
  match s.groupOf ref with
  | some (_, group) => InputMask.has group.settings.inputMask b.input && passesCarrier group.settings b.kind b.estimate
  | none => false

/-- The comparison of a candidate with the burst's runs, each with its index; it ends at the first run that lies
outside its window or is unreadable (R88). -/
def compareCandidate (pool : Pool) (c : Contender) : List (Nat × Nat) → CandidateVerdict
  | [] => .matched
  | (b, k) :: rest =>
    match pool.readRun c.chain k with
    | .value d => if inWindow c.tolerance d b then compareCandidate pool c rest else .apart
    | .unreadable cell => .fault cell
    | .absent => .apart

/-- What a match of this pattern records, with the settings as they stand (R89). -/
def State.foundOf (s : State) (ref : PatternRef) : Found :=
  match ref, s.groupOf ref with
  | .ofGroup _, some (g, group) =>
    .ofGroup { group := g, releaseGap := group.settings.releaseGap, pressLimit := group.settings.pressLimit }
  | .frame slot v, some (g, group) =>
    match s.installedAt slot with
    | some e =>
      .entry { group := g, handle := s.handleOf slot, variant := v, key := e.key
               releaseGap := group.settings.releaseGap, pressLimit := group.settings.pressLimit }
    | none => .none
  | _, none => .none

/-- A lookup visits one pattern of the bin as it stood at the grant: one that has left the bin is passed over (R86 to
R90). -/
def State.visit (b : Burst) (acc : State × Found) (ref : PatternRef) : State × Found :=
  let s := acc.1
  if (s.binList b.runs.length).contains ref && s.isCandidate b ref then
    match s.contenderOf ref with
    | none => acc
    | some c =>
      match compareCandidate s.pool c (b.runs.zipIdx 1) with
      | .matched => (s, s.foundOf ref)
      | .apart => acc
      | .fault cell => ((s.recordFault cell).damagePattern ref, acc.2)
  else acc

/-- A match on an entry that is DAMAGED at the end of the bin is dropped (R91). -/
def State.keepFound (s : State) (f : Found) : Found :=
  match f with
  | .entry m => match s.installedAt m.handle.slot with
    | some e => if e.status = .damaged then .none else f
    | none => .none
  | .ofGroup _ | .none => f

/-- The grant of a lookup: the matcher copies the held burst as its working burst and the held slot becomes empty
(R75, R84). -/
def State.beginLookup (s : State) (i : InputId) (b : Burst) : State :=
  { (s.served (.input i)).setInput i { s.inputs[i] with held := none } with working := some b }

/-- The end of a lookup: the match result goes onto the notice path, UNMATCHED is requested for the outcome NONE, and
the working burst is discarded (R84, R92, R93). -/
def State.endLookup (s : State) (b : Burst) (f : Found) : State :=
  let s := s.sendNotice (.result { input := b.input, startTime := b.startTime, endTime := b.endTime, found := f })
  let s := match f with
    | .none => s.requestSticky b.input .unmatched
    | .entry _ | .ofGroup _ => s
  { s with working := none }

/-- The lookup of the working burst (R86 to R93). -/
def State.runLookup (s : State) : State :=
  match s.working with
  | none => s
  | some b =>
    let visited := (s.binList b.runs.length).foldl (State.visit b) (s, .none)
    visited.1.endLookup b (visited.1.keepFound visited.2)

/-- LOOKUP (R75, R84 to R93): served when the input's claim has its turn. -/
def execLookup (i : InputId) (s : State) : Host.Outcome State Fault Refusal :=
  .next (match s.turnOf (.input i), s.inputs[i].held with
    | true, some b => (s.beginLookup i b).runLookup
    | _, _ => s)

end Sys2Proof.Machine
end

