-- ==== Sys2Proof/Machine/OutputEvents.lean ====
section
/-! DEFINITION. The events of the transmit outputs (chapter 8): the served frame grant and damage notice, hold-ended
messages, the ends of frames, intervals and spaces, the hold limit, and a parity fault in a frame. -/

namespace Sys2Proof.Machine

/-! ## Frame grant (R41, R141) -/

/-- What a granted pattern is: its kind, its run count and its chain (R41). -/
structure Grant where
  sent : SentPattern
  runCount : Nat
  chain : List CellNo
  deriving DecidableEq, Repr

/-- The pattern a grant chooses for a current entry: a first frame takes the frame pattern of the variant; a later
frame takes the group's repeat pattern when it has one and REPEAT_DAMAGED is clear, and otherwise the same frame
pattern (R41). An alternate that is not there gives the main pattern (log entry 27). -/
def chooseGrant (e : Installed) (g : Group) (v : Variant) (first : Bool) : Grant :=
  let frame : Grant := ⟨.frame v, e.runCount, (e.chainOf v).getD e.main⟩
  if first then frame
  else match g.repeatPattern, g.repeatDamaged with
    | some p, false => ⟨.repeatOf e.group, p.runCount, p.chain⟩
    | _, _ => frame

/-- The frame a grant begins, with the group's transmit settings as they stand (R41, R141). -/
def Grant.frame (x : Grant) (g : GroupSettings) (now : Time) : Frame where
  sent := x.sent
  runCount := x.runCount
  chain := x.chain
  carrier := g.transmitCarrier
  duty := g.duty
  repeatPeriod := g.repeatPeriod
  startTime := now
  run := 0
  runStart := now
  runEnd := now

/-- A granted frame: the references are added, the output enters FRAME, and run 1 is read and driven (R53, R141,
R143). -/
def State.startFrame (s : State) (o : OutputId) (f : Frame) : State :=
  let s := s.setPool (s.pool.addReference f.chain o)
  s.setOutput o { s.outputs[o] with state := .frame (driveRuns s.pool s.timebase f.runCount f) }

/-- The answer of a served frame grant, in the order of R41. -/
def State.answerGrant (s : State) (o : OutputId) : State :=
  match s.outputs[o].activeItem with
  | none => s
  | some (item, a, _) =>
    match s.currentEntry item.handle with
    | none => s.endActive o .stale s.timebase
    | some e =>
      if e.status = .damaged then s.endActive o .damaged s.timebase
      else match s.groups[e.group] with
        | none => s.endActive o .stale s.timebase
        | some g => s.startFrame o ((chooseGrant e g a.variant (decide (a.framesSent = 0))).frame g.settings s.timebase)

/-- The claim of an output can be served: it has its turn and the references of the output's earlier frame are removed
(R22, R42, R53; log entry 9). -/
def State.outputReady (s : State) (o : OutputId) : Bool := s.turnOf (.output o) && s.mail.removals[o].isNone

/-- The frame grant of an output can be served (R22, R53). -/
def State.grantReady (s : State) (o : OutputId) : Bool := s.grantWaits o && s.outputReady o

/-- FRAME_GRANT (R41, R53, R141). -/
def execFrameGrant (o : OutputId) (s : State) : Host.Outcome State Fault Refusal :=
  .next (if s.grantReady o then (s.served (.output o)).answerGrant o else s)

/-! ## Damage notice (R42, R152) -/

/-- The pattern a damage notice names, if it still stands, with its chain (R42). -/
def State.namedPattern (s : State) (d : DamageReport) : Option (PatternRef × List CellNo) :=
  match d.sent with
  | .frame v => (s.currentEntry d.handle).bind (fun e => (e.chainOf v).map (fun c => (.frame d.handle.slot v, c)))
  | .repeatOf g => s.groups[g].bind (fun group => group.repeatPattern.map (fun p => (.ofGroup g, p.chain)))

/-- R42: the named pattern is marked damaged when the faulted cell is still OWNED by it, and TABLE attention alone is
raised otherwise. -/
def State.takeDamage (s : State) (d : DamageReport) : State :=
  match s.namedPattern d with
  | some (ref, chain) =>
    if chain.contains d.cell ∧ s.pool.cells[d.cell].condition = .owned then s.damagePattern ref
    else s.setTableAttention true
  | none => s.setTableAttention true

/-- A grant claim that was deferred behind the damage notice is raised (R152). -/
def State.raiseDeferred (s : State) (o : OutputId) : State :=
  match s.outputs[o].state with
  | .grant => s.raiseGrant o
  | .off | .idle | .frame _ | .interval _ | .space _ => s

/-- DAMAGE_NOTICE (R42, R152): by the time it is served, the output has removed its references
(log entry 9). -/
def execDamageNotice (o : OutputId) (s : State) : Host.Outcome State Fault Refusal :=
  .next (match s.outputReady o, s.claims.output[o] with
    | true, some (.damage d) => ((s.served (.output o)).takeDamage d).raiseDeferred o
    | _, _ => s)

/-! ## Hold-ended and the hold limit (R147, R148) -/

/-- HOLD_ENDED (R148): the next hold-ended message of this output; one that finds no item changes nothing. -/
def execHoldEnded (o : OutputId) (s : State) : Host.Outcome State Fault Refusal :=
  .next (match s.mail.holdEnded[o] with
    | [] => s
    | press :: rest =>
      ((s.setMail { s.mail with holdEnded := s.mail.holdEnded.set o rest }).setHoldEnded o (followsPress press)).1)

/-- HOLD_LIMIT (R147): the timebase has reached the item start time plus the hold limit. -/
def execHoldLimit (o : OutputId) (t : Time) (s : State) : Host.Outcome State Fault Refusal :=
  let s := s.advanceTo t
  .next (if s.holdLimitDue o then s.endingCause o .limit else s)

/-! ## The end of a frame (R143, R145 to R147) -/

/-- The outcome with which an item ends at the end of a frame, if it ends: a pending end, a SEND that has sent its
count (SENT), or a HOLD whose flag is set (SENT) (R146, R147; log entry 21). -/
def endAfterFrame (item : Item) (framesSent : Nat) : Option ItemOutcome :=
  match item.endPending with
  | some o => some o
  | none =>
    match item.form with
    | .send c => if c ≤ framesSent then some .sent else none
    | .hold => if item.holdEnded then some .sent else none

/-- The frame of an output whose last run has been driven to its end (R143). -/
def State.frameDone (s : State) (o : OutputId) : Option Frame :=
  s.outputs[o].state.frame?.bind (fun f => if f.run = f.runCount ∧ f.runEnd ≤ s.timebase then some f else none)

/-- The start time of the next frame (R145). -/
def nextFrameTime (f : Frame) : Time :=
  max (f.startTime + f.repeatPeriod * Config.ms) (f.runEnd + Config.leastFrameGap)

/-- Frames sent after one more frame, held at 65,535 (R135, R143). -/
def ActiveItem.counted (a : ActiveItem) : ActiveItem :=
  { a with framesSent := min (a.framesSent + 1) Config.counterLimit }

/-- The end of a frame, in the order of R143; the frame ended at the end of its last mark (log entry 22). -/
def State.endFrame (s : State) (o : OutputId) (f : Frame) : State :=
  match s.outputs[o].activeItem with
  | none => s
  | some (item, a, rest) =>
    let s := s.setActive o { item with active := some a.counted } rest
    match endAfterFrame item a.counted.framesSent with
    | some outcome => s.endActive o outcome f.runEnd
    | none =>
      let s := s.sendRemoval o f.chain
      s.setOutput o { s.outputs[o] with state := .interval (nextFrameTime f) }

/-- FRAME_END (R143, R145 to R147). -/
def execFrameEnd (o : OutputId) (t : Time) (s : State) : Host.Outcome State Fault Refusal :=
  let s := s.advanceTo t
  .next (match s.frameDone o with
    | some f => s.endFrame o f
    | none => s)

/-- The interval of an output is over (R145). -/
def State.intervalDue (s : State) (o : OutputId) : Bool :=
  match s.outputs[o].state with
  | .interval next => decide (next ≤ s.timebase)
  | .off | .idle | .grant | .frame _ | .space _ => false

/-- INTERVAL_END (R145): the output enters GRANT and raises its claim, or defers it (R152). -/
def execIntervalEnd (o : OutputId) (t : Time) (s : State) : Host.Outcome State Fault Refusal :=
  let s := s.advanceTo t
  .next (if s.intervalDue o then (s.setOutput o { s.outputs[o] with state := .grant }).raiseGrant o else s)

/-- The SPACE of an output is over (R150). -/
def State.spaceDue (s : State) (o : OutputId) : Bool :=
  match s.outputs[o].state with
  | .space finish => decide (finish ≤ s.timebase)
  | .off | .idle | .grant | .frame _ | .interval _ => false

/-- SPACE_END (R138, R139, R150): the head item starts, or the output enters IDLE. -/
def execSpaceEnd (o : OutputId) (t : Time) (s : State) : Host.Outcome State Fault Refusal :=
  let s := s.advanceTo t
  .next (if s.spaceDue o then s.startHead o else s)

/-! ## A parity fault in a frame (R151) -/

/-- The frame of an output whose next run is due and unreadable, with the cell (R143, R151). -/
def State.frameFault (s : State) (o : OutputId) : Option (Frame × CellNo) :=
  s.outputs[o].state.frame?.bind (fun f =>
    if f.run < f.runCount ∧ f.runEnd ≤ s.timebase then
      match s.pool.readRun f.chain (f.run + 1) with
      | .unreadable c => some (f, c)
      | .value _ | .absent => none
    else none)

/-- DAMAGE_SEEN is set, and ATTENTION TXn with it (R151, R156). -/
def State.setDamageSeen (s : State) (o : OutputId) : State :=
  (s.setOutput o { s.outputs[o] with damageSeen := true }).setOutputAttention o true

/-- The cut of a frame for a parity fault, in the order of R151. -/
def State.cutFrame (s : State) (o : OutputId) (f : Frame) (c : CellNo) : State :=
  match s.outputs[o].activeItem with
  | none => s
  | some (item, _, _) =>
    let s := (s.recordFault c).endActive o .damaged f.runEnd
    (s.setOutputClaim o (some (.damage { handle := item.handle, sent := f.sent, cell := c }))).setDamageSeen o

/-- FRAME_PARITY_FAULT (R151). -/
def execFrameParityFault (o : OutputId) (t : Time) (s : State) : Host.Outcome State Fault Refusal :=
  let s := s.advanceTo t
  .next (match s.frameFault o with
    | some (f, c) => s.cutFrame o f c
    | none => s)

end Sys2Proof.Machine
end

