-- ==== Sys2Proof/Machine/PoolEvents.lean ====
section
/-! DEFINITION. The requests the cell pool takes: the release of a chain (R55) and the removal of an output's
references (R54). -/

namespace Sys2Proof.Machine

/-- The pool takes a release (R55): without references the cells come back; with references they become RETURNING and
the chain joins the tail of the return list with its reference set (R56). -/
def State.takeRelease (s : State) (chain : List CellNo) : State :=
  let refs := s.pool.chainRefs chain
  if refs = 0 then s.returnCells chain
  else
    let p := s.pool.modifyChain chain (fun cell => { cell with condition := .returning })
    s.setPool { p with returnList := p.returnList ++ [⟨chain, refs⟩] }

/-- CHAIN_RELEASE (R55): the next released chain, if one waits. -/
def execChainRelease (s : State) : Host.Outcome State Fault Refusal :=
  .next (match s.mail.releases with
    | [] => s
    | chain :: rest => (s.setMail { s.mail with releases := rest }).takeRelease chain)

/-- An output leaves the reference set of a released chain on the return list (R54). -/
def ReturningChain.drop (chain : List CellNo) (o : OutputId) (r : ReturningChain) : ReturningChain :=
  if r.chain = chain then { r with refs := OutputMask.remove r.refs o } else r

/-- The pool takes the removal of an output's references from a chain (R54): from OWNED cells the references go; from
a chain on the return list too, and when none is left the chain leaves the list and its cells come back. -/
def State.takeRemoval (s : State) (o : OutputId) (chain : List CellNo) : State :=
  let p := s.pool.dropReference chain o
  match p.returnList.find? (fun r => decide (r.chain = chain)) with
  | none => s.setPool p
  | some r =>
    if OutputMask.remove r.refs o = 0 then
      (s.setPool { p with returnList := p.returnList.filter (fun r => decide (r.chain ≠ chain)) }).returnCells chain
    else s.setPool { p with returnList := p.returnList.map (ReturningChain.drop chain o) }

/-- REFERENCE_REMOVAL (R54): this output's request, if one waits. -/
def execReferenceRemoval (o : OutputId) (s : State) : Host.Outcome State Fault Refusal :=
  .next (match s.mail.removals[o] with
    | none => s
    | some chain => (s.setMail { s.mail with removals := s.mail.removals.set o none }).takeRemoval o chain)

end Sys2Proof.Machine
end

