-- ==== Sys2Proof/Machine/PressEvents.lean ====
section
/-! DEFINITION. The arrivals of the press tracker (chapter 6 sections 6.3 to 6.7): results and notices of the ordered
path in the order sent, its own deadlines, input-change notices, link requests and link-clears. -/

namespace Sys2Proof.Machine

/-- The tracker takes the head of the notice path when `want` answers what to do with it (R94, R100). -/
def State.takeNotice (s : State) (want : Notice → Option (State → State)) : State :=
  match s.mail.path with
  | [] => s
  | n :: rest => match want n with
    | some act => act (s.setMail { s.mail with path := rest })
    | none => s

/-- MATCH_RESULT (R93, R101 to R106). -/
def execMatchResult (s : State) : Host.Outcome State Fault Refusal :=
  .next (s.takeNotice (fun
    | .result m => some (fun s => s.takeMatch m)
    | .entryRetired _ | .entrySuspended _ | .entryDamaged _ | .groupChanged _ => none))

/-- RELEASE_EXPIRY (R107): the press ends RELEASED when the timebase has reached its release deadline. -/
def execReleaseExpiry (r : PressNo) (t : Time) (s : State) : Host.Outcome State Fault Refusal :=
  let s := s.advanceTo t
  .next (if s.releaseDue r then s.endPress r .released else s)

/-- PRESS_LIMIT_EXPIRY (R108): the press ends LIMIT when the timebase has reached its press-limit deadline. -/
def execPressLimitExpiry (r : PressNo) (t : Time) (s : State) : Host.Outcome State Fault Refusal :=
  let s := s.advanceTo t
  .next (if s.limitDue r then s.endPress r .limit else s)

/-- The presses of an entry (R111). -/
def ofEntry (h : Handle) (p : Press) : Bool := decide (p.handle = h)

/-- ENTRY_RETIRED_NOTICE (R111). -/
def execEntryRetiredNotice (s : State) : Host.Outcome State Fault Refusal :=
  .next (s.takeNotice (fun
    | .entryRetired h => some (fun s => s.endPresses (ofEntry h) .retired)
    | .result _ | .entrySuspended _ | .entryDamaged _ | .groupChanged _ => none))

/-- ENTRY_SUSPENDED_NOTICE (R111). -/
def execEntrySuspendedNotice (s : State) : Host.Outcome State Fault Refusal :=
  .next (s.takeNotice (fun
    | .entrySuspended h => some (fun s => s.endPresses (ofEntry h) .suspended)
    | .result _ | .entryRetired _ | .entryDamaged _ | .groupChanged _ => none))

/-- ENTRY_DAMAGED_NOTICE (R111). -/
def execEntryDamagedNotice (s : State) : Host.Outcome State Fault Refusal :=
  .next (s.takeNotice (fun
    | .entryDamaged h => some (fun s => s.endPresses (ofEntry h) .damaged)
    | .result _ | .entryRetired _ | .entrySuspended _ | .groupChanged _ => none))

/-- The presses of a group (R111). -/
def ofPressGroup (g : GroupNo) (p : Press) : Bool := decide (p.group = g)

/-- GROUP_CHANGED_NOTICE (R111). -/
def execGroupChangedNotice (s : State) : Host.Outcome State Fault Refusal :=
  .next (s.takeNotice (fun
    | .groupChanged g => some (fun s => s.endPresses (ofPressGroup g) .groupChanged)
    | .result _ | .entryRetired _ | .entrySuspended _ | .entryDamaged _ => none))

/-- The presses of an input (R112). -/
def ofInput (i : InputId) (p : Press) : Bool := decide (p.input = i)

/-- INPUT_CHANGE_NOTICE (R112). -/
def execInputChangeNotice (s : State) : Host.Outcome State Fault Refusal :=
  .next (match s.mail.inputChanges with
    | [] => s
    | i :: rest => (s.setMail { s.mail with inputChanges := rest }).endPresses (ofInput i) .inputChanged)

/-- LINK_REQUEST (R115). -/
def execLinkRequest (s : State) : Host.Outcome State Fault Refusal :=
  .next (match s.mail.linkRequests with
    | [] => s
    | q :: rest => (s.setMail { s.mail with linkRequests := rest }).takeLinkRequest q)

/-- LINK_CLEAR (R116). -/
def execLinkClear (o : OutputId) (s : State) : Host.Outcome State Fault Refusal :=
  .next (match s.mail.linkClears[o] with
    | [] => s
    | press :: rest =>
      (s.setMail { s.mail with linkClears := s.mail.linkClears.set o rest }).takeLinkClear o press)

end Sys2Proof.Machine
end

