-- ==== Sys2Proof/Machine/RelayEvents.lean ====
section
/-! DEFINITION. The arrivals of the relay unit (chapter 7): press starts and retire notices. -/

namespace Sys2Proof.Machine

/-- PRESS_START (R128 to R130). -/
def execPressStart (s : State) : Host.Outcome State Fault Refusal :=
  .next (match s.mail.pressStarts with
    | [] => s
    | p :: rest => (s.setMail { s.mail with pressStarts := rest }).takePressStart p)

/-- RELAY_RETIRE_NOTICE (R131). -/
def execRelayRetireNotice (s : State) : Host.Outcome State Fault Refusal :=
  .next (match s.mail.retires with
    | [] => s
    | h :: rest => (s.setMail { s.mail with retires := rest }).takeRetire h)

end Sys2Proof.Machine
end

