-- ==== Sys2Proof/Machine/ResetEvents.lean ====
section
/-! DEFINITION. HARDWARE_RESET, MEMORY_TEST_END and INITIALIZE_TABLE_STEP. -/

namespace Sys2Proof.Machine

/-- A frame whose SELECT has fallen when a hardware reset arrives is without effect: it goes on as a void one, with
nothing more to shift out (R159, R178; log entry 30). -/
def SpiFrame.afterReset : SpiFrame → SpiFrame
  | .none => .none
  | .frame f => .frame { f with word := 0, offered := false, void := true }

/-- The part after a hardware reset (R2, R45, R60, R82, R122, R132, R158, R178). The levels of the input pins and the
queue of commands are outside the part (log entries 12, 30). -/
def State.hardwareReset (s : State) : State :=
  { State.reset with
    inputs := s.inputs.map (fun x => Input.resetValue { high := x.line.high, lastRise := none, lastFall := none })
    port := { Port.resetValue with spi := s.port.spi.afterReset }
    pending := s.pending }

/-- HARDWARE_RESET (R45, R60, R178). -/
def execHardwareReset (s : State) : Host.Outcome State Fault Refusal := .next s.hardwareReset

/-- What the memory test leaves in a cell: the values it wrote, which the manual does not name (R59; log entry 11). -/
def testedCell (failing : List CellNo) (c : CellNo) : Cell where
  condition := if failing.contains c then .withheld else .free
  runs := Vector.ofFn (fun pos : Fin 8 => StoredRun.of (Config.memoryTestRun c.val pos.val))
  fault := false
  refs := 0

/-- The pool after a memory test in which the cells `failing` failed (R59, R60). -/
@[irreducible] def testedPool (failing : List CellNo) : Pool where
  cells := Vector.ofFn (testedCell failing)
  freeList := (List.finRange 768).filter (fun c => !failing.contains c)
  returnList := []
  reservation := []

/-- The engine at the end of the memory test: READY and IDLE after a hardware reset (R178), the end of INITIALIZE with
outcome OK otherwise (R177). -/
def State.testEnded (s : State) : State :=
  match s.port.engine with
  | .testing => s.setPort { s.port with ready := true, engine := .idle }
  | .execute task _ => s.endTask task false .ok
  | .idle | .parameter .. | .result .. | .cleanup .. => s

/-- The memory test has run for its 40 ms (R59). -/
def State.testDue (s : State) : Bool :=
  match s.memoryTest with
  | some start => decide (start + Config.memoryTestTime ≤ s.timebase)
  | none => false

/-- The memory test leaves this pool, with or without failing cells: TABLE attention tells of them, each input looks at
its line, and the host port goes on (R59, R81, R177, R178). -/
def State.afterTest (s : State) (p : Pool) (failed : Bool) : State :=
  let s : State := { s with memoryTest := none, pool := p }
  let s := s.raiseTable failed
  let s := (List.finRange 4).foldl (fun s i => s.placeInput i) s
  s.testEnded

/-- The memory test ends (R59, R60, R81, R177, R178). -/
def State.endMemoryTest (s : State) (failing : List CellNo) : State :=
  s.afterTest (testedPool failing) (!failing.isEmpty)

/-- MEMORY_TEST_END (R59): taken when the 40 ms have passed. -/
def execMemoryTestEnd (failing : List CellNo) (t : Time) (s : State) : Host.Outcome State Fault Refusal :=
  let s := s.advanceTo t
  .next (if s.testDue then s.endMemoryTest failing else s)

/-- An output at the INITIALIZE table step (R157): its configuration stays, everything else is cleared. -/
def Output.cleared (x : Output) : Output where
  config := x.config
  state := if x.config.kind = .off then .off else .idle
  queue := []
  toggle := 0
  completion := none
  hostDone := false
  relayRefused := false
  damageSeen := false

/-- Every cell becomes TESTING, without mark or references; the lists and the reservation are emptied (R59). -/
def Pool.startTest (p : Pool) : Pool where
  cells := p.cells.map (fun c => { c with condition := .testing, fault := false, refs := 0 })
  freeList := []
  returnList := []
  reservation := []

/-- The INITIALIZE table step (R46, R59, R81, R96, R121, R132, R157, R167, R177): the code table, the press tracker,
the relay map, the queues and ATTENTION are emptied, every other claim and every message not yet taken goes (log
entry 20), configurations, generations, CONTROL and COLLIDE stay, and the memory test starts. -/
def State.initializeTable (s : State) : State :=
  { s with
    memoryTest := some s.timebase
    entries := s.entries.map (fun e => { e with occupant := .free })
    groups := Vector.replicate 16 none
    bins := Vector.replicate 63 []
    claims := Claims.resetValue
    working := none
    pool := s.pool.startTest
    inputs := s.inputs.map Input.cleared
    tracker := Tracker.resetValue
    relays := Vector.replicate 64 none
    outputs := s.outputs.map Output.cleared
    port := { s.port with attention := Attention.clear }
    mail := Mail.empty }

/-- INITIALIZE_TABLE_STEP (R46, R182). -/
def execInitializeTableStep (s : State) : Host.Outcome State Fault Refusal :=
  .next (s.hostStep .initializeTable (fun _ _ s => s.initializeTable))

end Sys2Proof.Machine
end

