-- ==== Sys2Proof/Machine/Dispatch.lean ====
section
/-! DEFINITION. The meaning of every command: one arm per row of spec/opcode_table.json. -/

namespace Sys2Proof.Machine

/-- The effect of a command on everything but the queue of waiting commands. -/
def exec (i : Instr) (s : State) : Host.Outcome State Fault Refusal :=
  match i with
  | .hardwareReset => Sys2Proof.Machine.execHardwareReset s
  | .memoryTestEnd failing t => Sys2Proof.Machine.execMemoryTestEnd failing t s
  | .flagsRead => Sys2Proof.Machine.execFlagsRead s
  | .transferWrite w => Sys2Proof.Machine.execTransferWrite w s
  | .transferRead => Sys2Proof.Machine.execTransferRead s
  | .abort w => Sys2Proof.Machine.execAbort w s
  | .interruptEnableWrite w => Sys2Proof.Machine.execInterruptEnableWrite w s
  | .ignoredLocationWrite location w => Sys2Proof.Machine.execIgnoredLocationWrite location w s
  | .badCommand code arg => Sys2Proof.Machine.execBadCommand code arg s
  | .transferTimeout t => Sys2Proof.Machine.execTransferTimeout t s
  | .initializeCommand arg => Sys2Proof.Machine.execInitializeCommand arg s
  | .tableStatus arg => Sys2Proof.Machine.execTableStatus arg s
  | .groupDefine arg => Sys2Proof.Machine.execGroupDefine arg s
  | .groupEdit arg => Sys2Proof.Machine.execGroupEdit arg s
  | .groupRemove arg => Sys2Proof.Machine.execGroupRemove arg s
  | .groupRead arg => Sys2Proof.Machine.execGroupRead arg s
  | .entryInstall arg => Sys2Proof.Machine.execEntryInstall arg s
  | .entryEdit arg => Sys2Proof.Machine.execEntryEdit arg s
  | .entrySuspend arg => Sys2Proof.Machine.execEntrySuspend arg s
  | .entryResume arg => Sys2Proof.Machine.execEntryResume arg s
  | .entryRetire arg => Sys2Proof.Machine.execEntryRetire arg s
  | .entryRead arg => Sys2Proof.Machine.execEntryRead arg s
  | .entryFind arg => Sys2Proof.Machine.execEntryFind arg s
  | .entryList arg => Sys2Proof.Machine.execEntryList arg s
  | .inputConfigure part => Sys2Proof.Machine.execInputConfigure part s
  | .inputStatus part => Sys2Proof.Machine.execInputStatus part s
  | .report part => Sys2Proof.Machine.execReport part s
  | .pressRead part => Sys2Proof.Machine.execPressRead part s
  | .pressEnd part => Sys2Proof.Machine.execPressEnd part s
  | .relaySet part => Sys2Proof.Machine.execRelaySet part s
  | .relayClear part => Sys2Proof.Machine.execRelayClear part s
  | .relayRead part => Sys2Proof.Machine.execRelayRead part s
  | .outputConfigure part => Sys2Proof.Machine.execOutputConfigure part s
  | .outputStatus part => Sys2Proof.Machine.execOutputStatus part s
  | .send part => Sys2Proof.Machine.execSend part s
  | .holdStart part => Sys2Proof.Machine.execHoldStart part s
  | .holdEnd part => Sys2Proof.Machine.execHoldEnd part s
  | .outputFlush part => Sys2Proof.Machine.execOutputFlush part s
  | .lookup n => Sys2Proof.Machine.execLookup n s
  | .frameGrant o => Sys2Proof.Machine.execFrameGrant o s
  | .damageNotice o => Sys2Proof.Machine.execDamageNotice o s
  | .installParameterStep => Sys2Proof.Machine.execInstallParameterStep s
  | .parameterPhaseCleanUp => Sys2Proof.Machine.execParameterPhaseCleanUp s
  | .installFinalStep => Sys2Proof.Machine.execInstallFinalStep s
  | .groupParameterStep => Sys2Proof.Machine.execGroupParameterStep s
  | .groupDefineFinalStep => Sys2Proof.Machine.execGroupDefineFinalStep s
  | .groupEditFinalStep => Sys2Proof.Machine.execGroupEditFinalStep s
  | .groupRemoveStep => Sys2Proof.Machine.execGroupRemoveStep s
  | .entryEditStep => Sys2Proof.Machine.execEntryEditStep s
  | .suspend => Sys2Proof.Machine.execSuspend s
  | .resume => Sys2Proof.Machine.execResume s
  | .retire => Sys2Proof.Machine.execRetire s
  | .entryReadStep => Sys2Proof.Machine.execEntryReadStep s
  | .groupReadStep => Sys2Proof.Machine.execGroupReadStep s
  | .entryFindStep => Sys2Proof.Machine.execEntryFindStep s
  | .entryListStep => Sys2Proof.Machine.execEntryListStep s
  | .tableStatusStep => Sys2Proof.Machine.execTableStatusStep s
  | .handleCheck later => Sys2Proof.Machine.execHandleCheck later s
  | .initializeTableStep => Sys2Proof.Machine.execInitializeTableStep s
  | .chainRelease => Sys2Proof.Machine.execChainRelease s
  | .referenceRemoval o => Sys2Proof.Machine.execReferenceRemoval o s
  | .lineTransition n t => Sys2Proof.Machine.execLineTransition n t s
  | .carrierGap n t => Sys2Proof.Machine.execCarrierGap n t s
  | .glitchFloorReached n t => Sys2Proof.Machine.execGlitchFloorReached n t s
  | .stuck n t => Sys2Proof.Machine.execStuck n t s
  | .endGap n t => Sys2Proof.Machine.execEndGap n t s
  | .discardingEndGap n t => Sys2Proof.Machine.execDiscardingEndGap n t s
  | .blankingAsserted n o => Sys2Proof.Machine.execBlankingAsserted n o s
  | .blankingReleased n => Sys2Proof.Machine.execBlankingReleased n s
  | .stickySetRequest n bit => Sys2Proof.Machine.execStickySetRequest n bit s
  | .matchResult => Sys2Proof.Machine.execMatchResult s
  | .releaseExpiry r t => Sys2Proof.Machine.execReleaseExpiry r t s
  | .pressLimitExpiry r t => Sys2Proof.Machine.execPressLimitExpiry r t s
  | .entryRetiredNotice => Sys2Proof.Machine.execEntryRetiredNotice s
  | .entrySuspendedNotice => Sys2Proof.Machine.execEntrySuspendedNotice s
  | .entryDamagedNotice => Sys2Proof.Machine.execEntryDamagedNotice s
  | .groupChangedNotice => Sys2Proof.Machine.execGroupChangedNotice s
  | .inputChangeNotice => Sys2Proof.Machine.execInputChangeNotice s
  | .linkRequest => Sys2Proof.Machine.execLinkRequest s
  | .linkClear o => Sys2Proof.Machine.execLinkClear o s
  | .pressStart => Sys2Proof.Machine.execPressStart s
  | .relayRetireNotice => Sys2Proof.Machine.execRelayRetireNotice s
  | .holdEnded o => Sys2Proof.Machine.execHoldEnded o s
  | .frameEnd o t => Sys2Proof.Machine.execFrameEnd o t s
  | .intervalEnd o t => Sys2Proof.Machine.execIntervalEnd o t s
  | .holdLimit o t => Sys2Proof.Machine.execHoldLimit o t s
  | .spaceEnd o t => Sys2Proof.Machine.execSpaceEnd o t s
  | .frameParityFault o t => Sys2Proof.Machine.execFrameParityFault o t s
  | .capture event => Sys2Proof.Machine.execCapture event s

end Sys2Proof.Machine
end

