-- ==== Sys2Proof/Machine/Step.lean ====
section
/-! DEFINITION. The step of the part: the command at the front of the queue, or one idle microsecond. -/

namespace Sys2Proof.Machine

/-- The state without the commands that wait. -/
def State.withPending (s : State) (q : List Instr) : State := { s with pending := q }

/-- One microsecond passes with no command (log entry 1). -/
def State.idle (s : State) : State := s.advanceTo (s.timebase + 1)

/-- The step: the command at the front of the queue is run on the state with the queue's rest; with an empty queue one
microsecond passes. -/
def step (s : State) : Host.Outcome State Fault Refusal :=
  match s.pending with
  | [] => .next s.idle
  | c :: rest => exec c (s.withPending rest)

/-- The command a word spells is put at the front of the queue; no word spells one (log entry 31). -/
def State.withFetchWord (s : State) (nbits w : Nat) : State :=
  match decodeTableWord nbits w with
  | some c => s.withPending (c :: s.pending)
  | none => s

end Sys2Proof.Machine
end

