-- ==== Sys2Proof/WellFormed.lean ====
section
/-! DEFINITION. Which commands the rows of the table stand for: the operands a row can carry. -/

namespace Sys2Proof

/-- The failing cells of a memory test, each named once and in ascending cell number (R59). -/
def ascendingCells : List CellNo → Bool
  | [] => true
  | [_] => true
  | a :: b :: rest => decide (a < b) && ascendingCells (b :: rest)

/-- A command whose operands fit its row:
* `abort` carries a CONTROL word with bit 15 set, `interruptEnableWrite` one with bit 15 clear (R165, R175);
* `ignoredLocationWrite` names a location 3 to 7 (R161);
* `badCommand` carries a code that names no command (R169, R176);
* `memoryTestEnd` names each failing cell once, in ascending number (R59). -/
def WellFormed : Instr → Bool
  | .abort w => w.getLsbD 15
  | .interruptEnableWrite w => !w.getLsbD 15
  | .ignoredLocationWrite location _ => decide (3 ≤ location.val)
  | .badCommand code _ => (commandOfCode code).isNone
  | .memoryTestEnd failing _ => ascendingCells failing
  | .hardwareReset | .flagsRead | .transferWrite _ | .transferRead | .transferTimeout _
  | .initializeCommand _ | .tableStatus _ | .groupDefine _ | .groupEdit _ | .groupRemove _ | .groupRead _
  | .entryInstall _ | .entryEdit _ | .entrySuspend _ | .entryResume _ | .entryRetire _ | .entryRead _
  | .entryFind _ | .entryList _ | .inputConfigure _ | .inputStatus _ | .report _ | .pressRead _ | .pressEnd _
  | .relaySet _ | .relayClear _ | .relayRead _ | .outputConfigure _ | .outputStatus _ | .send _ | .holdStart _
  | .holdEnd _ | .outputFlush _ | .lookup _ | .frameGrant _ | .damageNotice _ | .installParameterStep
  | .parameterPhaseCleanUp | .installFinalStep | .groupParameterStep | .groupDefineFinalStep
  | .groupEditFinalStep | .groupRemoveStep | .entryEditStep | .suspend | .resume | .retire | .entryReadStep
  | .groupReadStep | .entryFindStep | .entryListStep | .tableStatusStep | .handleCheck _
  | .initializeTableStep | .chainRelease | .referenceRemoval _ | .lineTransition _ _ | .carrierGap _ _
  | .glitchFloorReached _ _ | .stuck _ _ | .endGap _ _ | .discardingEndGap _ _ | .blankingAsserted _ _
  | .blankingReleased _ | .stickySetRequest _ _ | .matchResult | .releaseExpiry _ _ | .pressLimitExpiry _ _
  | .entryRetiredNotice | .entrySuspendedNotice | .entryDamagedNotice | .groupChangedNotice
  | .inputChangeNotice | .linkRequest | .linkClear _ | .pressStart | .relayRetireNotice | .holdEnded _
  | .frameEnd _ _ | .intervalEnd _ _ | .holdLimit _ _ | .spaceEnd _ _ | .frameParityFault _ _
  | .capture _ => true

end Sys2Proof
end

