-- ==== Sys2Proof/Safety.lean ====
section
/-! DEFINITION. The laws of the device: what holds of the part's state between any two steps, in the terms the
statements use. -/

namespace Sys2Proof.Machine

/-- Law 1 of the device (R61): outside a memory test the cells that are FREE, RESERVED, OWNED, RETURNING or WITHHELD
add up to 768. -/
def State.CellLaw (s : State) : Prop :=
  s.memoryTest = none →
    s.pool.count .free + s.pool.count .reserved + s.pool.count .owned + s.pool.count .returning
      + s.pool.count .withheld = 768

/-- Law 3 of the device (R26): no two entries that are LOADING, ACTIVE, SUSPENDED or DAMAGED hold the same key value in
the same group. -/
def State.KeyLaw (s : State) : Prop :=
  ∀ (a b : SlotNo) (g : GroupNo) (key : Word),
    s.entries[a].occupant.holdsKey g key = true → s.entries[b].occupant.holdsKey g key = true → a = b

/-- Law 4 of the device (R101): for every input and group at most one press record is HELD. -/
def State.HeldLaw (s : State) : Prop :=
  ∀ (a b : PressNo) (p q : Press), s.tracker.presses[a] = some p → s.tracker.presses[b] = some q →
    p.isHeld = true → q.isHeld = true → p.input = q.input → p.group = q.group → a = b

/-- Law 5 of the device (R117): a record is on the report list exactly when START or END is pending; it is on the list
at most once; and every ENDED record is on the list. -/
def State.ReportLaw (s : State) : Prop :=
  s.tracker.reportList.Nodup ∧
  (∀ r : PressNo, r ∈ s.tracker.reportList ↔
    ∃ p, s.tracker.presses[r] = some p ∧ (p.startPending = true ∨ p.endPending = true)) ∧
  (∀ (r : PressNo) (p : Press), s.tracker.presses[r] = some p → p.isEnded = true → p.endPending = true)

/-- The first part of law 6 of the device (R124): at most one relay record that is not EMPTY names any one source. -/
def State.RelayLaw (s : State) : Prop :=
  ∀ (a b : RelayNo) (p q : RelayRecord), s.relays[a] = some p → s.relays[b] = some q → p.source = q.source → a = b

/-- The second part of law 6 of the device (R124): the source of a relay record that is not EMPTY is current, unless the
relay unit has yet to take the notice of its retire. -/
def State.SourceLaw (s : State) : Prop :=
  ∀ (n : RelayNo) (r : RelayRecord), s.relays[n] = some r →
    (s.currentEntry r.source).isSome = true ∨ r.source ∈ s.mail.retires

/-- Once its handle check has been served, both handles of a RELAY SET are current until the relay unit takes it
(R125). -/
def State.RelaySetLaw (s : State) : Prop :=
  ∀ task held, s.port.engine = .execute task held → task.command = .relaySet → s.claims.host = none →
    (s.currentWord (task.word 0)).isSome = true ∧ (s.currentWord (task.word 1)).isSome = true

/-- Law 7 of the device (R138), with what R134 says of each state: at most 8 items, none but the head ACTIVE; an output
is OFF exactly when its kind is; OFF and IDLE hold no item; the head is ACTIVE in GRANT, FRAME and INTERVAL and is not
in SPACE. -/
def Output.QueueLaw (x : Output) : Prop :=
  x.queue.length ≤ 8 ∧ (∀ item ∈ x.queue.tail, item.active = none) ∧ (x.config.kind = .off ↔ x.state = .off) ∧
  match x.state with
  | .off | .idle => x.queue = []
  | .grant | .frame _ | .interval _ => x.activeItem.isSome = true
  | .space _ => x.activeItem = none

/-- Law 7 on both outputs. -/
def State.QueueLaw (s : State) : Prop := ∀ o : OutputId, s.outputs[o].QueueLaw

/-- Law 10 of the device (R168): a word is awaited or offered only while a command is in progress, and it is offered
only while it is requested. -/
def State.RequestLaw (s : State) : Prop :=
  (s.port.engine.xreq = true → s.port.engine.busy = true) ∧ (s.port.engine.xdir = true → s.port.engine.xreq = true)

/-- Law 9 of the device (R20): a DEFINED group's entry count is the number of its installed entries, and every
installed entry names a DEFINED group. -/
def State.CountLaw (s : State) : Prop :=
  (∀ (g : GroupNo) (group : Group), s.groups[g] = some group → group.entryCount = (s.slotsOfGroup g).length) ∧
  (∀ (slot : SlotNo) (e : Installed), s.installedAt slot = some e → s.groups[e.group].isSome = true)

/-- Law 12 of the device (R62): a cell that carries an output reference is OWNED or RETURNING. -/
def State.ReferenceLaw (s : State) : Prop :=
  ∀ c : CellNo, s.pool.cells[c].refs ≠ 0 →
    s.pool.cells[c].condition = .owned ∨ s.pool.cells[c].condition = .returning

/-- Law 8 of the device (R21): a bin holds each pattern at most once, and it holds exactly the patterns of its run
count of the ACTIVE entries and of the DEFINED groups whose REPEAT_DAMAGED is clear. -/
def State.BinLaw (s : State) : Prop :=
  ∀ n : Nat, (s.binList n).Nodup ∧
    (∀ (slot : SlotNo) (v : Variant), .frame slot v ∈ s.binList n ↔
      ∃ e, s.installedAt slot = some e ∧ e.status = .active ∧ e.runCount = n ∧ (binOf n).isSome = true ∧
        (e.chainOf v).isSome = true) ∧
    (∀ g : GroupNo, .ofGroup g ∈ s.binList n ↔
      ∃ group p, s.groups[g] = some group ∧ group.repeatPattern = some p ∧ group.repeatDamaged = false ∧
        p.runCount = n ∧ (binOf n).isSome = true)

/-- Two stored patterns conflict by their stored runs and their owners' settings (R13): equal run counts, a common
input, and windows that intersect at every index, an unreadable run counting as intersecting (R27). -/
def State.conflicts (s : State) (p q : Contender) : Prop :=
  p.runCount = q.runCount ∧ p.inputMask &&& q.inputMask ≠ 0 ∧
  ∀ k, 1 ≤ k → k ≤ p.runCount → ∀ a b, s.pool.readRun p.chain k = .value a → s.pool.readRun q.chain k = .value b →
    windowsIntersect p.tolerance a q.tolerance b = true

/-- The one claim of the HOST position belongs to the command in progress and to its phase (R22, R168): a step of
EXECUTE, a parameter step, or the clean-up. -/
def State.HostClaimLaw (s : State) : Prop :=
  ∀ h, s.claims.host = some h →
    (∃ task held, s.port.engine = .execute task held ∧ executeStep task.command = some h) ∨
    (∃ task held, s.port.engine = .parameter task (.step held) ∧ h = parameterStep task.command) ∨
    (∃ task outcome, s.port.engine = .cleanup task outcome ∧ h = .cleanUp)

/-- During the memory test no table step of the host waits, and the host port is either still waiting for READY after a
hardware reset or executing INITIALIZE (R162, R177, R178). -/
def State.TestLaw (s : State) : Prop :=
  s.memoryTest.isSome = true → s.claims.host = none ∧
    (s.port.engine = .testing ∧ s.port.ready = false ∨
      ∃ task held, s.port.engine = .execute task held ∧ task.command = .initializePart)

/-- What the command in progress has made sure of in its parameter step (R28, R35): the group of a GROUP DEFINE with a
repeat pattern is UNDEFINED until the final step; a slot is LOADING only for the one ENTRY INSTALL between its parameter
step and its final step or clean-up, whose group is DEFINED and whose cells are reserved. -/
def State.WorkLaw (s : State) : Prop :=
  (∀ task, ((∃ since, s.port.engine = .parameter task (.word since)) ∧ 7 ≤ task.words.length ∨
      ∃ held, s.port.engine = .execute task held) →
    task.command = .groupDefine → repeatChoice (task.word 0) = 1 → s.groups[argGroup task.arg] = none) ∧
  (∀ task held, s.port.engine = .parameter task (.step held) → task.command = .entryInstall →
    3 ≤ task.words.length) ∧
  (∀ (slot : SlotNo) (l : Loading), s.entries[slot].occupant = .loading l →
    s.groups[l.group].isSome = true ∧
    (∀ (other : SlotNo) (k : Loading), s.entries[other].occupant = .loading k → other = slot) ∧
    ∃ task, task.command = .entryInstall ∧
      ((∃ since, s.port.engine = .parameter task (.word since) ∧ 3 ≤ task.words.length ∧ s.pool.reservation ≠ []) ∨
        (∃ held, s.port.engine = .execute task held) ∨ ∃ outcome, s.port.engine = .cleanup task outcome))

/-- The chain of a stored pattern, if the pattern stands (R16, R19). -/
def State.storedChain (s : State) : PatternRef → Option (List CellNo)
  | .frame slot v => (s.installedAt slot).bind (fun e => e.chainOf v)
  | .ofGroup g => s.groups[g].bind (fun group => group.repeatPattern.map Pattern.chain)

/-- A list of cells holds each at most once, and all are in this condition. -/
def State.CellsIn (s : State) (cells : List CellNo) (condition : CellCondition) : Prop :=
  cells.Nodup ∧ ∀ c ∈ cells, s.pool.cells[c].condition = condition

/-- Every cell stands in at most one place, and its condition says in which (R47, R49 to R51, R55, R56): the free list,
the reservation, the chain of one stored pattern, a release the pool has not taken, or the return list. During a memory
test every cell is TESTING (R59). -/
structure State.PlaceLaw (s : State) : Prop where
  free : s.CellsIn s.pool.freeList .free
  reserved : s.CellsIn s.pool.reservation .reserved
  returning : s.CellsIn (s.pool.returnList.flatMap ReturningChain.chain) .returning
  released : s.CellsIn s.mail.releases.flatten .owned
  stored : ∀ ref chain, s.storedChain ref = some chain → s.CellsIn chain .owned
  apart : ∀ ref ref' chain chain' c, s.storedChain ref = some chain → s.storedChain ref' = some chain' →
    c ∈ chain → c ∈ chain' → ref = ref'
  kept : ∀ ref chain, s.storedChain ref = some chain → ∀ c ∈ chain, c ∉ s.mail.releases.flatten
  testing : s.memoryTest.isSome = true → ∀ c : CellNo, s.pool.cells[c].condition = .testing

/-- The duration stored at run `k` of a chain, readable or not (R48). -/
def State.storedRun (s : State) (chain : List CellNo) (k : Nat) : Option Nat :=
  (runPlace chain k).map (fun place => s.pool.cells[place.1].runs[place.2].value.toNat)

/-- Law 2 of the device (R13, R27): no two stored patterns of installed entries and DEFINED groups conflict by their
stored runs: where they have the same run count and a common input, some index has windows that do not intersect. -/
def State.ConflictLaw (s : State) : Prop :=
  ∀ (r q : PatternRef) (c d : Contender), r ≠ q → s.contenderOf r = some c → s.contenderOf q = some d →
    c.runCount = d.runCount → c.inputMask &&& d.inputMask ≠ 0 →
    ∃ k a b, 1 ≤ k ∧ k ≤ c.runCount ∧ s.storedRun c.chain k = some a ∧ s.storedRun d.chain k = some b ∧
      windowsIntersect c.tolerance a d.tolerance b = false

/-- A safe state: the laws of the device that every step keeps hold of it. -/
def State.Safe (s : State) : Prop :=
  s.CellLaw ∧ s.ConflictLaw ∧ s.KeyLaw ∧ s.HeldLaw ∧ s.ReportLaw ∧ s.RelayLaw ∧ s.SourceLaw ∧ s.QueueLaw ∧ s.BinLaw ∧
    s.CountLaw ∧ s.RequestLaw ∧ s.ReferenceLaw ∧ s.HostClaimLaw ∧ s.TestLaw ∧ s.WorkLaw ∧ s.RelaySetLaw ∧ s.PlaceLaw

/-! ## Situations that the statements name -/

/-- The claims after the table step of the host has been served (R23). -/
abbrev State.hostServed (s : State) : Claims := { s.claims with host := none, last := .host }

/-- A table step of the command in EXECUTE waits at the HOST position and has its turn. -/
abbrev State.AtStep (s : State) (h : HostStep) (task : Task) (held : Bool) : Prop :=
  s.claims.host = some h ∧ s.turnOf .host = true ∧ s.port.engine = .execute task held

/-- A parameter step of the command in PARAMETER waits at the HOST position and has its turn. -/
abbrev State.AtParameterStep (s : State) (h : HostStep) (task : Task) (held : Bool) : Prop :=
  s.claims.host = some h ∧ s.turnOf .host = true ∧ s.port.engine = .parameter task (.step held)

/-- A block can take the request of the command in EXECUTE: no table step of it waits. -/
abbrev State.AtRequest (s : State) (c : HostCommand) (task : Task) (held : Bool) : Prop :=
  s.port.engine = .execute task held ∧ task.command = c ∧ s.claims.host = none

/-- An item that the host placed (R135). -/
def Item.fromHost (item : Item) : Bool :=
  match item.origin with
  | .host _ => true
  | .relay _ => false

/-- The frame end of this address byte and data word is not that of a frame a hardware reset has made void (R159,
R178). -/
abbrev State.FrameStands (s : State) (address : BitVec 8) (w : Word) : Prop :=
  ∀ f, s.port.spi = .frame f → f.fits address w = true → f.void = false

/-- The SPI frame in progress has had its capture with this address byte, has had no more than 24 clocks, and is not
void (R159, R160). -/
abbrev State.Captured (s : State) (address : BitVec 8) (f : SpiShift) : Prop :=
  s.port.spi = .frame f ∧ f.address = address ∧ 8 ≤ f.clocks ∧ f.clocks ≤ 24 ∧ f.void = false

end Sys2Proof.Machine
end

