-- ==== Sys2Proof/Certificates/Slice0/Obligations.lean ====
section
/-! DEFINITION. The statements for the provers. A statement about a step of the table controller is made on the state
in which its claim has its turn, the releases of the operation before it taken (log entry 8: the model's choice);
`finish`, which ends a step, has its own statement `LastStepEndsTheCommand`. -/

open Sys2Proof Sys2Proof.Machine

/-! ## The machine as a whole -/

/-- The step runs the command at the front of the queue on the state with the queue's rest. The queue of commands is log
entry 31 (the model's choice); that a step is whole and indivisible is the manual's. -/
def Obligations.StepRunsTheFrontCommand : Prop :=
  ∀ (c : Instr) (rest : List Instr) (s : State), s.pending = c :: rest → step s = exec c { s with pending := rest }

/-- With an empty queue one microsecond passes (log entry 1: the model's choice). -/
def Clause.idleStep : Prop :=
  ∀ s : State, s.pending = [] → step s = .next (s.advanceTo (s.timebase + 1))

/-- The timebase reaches a time, unless it has passed it: an output that drives no frame, and one whose run is not over,
is left as it is, and one whose run is over drives the next, which lasts its stored duration (R2, R143; log entries 1
and 23: the model's choice). -/
def Clause.timePasses : Prop :=
  ∀ (s : State) (t : Time),
    let now := max s.timebase t
    let u := s.advanceTo t
    u = { s with timebase := now, outputs := u.outputs } ∧
      ∀ o : OutputId,
        (∀ f, s.outputs[o].state = .frame f →
          (∀ d, f.run < f.runCount → f.runEnd ≤ now → s.pool.readRun f.chain (f.run + 1) = .value d →
            now < f.runEnd + d →
            u.outputs[o] = { s.outputs[o] with
              state := .frame { f with run := f.run + 1, runStart := f.runEnd, runEnd := f.runEnd + d } }) ∧
          (now < f.runEnd ∨ f.run = f.runCount → u.outputs[o] = s.outputs[o])) ∧
        ((∀ f, s.outputs[o].state ≠ .frame f) → u.outputs[o] = s.outputs[o])

/-- What a hardware reset leaves, block by block (R2, R45, R60, R82, R122, R132, R158, R178). The level of an output
pin is the derived one of log entry 25. -/
def Clause.resetValues : Prop :=
  let r := State.reset
  r.timebase = 0 ∧ r.memoryTest.isSome = true ∧
  (∀ slot : SlotNo, r.entries[slot] = { generation := 0, occupant := .free }) ∧ (∀ g : GroupNo, r.groups[g] = none) ∧
  (∀ b : Fin 63, r.bins[b] = []) ∧ (∀ p : Position, r.claims.waiting p = false) ∧ r.claims.last = .host ∧
  r.working = none ∧
  (∀ c : CellNo, r.pool.cells[c].condition = .testing ∧ r.pool.cells[c].fault = false ∧ r.pool.cells[c].refs = 0) ∧
  r.pool.freeList = [] ∧ r.pool.returnList = [] ∧ r.pool.reservation = [] ∧
  (∀ i : InputId, r.inputs[i].assembler = .off ∧ r.inputs[i].held = none ∧ r.inputs[i].sticky = InputSticky.clear ∧
    r.inputs[i].config = { kind := .off, polarity := .activeLow, endGap := 10, glitchFloor := 24, blankMask := 0 }) ∧
  (∀ p : PressNo, r.tracker.presses[p] = none) ∧ r.tracker.reportList = [] ∧ r.tracker.sequence = 0 ∧
  (∀ n : RelayNo, r.relays[n] = none) ∧
  (∀ o : OutputId, r.outputs[o].state = .off ∧ r.outputs[o].queue = [] ∧ r.outputs[o].toggle = 0 ∧
    r.outputs[o].completion = none ∧ r.outputs[o].hostDone = false ∧ r.outputs[o].relayRefused = false ∧
    r.outputs[o].damageSeen = false ∧
    r.outputs[o].config = { kind := .off, polarity := .activeLow, minItemSpace := 15, holdLimit := 12 } ∧
    ∀ sub, r.txLevel o sub = true) ∧
  r.port.engine = .testing ∧ (∀ location, r.readLocation location = 0) ∧ r.intLow = false

/-- The state after reset meets laws 1 to 10 and 12 of the device, and the laws of the host's claim, of the memory test,
of the command in progress, of a RELAY SET on its way and of the places of the cells. -/
def Obligations.ResetIsSafe : Prop := State.reset.Safe

/-- HARDWARE_RESET leaves the part as `State.reset` is, but for what stands outside it: the levels of the input pins and
the queue of commands (log entry 30: the model's choice). A frame whose SELECT has fallen becomes void (R159, R178). -/
def Clause.hardwareReset : Prop :=
  ∀ s : State, ∃ t, exec .hardwareReset s = .next t ∧
    t = { State.reset with inputs := t.inputs, port := t.port, pending := s.pending } ∧
    (∀ i : InputId, t.inputs[i] =
      { State.reset.inputs[i] with line := { high := s.inputs[i].line.high, lastRise := none, lastFall := none } }) ∧
    t.port = { State.reset.port with spi := t.port.spi } ∧
    (s.port.spi = .none → t.port.spi = .none) ∧
    (∀ f, s.port.spi = .frame f → t.port.spi = .frame { f with word := 0, offered := false, void := true })

/-- A hardware reset, as the state after it and as the row HARDWARE_RESET. -/
def Obligations.ResetLeavesTheStatedValues : Prop :=
  Clause.resetValues ∧ Clause.hardwareReset

/-- MEMORY_TEST_END after its 40 ms: the passing cells are FREE in ascending order, the
failing ones WITHHELD, TABLE attention tells of them, each input looks at its line, and the port becomes ready, or
INITIALIZE ends OK. What the test leaves in the runs is a free
value (log entry 11), and the 70 us of a quiet CARRIER line are those of log entry 17 (the model's choice). -/
def Clause.testEnds : Prop :=
  ∀ (failing : List CellNo) (t : Time) (s : State) (start : Time),
    s.memoryTest = some start → start + 40000 ≤ max s.timebase t →
    ∃ u, exec (.memoryTestEnd failing t) s = .next u ∧
      u = { s.advanceTo t with memoryTest := none, pool := u.pool, inputs := u.inputs, port := u.port } ∧
      (∀ c : CellNo, u.pool.cells[c].condition = (if c ∈ failing then .withheld else .free) ∧
        u.pool.cells[c].fault = false ∧ u.pool.cells[c].refs = 0) ∧
      (∀ c : CellNo, c ∈ u.pool.freeList ↔ c ∉ failing) ∧ u.pool.freeList.Pairwise (· < ·) ∧
      u.pool.returnList = [] ∧ u.pool.reservation = [] ∧
      u.port.attention =
        { s.port.attention with table := s.port.attention.table || decide (failing ≠ []) } ∧
      (∀ i : InputId, u.inputs[i] = { s.inputs[i] with assembler := u.inputs[i].assembler, raw := u.inputs[i].raw } ∧
        (s.inputs[i].config.kind = .off → u.inputs[i].assembler = .off) ∧
        (s.inputs[i].config.kind ≠ .off →
          ((s.advanceTo t).blankedBy s.inputs[i].config.blankMask = true → u.inputs[i].assembler = .blanked) ∧
          ((s.advanceTo t).blankedBy s.inputs[i].config.blankMask = false →
            u.inputs[i] = s.inputs[i].resume (max s.timebase t) ∧
            u.inputs[i].assembler =
              if lineQuiet s.inputs[i].config s.inputs[i].line (max s.timebase t) then .waiting none
              else .discarding { spaceSince := none, tentative := none, untilQuiet := true }))) ∧
      (s.port.engine = .testing →
        u.port = { s.port with attention := u.port.attention, ready := true, engine := .idle }) ∧
      (∀ task held, s.port.engine = .execute task held →
        u.port = { s.port with
          attention := u.port.attention, engine := .idle, done := true
          completion := { code := task.command.code, cut := false, outcome := .ok } })

/-- Before the 40 ms have passed, and where no memory test runs, MEMORY_TEST_END changes nothing but the time (R59; log
entry 2: the model's choice). -/
def Clause.testGoesOn : Prop :=
  ∀ (failing : List CellNo) (t : Time) (s : State),
    (∀ start, s.memoryTest = some start → max s.timebase t < start + 40000) →
    exec (.memoryTestEnd failing t) s = .next (s.advanceTo t)

/-- MEMORY_TEST_END (R59, R60, R81, R177, R178). -/
def Obligations.MemoryTestEndFreesThePassingCells : Prop :=
  Clause.testEnds ∧ Clause.testGoesOn

/-! ## Laws that every step keeps -/

/-- Law 7 with what holds in each output state: every step keeps the send queues and the output states in order. -/
def Obligations.StepKeepsQueueLaw : Prop :=
  ∀ s t : State, s.QueueLaw → step s = .next t → t.QueueLaw

/-- Law 5 of the device: every step keeps the report list in order. -/
def Obligations.StepKeepsReportLaw : Prop :=
  ∀ s t : State, s.ReportLaw → step s = .next t → t.ReportLaw

/-- Law 4 of the device: every step keeps at most one HELD record for each input and group. -/
def Obligations.StepKeepsHeldLaw : Prop :=
  ∀ s t : State, s.HeldLaw → step s = .next t → t.HeldLaw

/-- Law 6 of the device (R124): every step keeps the sources of the relay records apart; and it keeps each of them
current until the relay unit takes the notice of its retire, with what the handle check has made sure of for a RELAY SET
on its way. -/
def Obligations.StepKeepsRelayLaw : Prop :=
  ∀ s t : State, step s = .next t →
    (s.RelayLaw → t.RelayLaw) ∧
    (s.HostClaimLaw → s.SourceLaw → s.RelaySetLaw → t.SourceLaw ∧ t.RelaySetLaw)

/-- Laws 3, 8 and 9 of the device: every step keeps the key values of a group apart; and with what the command in
progress has made sure of, which every step keeps too, the bins hold exactly the patterns that may be matched, and the
entry counts count the entries. -/
def Obligations.StepKeepsKeyLaw : Prop :=
  ∀ s t : State, step s = .next t →
    (s.KeyLaw → t.KeyLaw) ∧
    (s.HostClaimLaw → s.TestLaw → s.WorkLaw →
      t.WorkLaw ∧ (s.BinLaw → t.BinLaw) ∧ (s.CountLaw → t.CountLaw))

/-- Laws 1 and 12 of the device: every step keeps the five counts of cells at 768 outside a memory test; it keeps every
cell in the one place its condition names, and with it output references on OWNED and RETURNING cells alone. -/
def Obligations.StepKeepsCellLaw : Prop :=
  ∀ s t : State, step s = .next t →
    (s.CellLaw → t.CellLaw) ∧
    (s.HostClaimLaw → s.TestLaw → s.WorkLaw → s.PlaceLaw →
      t.PlaceLaw ∧ (s.ReferenceLaw → t.ReferenceLaw))

/-- Law 10 of the device and the one claim of the host (R22, R168), with what the host port does during a memory test:
every step keeps them. -/
def Obligations.StepKeepsHostClaimLaw : Prop :=
  ∀ s t : State, s.HostClaimLaw → s.TestLaw → step s = .next t → t.HostClaimLaw ∧ t.TestLaw ∧ t.RequestLaw

/-- Law 11 of the device (R139, R141, R142): an output enters FRAME only at its served frame grant, for an item whose
handle is current and whose entry is not DAMAGED, and never with a repeat pattern under REPEAT_DAMAGED. It sends the
entry's pattern of the item's variant as stored, or, in a later frame, its group's repeat pattern. -/
def Obligations.FramesStartOnlyFromFitPatterns : Prop :=
  ∀ (c : Instr) (s t : State) (o : OutputId) (f : Frame), exec c s = .next t →
    (∀ g, s.outputs[o].state ≠ .frame g) → t.outputs[o].state = .frame f →
    c = .frameGrant o ∧ s.claims.output[o] = some .frameGrant ∧
    ∃ item a rest e, s.outputs[o].activeItem = some (item, a, rest) ∧ s.currentEntry item.handle = some e ∧
      e.status ≠ .damaged ∧
      ((f.sent = .frame a.variant ∧ f.runCount = e.runCount ∧
          ∀ chain, e.chainOf a.variant = some chain → f.chain = chain) ∨
        ∃ group p, f.sent = .repeatOf e.group ∧ s.groups[e.group] = some group ∧ group.repeatPattern = some p ∧
          group.repeatDamaged = false ∧ f.chain = p.chain ∧ f.runCount = p.runCount ∧ 0 < a.framesSent)

/-- The generation of a slot changes only at an install's final step and at a hardware reset (R17). -/
def Clause.generationsChange : Prop :=
  ∀ (c : Instr) (s t : State) (slot : SlotNo), exec c s = .next t →
    c ≠ .hardwareReset → c ≠ .installFinalStep → t.entries[slot].generation = s.entries[slot].generation

/-- The commands that are served claims of the table controller (R22, R24), and the hardware reset. -/
def servesClaim : Instr → Bool
  | .hardwareReset | .lookup _ | .frameGrant _ | .damageNotice _ | .installParameterStep | .parameterPhaseCleanUp
  | .installFinalStep | .groupParameterStep | .groupDefineFinalStep | .groupEditFinalStep | .groupRemoveStep
  | .entryEditStep | .suspend | .resume | .retire | .entryReadStep | .groupReadStep | .entryFindStep
  | .entryListStep | .tableStatusStep | .handleCheck _ | .initializeTableStep => true
  | _ => false

/-- The table records and the bins change only inside served claims (R23). -/
def Clause.tableChanges : Prop :=
  ∀ (c : Instr) (s t : State), exec c s = .next t → servesClaim c = false →
    t.entries = s.entries ∧ t.groups = s.groups ∧ t.bins = s.bins

/-- The table records, the bins and the generations change only where the manual says (R17, R23). -/
def Obligations.TableChangesOnlyWhereServed : Prop :=
  Clause.generationsChange ∧ Clause.tableChanges

/-- The timebase never falls back but at a hardware reset (R2). -/
def Clause.timebaseFalls : Prop :=
  ∀ (c : Instr) (s t : State), exec c s = .next t → c ≠ .hardwareReset → s.timebase ≤ t.timebase

/-- The timebase: an idle step is one microsecond, and only a hardware reset sets the count back (R2). -/
def Obligations.TimeAdvancesOnly : Prop :=
  Clause.idleStep ∧ Clause.timePasses ∧ Clause.timebaseFalls

/-- The frame a well-formed host row ends spells that row: location, command code and data word read back as written; and
a write frame that spells a row is the frame of that row, which is well-formed. -/
def Obligations.FramesSpellTheirCommands : Prop :=
  (∀ (i : Instr) (address : BitVec 8) (w : Word), WellFormed i = true → encodeFrame i = some (address, w) →
    decodeFrame address w = some i) ∧
  (∀ (address : BitVec 8) (w : Word) (i : Instr), decodeFrame address w = some i → address.getLsbD 7 = false →
    encodeFrame i = some (address, w) ∧ WellFormed i = true)

/-- The rotation serves the first position that holds a waiting claim, starting after the last one served, in the order
IN0 to IN3, TX0, TX1, HOST (R22, R23). -/
def Clause.rotation : Prop :=
  (∀ (c : Claims) (p : Position),
    c.nextServed = some p ↔
      c.waiting p = true ∧
        ∀ q, c.waiting q = true → (p.rank + 6 - c.last.rank) % 7 ≤ (q.rank + 6 - c.last.rank) % 7) ∧
  (∀ i : InputId, (Position.input i).rank = i.val) ∧ (∀ o : OutputId, (Position.output o).rank = 4 + o.val) ∧
  Position.host.rank = 6

/-- Which claims wait at a position, and when it has its turn: next in rotation, with the releases of the operation
before taken (log entry 8: the model's choice) (R22, R23). -/
def Clause.turns : Prop :=
  ∀ s : State,
    (∀ i : InputId, s.claims.waiting (.input i) = s.claims.lookup[i]) ∧
    (∀ o : OutputId, s.claims.waiting (.output o) = s.claims.output[o].isSome) ∧
    s.claims.waiting .host = s.claims.host.isSome ∧
    ∀ p, s.turnOf p = true ↔ s.claims.nextServed = some p ∧ s.mail.releases = []

/-- A lookup, a damage notice and a table step of the host change nothing while their claim does not wait or has not its
turn, so that the table changes only in a claim that is served in its turn (R22, R23; log entries 2 and 8: the model's
choice). -/
def Clause.claimsWaitForTheirTurn : Prop :=
  ∀ s : State,
    (∀ i : InputId, s.claims.lookup[i] = false ∨ s.turnOf (.input i) = false → exec (.lookup i) s = .next s) ∧
    (∀ o : OutputId, (∀ d, s.claims.output[o] ≠ some (.damage d)) ∨ s.turnOf (.output o) = false →
      exec (.damageNotice o) s = .next s) ∧
    ∀ (i : Instr) (h : HostStep), (i, h) ∈
      ([(.installParameterStep, .installParameter), (.parameterPhaseCleanUp, .cleanUp), (.installFinalStep, .installFinal),
        (.groupParameterStep, .groupParameter), (.groupDefineFinalStep, .groupDefineFinal),
        (.groupEditFinalStep, .groupEditFinal), (.groupRemoveStep, .groupRemove), (.entryEditStep, .entryEdit),
        (.suspend, .suspend), (.resume, .resume), (.retire, .retire), (.entryReadStep, .entryRead),
        (.groupReadStep, .groupRead), (.entryFindStep, .entryFind), (.entryListStep, .entryList),
        (.tableStatusStep, .tableStatus), (.handleCheck true, .handleCheck), (.handleCheck false, .handleCheck),
        (.initializeTableStep, .initializeTable)] : List (Instr × HostStep)) →
      s.claims.host ≠ some h ∨ s.turnOf .host = false → exec i s = .next s

/-- A message that is not there, or not at the head of the ordered path, and a request of no command in EXECUTE change
nothing (R94, R171; log entry 2: the model's choice). -/
def Clause.absentMessages : Prop :=
  ∀ s : State,
    ((∀ m, s.mail.path.head? ≠ some (.result m)) → exec .matchResult s = .next s) ∧
    ((∀ h, s.mail.path.head? ≠ some (.entryRetired h)) → exec .entryRetiredNotice s = .next s) ∧
    ((∀ h, s.mail.path.head? ≠ some (.entrySuspended h)) → exec .entrySuspendedNotice s = .next s) ∧
    ((∀ h, s.mail.path.head? ≠ some (.entryDamaged h)) → exec .entryDamagedNotice s = .next s) ∧
    ((∀ g, s.mail.path.head? ≠ some (.groupChanged g)) → exec .groupChangedNotice s = .next s) ∧
    (s.mail.inputChanges = [] → exec .inputChangeNotice s = .next s) ∧
    (s.mail.linkRequests = [] → exec .linkRequest s = .next s) ∧
    (s.mail.pressStarts = [] → exec .pressStart s = .next s) ∧
    (s.mail.retires = [] → exec .relayRetireNotice s = .next s) ∧
    (s.mail.releases = [] → exec .chainRelease s = .next s) ∧
    (∀ o : OutputId, (s.mail.linkClears[o] = [] → exec (.linkClear o) s = .next s) ∧
      (s.mail.holdEnded[o] = [] → exec (.holdEnded o) s = .next s) ∧
      (s.mail.removals[o] = none → exec (.referenceRemoval o) s = .next s)) ∧
    (∀ (i : InputId) (bit : RequestedBit), bit ∉ s.mail.sticky[i] → exec (.stickySetRequest i bit) s = .next s) ∧
    ∀ (i : Instr) (c : HostCommand), (i, c) ∈
      ([(.inputConfigure .request, .inputConfigure), (.inputStatus .request, .inputStatus), (.report .request, .report),
        (.pressRead .request, .pressRead), (.pressEnd .request, .pressEnd), (.relaySet .request, .relaySet),
        (.relayClear .request, .relayClear), (.relayRead .request, .relayRead),
        (.outputConfigure .request, .outputConfigure), (.outputStatus .request, .outputStatus), (.send .request, .send),
        (.holdStart .request, .holdStart), (.holdEnd .request, .holdEnd), (.outputFlush .request, .outputFlush)] :
        List (Instr × HostCommand)) →
      (∀ task held, ¬s.AtRequest c task held) → exec i s = .next s

/-- The claim that is served next, and what changes nothing before its time (R22, R23). -/
def Obligations.RotationServesTheNextWaiting : Prop :=
  Clause.rotation ∧ Clause.turns ∧ Clause.claimsWaitForTheirTurn ∧ Clause.absentMessages

/-! ## The host port -/

/-- FLAGS, ATTENTION, COMPLETION and CONTROL show their fields at their places (R161). -/
def Clause.statusWords : Prop :=
  ∀ s : State,
    (s.flagsWord.getLsbD 15 = s.port.ready ∧ s.flagsWord.getLsbD 14 = s.port.engine.busy ∧
      s.flagsWord.getLsbD 13 = s.port.engine.xreq ∧ s.flagsWord.getLsbD 12 = s.port.engine.xdir ∧
      s.flagsWord.getLsbD 11 = s.port.done ∧ s.flagsWord.getLsbD 10 = s.port.fault ∧
      s.flagsWord.getLsbD 9 = s.port.collide ∧ s.flagsWord.getLsbD 8 = !s.tracker.reportList.isEmpty ∧
      s.flagsWord.getLsbD 7 = decide (s.port.attention.word ≠ 0) ∧ s.flagsWord.extractLsb' 0 7 = 0#7) ∧
    ((∀ i : InputId, s.port.attention.word.getLsbD i.val = s.port.attention.input[i]) ∧
      (∀ o : OutputId, s.port.attention.word.getLsbD (4 + o.val) = s.port.attention.output[o]) ∧
      s.port.attention.word.getLsbD 6 = s.port.attention.table ∧ s.port.attention.word.extractLsb' 7 9 = 0#9) ∧
    (s.port.completion.word.extractLsb' 8 8 = s.port.completion.code ∧
      s.port.completion.word.getLsbD 7 = s.port.completion.cut ∧ s.port.completion.word.getLsbD 6 = false ∧
      (s.port.completion.word.extractLsb' 0 6).toNat = s.port.completion.outcome.code) ∧
    s.controlWord.extractLsb' 0 4 = s.port.enables ∧ s.controlWord.extractLsb' 4 12 = 0#12

/-- BUSY, XREQ and XDIR in each state of the command engine (R162, R168): PARAMETER requests a word but while its step
waits or is in service, and RESULT offers one. -/
def Clause.engineStates : Prop :=
  let row := fun (e : Engine) => (e.busy, e.xreq, e.xdir)
  row .testing = (false, false, false) ∧ row .idle = (false, false, false) ∧
  ∀ (task : Task) (since : Time) (held : Bool) (outcome : HostOutcome) (offered : Word) (rest : List Word),
    row (.parameter task (.word since)) = (true, true, false) ∧ row (.parameter task (.step held)) = (true, false, false) ∧
    row (.execute task held) = (true, false, false) ∧ row (.result task outcome offered rest since) = (true, true, true) ∧
    row (.cleanup task outcome) = (true, false, false)

/-- A handle word names an entry exactly when it is the word of the handle of an installed entry (R17, R180). -/
def Clause.handleWords : Prop :=
  ∀ (s : State) (w : Word) (h : Handle) (e : Installed),
    s.currentWord w = some (h, e) ↔
      w.toNat = h.gen.val * 256 + h.slot.val ∧ h.gen ≠ 0 ∧
        s.entries[h.slot] = { generation := h.gen, occupant := .installed e }

/-- The INT line is low exactly while an enabled condition holds: an ATTENTION bit, a record on the report list, FAULT or
DONE (R165). -/
def Clause.interruptLine : Prop :=
  ∀ s : State,
    s.intLow = true ↔
      (s.port.enables.getLsbD 3 = true ∧ s.port.attention.word ≠ 0) ∨
        (s.port.enables.getLsbD 2 = true ∧ s.tracker.reportList ≠ []) ∨
        (s.port.enables.getLsbD 1 = true ∧ s.port.fault = true) ∨
        (s.port.enables.getLsbD 0 = true ∧ s.port.done = true)

/-- The fields of the settings words of a GROUP DEFINE or GROUP EDIT, and the words that GROUP READ shows for them, with no
other bit set (R183, R186). -/
def Clause.settingsFields : Prop :=
  (∀ task : Task,
    let field := fun (k lo len : Nat) => (task.word k).toNat / 2 ^ lo % 2 ^ len
    let g := task.settings
    g.inputMask.toNat = field 0 0 4 ∧ g.repeatTolerance.val = field 0 8 3 ∧ repeatChoice (task.word 0) = field 0 12 2 ∧
    (field 0 4 2 = 1 → g.duty = .quarter) ∧ (field 0 4 2 = 2 → g.duty = .third) ∧ (field 0 4 2 = 3 → g.duty = .half) ∧
    g.receiveNominal = field 1 0 8 ∧ g.receiveWindow = field 1 8 4 ∧ g.transmitCarrier = field 2 0 8 ∧
    g.releaseGap = (task.word 3).toNat ∧ g.repeatPeriod = (task.word 4).toNat ∧ g.pressLimit = (task.word 5).toNat) ∧
  (∀ (g : GroupSettings) (present : Bool),
    g.receiveNominal < 256 → g.receiveWindow < 16 → g.transmitCarrier < 256 → g.releaseGap < 65536 →
    g.repeatPeriod < 65536 → g.pressLimit < 65536 →
    let duty := match g.duty with
      | .quarter => 1
      | .third => 2
      | .half => 3
    (settingsWords g present).map BitVec.toNat =
      [g.inputMask.toNat + 16 * duty + 256 * g.repeatTolerance.val + (if present then 4096 else 0),
       g.receiveNominal + 256 * g.receiveWindow, g.transmitCarrier, g.releaseGap, g.repeatPeriod, g.pressLimit])

/-- The fields of the words of INPUT CONFIGURE and OUTPUT CONFIGURE (R192, R197). -/
def Clause.configurationFields : Prop :=
  ∀ task : Task,
    let field := fun (k lo len : Nat) => (task.word k).toNat / 2 ^ lo % 2 ^ len
    let x := task.inputConfig
    let y := task.outputConfig
    (field 0 0 2 = 0 → x.kind = .off ∧ y.kind = .off) ∧ (field 0 0 2 = 1 → x.kind = .carrier ∧ y.kind = .modulated) ∧
    (field 0 0 2 = 2 → x.kind = .envelope ∧ y.kind = .envelope) ∧
    (x.polarity = if field 0 4 1 = 1 then .activeHigh else .activeLow) ∧ y.polarity = x.polarity ∧
    x.blankMask.toNat = field 0 8 2 ∧ x.endGap = (task.word 1).toNat ∧ x.glitchFloor = (task.word 2).toNat ∧
    y.minItemSpace = (task.word 1).toNat ∧ y.holdLimit = (task.word 2).toNat

/-- The codes of the outcomes, of the end causes, of the states of an entry and of the outcomes of a relay record (R176,
R190, R193, R196). -/
def Clause.fieldCodes : Prop :=
  ([.ok, .badCommand, .badParameter, .aborted, .xferTimeout, .tableFull, .noSpace, .duplicateKey, .conflict,
    .noSuchEntry, .noSuchGroup, .groupNotEmpty, .badRun, .queueFull, .noSuchPress, .noSuchHold, .outputOff,
    .entryDamaged, .relayFull, .duplicateTag, .groupDefined] : List HostOutcome).map HostOutcome.code = List.range 21 ∧
  (∀ p : Press, (∀ deadline limit links, p.life = .held deadline limit links → p.causeField = 0) ∧
    ∀ cause duration, p.life = .ended cause duration → p.causeField = EndCause.field cause) ∧
  ([.released, .limit, .newPress, .otherKey, .forced, .retired, .suspended, .damaged, .groupChanged, .inputChanged] :
    List EndCause).map EndCause.field = (List.range 10).map (· + 1) ∧
  ([.active, .suspended, .damaged] : List EntryStatus).map EntryStatus.field = [1, 2, 3] ∧
  ([.none, .queued, .queueFull, .targetStale, .targetDamaged, .outputOff] : List RelayOutcome).map RelayOutcome.field =
    List.range 6 ∧
  Variant.main.field = 0 ∧ Variant.alternate.field = 1

/-- The status words, the states of the command engine, the handle words, the INT line, the settings and configuration
words, and the codes of their fields (R161, R162, R165, R176, R180, R183, R186, R192, R197). -/
def Obligations.WordsShowTheirFields : Prop :=
  Clause.statusWords ∧ Clause.engineStates ∧ Clause.handleWords ∧ Clause.interruptLine ∧ Clause.settingsFields ∧ Clause.configurationFields ∧
    Clause.fieldCodes

/-- CAPTURE with the address byte of a frame fixes the word of a read as the location stands, and notes whether a result
word was on offer (R160, R161, R173). -/
def Clause.captures : Prop :=
  ∀ (location : BitVec 3) (s : State), s.port.spi = .none →
    let captured := fun (read : Bool) (word : Word) (offered : Bool) => SpiFrame.frame {
      clocks := 8, address := addressByte read location, data := 0, word := word, offered := offered, void := false }
    (∃ t, exec (.capture (.addressByte (addressByte true location))) s = .next t ∧
      t = { s with port := { s.port with
        spi := t.port.spi
        miso := match location.toNat with
          | 0 => s.flagsWord
          | 1 => match s.port.engine with
            | .result _ _ w _ _ => w
            | _ => 0
          | 2 => s.controlWord
          | 3 => s.port.completion.word
          | 4 => s.port.attention.word
          | _ => 0 } } ∧
      t.port.spi = captured true t.port.miso (decide (location = 1) && s.port.engine.xdir)) ∧
    exec (.capture (.addressByte (addressByte false location))) s =
      .next { s with port := { s.port with spi := captured false 0 false, miso := 0 } }

/-- The clocks of a frame (R159, R160): SELECT falls with none taken; each takes one bit of the address byte and then of
the data word, MSB first; the 8th is the capture, and a void frame captures nothing. MISO shows the captured word, MSB
first, from the 8th clock to the 24th, and 0 in the address byte and after the 24th. -/
def Clause.frameClocks : Prop :=
  ∀ (s : State) (mosi : Bool),
    let put := fun (x : SpiFrame) => ({ s with port := { s.port with spi := x } } : State)
    (s.port.spi = .none →
      exec (.capture .selectFalls) s = .next (put (.frame {
        clocks := 0, address := 0, data := 0, word := 0, offered := false, void := false })) ∧
      exec (.capture (.clock mosi)) s = .next s ∧ s.misoLevel = false) ∧
    ∀ f, s.port.spi = .frame f →
      let bit : Nat := if mosi then 1 else 0
      let shifted : SpiShift := { f with
        clocks := min (f.clocks + 1) 25
        address := if f.clocks < 8 then BitVec.ofNat 8 (2 * f.address.toNat + bit) else f.address
        data := if 8 ≤ f.clocks ∧ f.clocks < 24 then BitVec.ofNat 16 (2 * f.data.toNat + bit) else f.data }
      exec (.capture .selectFalls) s = .next s ∧
      (f.clocks ≠ 7 ∨ f.void = true → exec (.capture (.clock mosi)) s = .next (put (.frame shifted))) ∧
      (f.clocks = 7 → f.void = false → exec (.capture (.clock mosi)) s = .next { s with port := { s.port with
        spi := .frame { shifted with
          word := s.captureWord shifted.address, offered := s.captureOffer shifted.address }
        miso := s.captureWord shifted.address } }) ∧
      (f.clocks < 8 ∨ 24 ≤ f.clocks → s.misoLevel = false) ∧
      (8 ≤ f.clocks → f.clocks < 24 → s.misoLevel = f.word.getLsbD (23 - f.clocks))

/-- SELECT rises (R159, R160): after exactly 24 clocks whose bits spell a row, the row's effects come, and none where a
hardware reset has made the frame void; a frame of fewer or more clocks, or one that spells no row, is over without
effect. -/
def Clause.frameEndings : Prop :=
  ∀ (s : State),
    let ended : State := { s with port := { s.port with spi := .none } }
    (s.port.spi = .none → exec (.capture .selectRises) s = .next s) ∧
    ∀ f, s.port.spi = .frame f →
      (f.clocks ≠ 24 ∨ decodeFrame f.address f.data = none → exec (.capture .selectRises) s = .next ended) ∧
      ∀ i, f.clocks = 24 → decodeFrame f.address f.data = some i →
        exec (.capture .selectRises) s = exec i s ∧ (f.void = true → exec i s = .next ended)

/-- A FLAGS read clears those of DONE, FAULT and COLLIDE that were 1 in the word it returned, and nothing else; a frame
made void clears nothing (R163). -/
def Obligations.FlagsReadClearsTheShownBits : Prop :=
  ∀ s : State,
    (∀ f, s.Captured (addressByte true 0) f →
      exec .flagsRead s = .next { s with port := { s.port with
        spi := .none
        done := s.port.done && !f.word.getLsbD 11
        fault := s.port.fault && !f.word.getLsbD 10
        collide := s.port.collide && !f.word.getLsbD 9 } }) ∧
    (∀ f, s.port.spi = .frame f → f.fits (addressByte true 0) 0 = true → f.void = true →
      exec .flagsRead s = .next { s with port := { s.port with spi := .none } })

/-- A FLAGS read with no capture of its own is captured at its end, so that what it clears is what stands then (log
entry 4: the model's choice). -/
def Clause.uncapturedReads : Prop :=
  ∀ s : State, s.port.spi = .none →
    exec .flagsRead s = .next { s with port := { s.port with
      miso := s.flagsWord, done := false, fault := false, collide := false } }

/-- The table of the 28 commands (R176, chapter 10): the code of each, whether it has parameter words, and the table step
it raises when it enters EXECUTE, if its first step is one. -/
def Clause.commandTable : Prop :=
  ∀ c : HostCommand, (c, c.code, hasParameters c, executeStep c) ∈
    ([(.initializePart, 0x01, false, some .initializeTable), (.tableStatus, 0x02, false, some .tableStatus),
      (.groupDefine, 0x10, true, some .groupDefineFinal), (.groupEdit, 0x11, true, some .groupEditFinal),
      (.groupRemove, 0x12, false, some .groupRemove), (.groupRead, 0x13, false, some .groupRead),
      (.entryInstall, 0x20, true, some .installFinal), (.entryEdit, 0x21, true, some .entryEdit),
      (.entrySuspend, 0x22, true, some .suspend), (.entryResume, 0x23, true, some .resume),
      (.entryRetire, 0x24, true, some .retire), (.entryRead, 0x25, true, some .entryRead),
      (.entryFind, 0x26, true, some .entryFind), (.entryList, 0x27, false, some .entryList),
      (.inputConfigure, 0x30, true, none), (.inputStatus, 0x31, false, none), (.report, 0x40, false, none),
      (.pressRead, 0x41, false, none), (.pressEnd, 0x42, true, none), (.relaySet, 0x50, true, some .handleCheck),
      (.relayClear, 0x51, true, none), (.relayRead, 0x52, true, none), (.outputConfigure, 0x60, true, none),
      (.outputStatus, 0x61, false, none), (.send, 0x62, true, some .handleCheck),
      (.holdStart, 0x63, true, some .handleCheck), (.holdEnd, 0x64, true, none), (.outputFlush, 0x65, false, none)] :
      List (HostCommand × BitVec 8 × Bool × Option HostStep))

/-- The accepted immediate arguments (R179): a group or a press record 0 to 15, an input 0 to 3, an output 0 or 1; every
other command takes any. -/
def Clause.immediateArguments : Prop :=
  ∀ (c : HostCommand) (arg : BitVec 8), argAccepted c arg = true ↔
    (c ∈ [.groupDefine, .groupEdit, .groupRemove, .groupRead, .entryFind, .entryList, .pressRead, .pressEnd] →
      arg.toNat ≤ 15) ∧
    (c ∈ [.inputConfigure, .inputStatus] → arg.toNat ≤ 3) ∧
    (c ∈ [.outputConfigure, .outputStatus, .send, .holdStart, .holdEnd, .outputFlush] → arg.toNat ≤ 1)

/-- The COMMAND write of each of the 28 commands, when READY is 1 and BUSY 0 (R169, R171, R179): an immediate argument
out of its range ends the command BAD_PARAMETER; otherwise the first parameter word is requested, or EXECUTE is entered
with its table step raised. -/
def Clause.commandWrites : Prop :=
  ∀ (c : HostCommand) (arg : BitVec 8) (s : State),
    s.port.ready = true → s.port.engine.busy = false → s.FrameStands (addressByte false 0) (c.code ++ arg) →
    ∃ t, exec (c.writeRow arg) s = .next t ∧ t = { s with port := t.port, claims := t.claims } ∧
      (argAccepted c arg = false → t.claims = s.claims ∧
        t.port = { s.port with
          spi := .none, miso := t.port.miso, engine := .idle, done := true, fault := true
          completion := { code := c.code, cut := false, outcome := .badParameter } }) ∧
      (argAccepted c arg = true →
        t.port = { s.port with
          spi := .none, miso := t.port.miso, engine := t.port.engine, done := false, fault := false } ∧
        (hasParameters c = true →
          t.port.engine = .parameter { command := c, arg := arg, words := [] } (.word s.timebase) ∧
          t.claims = s.claims) ∧
        (hasParameters c = false →
          t.port.engine = .execute { command := c, arg := arg, words := [] } false ∧
          t.claims = { s.claims with host := match executeStep c with
            | some h => some h
            | none => s.claims.host }))

/-- The COMMAND write of each of the 28 commands, with the table of the commands (R169, R171, R176, R179). -/
def Obligations.CommandWriteIsTaken : Prop :=
  Clause.commandWrites ∧ Clause.commandTable ∧ Clause.immediateArguments

/-- A COMMAND write whose code names no command ends at once with BAD_COMMAND (R169, R176). -/
def Clause.unknownCodes : Prop :=
  ∀ (code arg : BitVec 8) (s : State),
    (∀ c : HostCommand, c.code ≠ code) → s.port.ready = true → s.port.engine.busy = false →
    s.FrameStands (addressByte false 0) (code ++ arg) →
    ∃ t, exec (.badCommand code arg) s = .next t ∧ t = { s with port := t.port } ∧
      t.port = { s.port with
        spi := .none, miso := t.port.miso, engine := .idle, done := true, fault := true
        completion := { code := code, cut := false, outcome := .badCommand } }

/-- A COMMAND write when READY is 0 or BUSY is 1 is refused with COLLIDE and nothing else changes (R164, R169). -/
def Clause.commandCollisions : Prop :=
  ∀ (i : Instr) (s : State) (code arg : BitVec 8),
    (∃ c : HostCommand, i = c.writeRow arg ∧ code = c.code) ∨ i = .badCommand code arg →
    s.port.ready = false ∨ s.port.engine.busy = true → s.FrameStands (addressByte false 0) (code ++ arg) →
    ∃ t, exec i s = .next t ∧ t = { s with port := t.port } ∧
      t.port = { s.port with spi := .none, miso := t.port.miso, collide := true }

/-- A COMMAND write that is not taken as a command: BAD_COMMAND or COLLIDE (R164, R169). -/
def Obligations.CommandWriteRefusals : Prop :=
  Clause.unknownCodes ∧ Clause.commandCollisions

/-- A TRANSFER write while a parameter word is awaited (R170, R173): the word is checked; one that fails ends the
command, through CLEANUP when a reservation is held; one at which the command has a parameter step raises it; otherwise
the next word is requested or EXECUTE is entered, and a run word is written into the reservation. -/
def Clause.transferWrites : Prop :=
  ∀ (w : Word) (s : State) (task : Task) (since : Time),
    s.port.engine = .parameter task (.word since) → s.FrameStands (addressByte false 1) w →
    ∃ t, exec (.transferWrite w) s = .next t ∧
      t = { s with port := t.port, claims := t.claims, pool := t.pool } ∧
      (∀ outcome, wordVerdict task w = .refused outcome → t.pool = s.pool ∧
        (s.pool.reservation = [] → t.claims = s.claims ∧
          t.port = { s.port with
            spi := .none, miso := t.port.miso, engine := .idle, done := true
            fault := s.port.fault || decide (outcome ≠ .ok)
            completion := { code := task.command.code, cut := false, outcome := outcome } }) ∧
        (s.pool.reservation ≠ [] → t.claims = { s.claims with host := some .cleanUp } ∧
          t.port = { s.port with spi := .none, miso := t.port.miso, engine := .cleanup task outcome })) ∧
      (wordVerdict task w = .step → t.pool = s.pool ∧
        t.claims = { s.claims with host := some (parameterStep task.command) } ∧
        t.port = { s.port with
          spi := .none, miso := t.port.miso
          engine := .parameter { task with words := task.words ++ [w] } (.step false) }) ∧
      (wordVerdict task w = .next → t.pool = (s.storeRun task w).pool ∧ t.claims = s.claims ∧
        t.port = { s.port with
          spi := .none, miso := t.port.miso
          engine := .parameter { task with words := task.words ++ [w] } (.word s.timebase) }) ∧
      (wordVerdict task w = .last → t.pool = (s.storeRun task w).pool ∧
        t.claims = { s.claims with host := match executeStep task.command with
          | some h => some h
          | none => s.claims.host } ∧
        t.port = { s.port with
          spi := .none, miso := t.port.miso
          engine := .execute { task with words := task.words ++ [w] } false })

/-- A run word of an install goes into the next position of the reservation: main run k (from 1) into position
k - 8 (ceil(k / 8) - 1) of cell ceil(k / 8), and alternate run k into the same place of the second half (R48, R51). No
other run of any cell changes. -/
def Clause.runWords : Prop :=
  ∀ (s : State) (task : Task) (w : Word) (n j : Nat) (c : CellNo),
    task.command = .entryInstall → (task.word 2).toNat = n → task.words.length = 3 + j → j < 2 * n →
    s.pool.reservation[(if j < n then j / 8 else (n + 7) / 8 + (j - n) / 8)]? = some c →
    ∃ p, (s.storeRun task w) = { s with pool := p } ∧
      p = { s.pool with cells := p.cells } ∧
      (∀ d : CellNo, d ≠ c → p.cells[d] = s.pool.cells[d]) ∧
      p.cells[c] = { s.pool.cells[c] with
        runs := s.pool.cells[c].runs.set ((if j < n then j else j - n) % 8)
          ⟨w, parityOf w⟩ (Nat.mod_lt _ (by decide)) }

/-- A repeat run of a GROUP DEFINE or GROUP EDIT, run k (from 1), goes into position k - 8 (ceil(k / 8) - 1) of cell
ceil(k / 8) of the reservation (R48, R51). No other run of any cell changes. -/
def Clause.repeatRunWords : Prop :=
  ∀ (s : State) (task : Task) (w : Word) (j : Nat) (c : CellNo),
    task.command = .groupDefine ∨ task.command = .groupEdit → task.words.length = 7 + j →
    s.pool.reservation[j / 8]? = some c →
    ∃ p, (s.storeRun task w) = { s with pool := p } ∧
      p = { s.pool with cells := p.cells } ∧
      (∀ d : CellNo, d ≠ c → p.cells[d] = s.pool.cells[d]) ∧
      p.cells[c] = { s.pool.cells[c] with
        runs := s.pool.cells[c].runs.set (j % 8) ⟨w, parityOf w⟩ (Nat.mod_lt _ (by decide)) }

/-- A word that is no run word is stored nowhere (R51): the fields of an install and of a group, and the words of every
other command. -/
def Clause.otherWords : Prop :=
  ∀ (s : State) (task : Task) (w : Word),
    (task.command = .entryInstall → task.words.length < 3) →
    (task.command = .groupDefine ∨ task.command = .groupEdit → task.words.length < 7) →
    s.storeRun task w = s

/-- The check of a word of the group, entry and relay commands, `k` words taken before it (R4, R170, R183 to R191, R194
to R199): a word out of its range is refused, BAD_RUN for a run and BAD_PARAMETER for any other; a word in it is followed
by the next word, by the parameter step, or by EXECUTE. -/
def Clause.groupAndEntryWords : Prop :=
  ∀ (task : Task) (w : Word),
    let k := task.words.length
    let verdict := wordVerdict task w
    let field := fun (lo len : Nat) => w.toNat / 2 ^ lo % 2 ^ len
    let taken := fun (ok : Prop) (v : WordVerdict) => (ok → verdict = v) ∧ (¬ok → verdict = .refused .badParameter)
    let run := fun (total : Nat) =>
      (16 ≤ w.toNat ∧ w.toNat ≤ 60000 → verdict = if k + 1 < total then .next else .last) ∧
      (¬(16 ≤ w.toNat ∧ w.toNat ≤ 60000) → verdict = .refused .badRun)
    (∀ choices, task.command = .groupDefine ∧ choices = 1 ∨ task.command = .groupEdit ∧ choices = 2 →
      (k = 0 → taken (1 ≤ field 4 2 ∧ field 12 2 ≤ choices) .next) ∧
      (k = 1 → taken ((field 0 8 = 0 ∨ 40 ≤ field 0 8 ∧ field 0 8 ≤ 120) ∧ 1 ≤ field 8 4) .next) ∧
      (k = 2 → taken (40 ≤ field 0 8 ∧ field 0 8 ≤ 120) .next) ∧
      (k = 3 → taken (40 ≤ w.toNat ∧ w.toNat ≤ 1000) .next) ∧
      (k = 4 → taken (30 ≤ w.toNat ∧ w.toNat ≤ 300) .next) ∧
      (k = 5 → taken (w.toNat ≤ 120) (if (task.word 0).toNat / 2 ^ 12 % 4 = 1 then .next else .last)) ∧
      (k = 6 → verdict = .step) ∧ (7 ≤ k → run (7 + (task.word 6).toNat))) ∧
    (task.command = .entryInstall →
      (k < 2 → verdict = .next) ∧ (k = 2 → verdict = .step) ∧
      (3 ≤ k → run (3 + (if (task.word 0).getLsbD 8 then 2 else 1) * (task.word 2).toNat))) ∧
    (task.command = .entryEdit → (k < 2 → verdict = .next) ∧ (k = 2 → verdict = .last)) ∧
    (task.command ∈ [.entrySuspend, .entryResume, .entryRetire, .entryRead, .entryFind, .pressEnd, .relayClear,
      .holdEnd] → verdict = .last) ∧
    (task.command = .relaySet → (k < 2 → verdict = .next) ∧
      (k = 2 → taken (field 0 4 ≠ 0 ∧ field 4 2 ≠ 0 ∧ (field 8 1 = 0 → field 12 4 ≠ 0)) .last)) ∧
    (task.command = .relayRead → taken (w.toNat ≤ 63) .last)

/-- The check of a word of the input and output commands, `k` words taken before it (R170, R192, R197, R198). -/
def Clause.inputAndOutputWords : Prop :=
  ∀ (task : Task) (w : Word),
    let k := task.words.length
    let verdict := wordVerdict task w
    let taken := fun (ok : Prop) (v : WordVerdict) => (ok → verdict = v) ∧ (¬ok → verdict = .refused .badParameter)
    (task.command = .inputConfigure →
      (k = 0 → taken (w.toNat % 4 ≤ 2) .next) ∧ (k = 1 → taken (3 ≤ w.toNat ∧ w.toNat ≤ 40) .next) ∧
      (k = 2 → taken (8 ≤ w.toNat ∧ w.toNat ≤ 120) .last)) ∧
    (task.command = .outputConfigure →
      (k = 0 → taken (w.toNat % 4 ≤ 2) .next) ∧ (k = 1 → taken (5 ≤ w.toNat ∧ w.toNat ≤ 50) .next) ∧
      (k = 2 → taken (1 ≤ w.toNat ∧ w.toNat ≤ 60) .last)) ∧
    (task.command = .send → (k = 0 → verdict = .next) ∧ (k = 1 → taken (1 ≤ w.toNat % 16) .last)) ∧
    (task.command = .holdStart → (k = 0 → verdict = .next) ∧ (k = 1 → verdict = .last)) ∧
    (parameterStep .entryInstall = .installParameter ∧ parameterStep .groupDefine = .groupParameter ∧
      parameterStep .groupEdit = .groupParameter)

/-- TRANSFER_WRITE of an awaited word, the check of each word by command and index, and where a run word goes (R4, R51,
R170, R173, R183 to R199). -/
def Obligations.TransferWriteTakesTheWord : Prop :=
  Clause.transferWrites ∧ Clause.groupAndEntryWords ∧ Clause.inputAndOutputWords ∧ Clause.runWords ∧
    Clause.repeatRunWords ∧ Clause.otherWords

/-- A TRANSFER write with no word awaited, and a TRANSFER read with no word on offer at its capture, set COLLIDE and
nothing else (R164, R173). -/
def Clause.transferCollisions : Prop :=
  ∀ s : State,
    (∀ w, (∀ task since, s.port.engine ≠ .parameter task (.word since)) → s.FrameStands (addressByte false 1) w →
      ∃ t, exec (.transferWrite w) s = .next t ∧
        t = { s with port := { s.port with spi := .none, miso := t.port.miso, collide := true } }) ∧
    (∀ f, s.Captured (addressByte true 1) f → f.offered = false →
      exec .transferRead s = .next { s with port := { s.port with spi := .none, collide := true } })

/-- A TRANSFER read that captured an offered word takes it if the offer still stands: the next word is offered, or the
command ends with its outcome; an offer withdrawn since takes nothing and sets no COLLIDE (R172, R173). -/
def Clause.transferReads : Prop :=
  ∀ (f : SpiShift) (s : State), s.Captured (addressByte true 1) f → f.offered = true →
    (∀ task outcome v since, s.port.engine = .result task outcome v [] since →
      exec .transferRead s = .next { s with port := { s.port with
        spi := .none, engine := .idle, done := true, fault := s.port.fault || decide (outcome ≠ .ok)
        completion := { code := task.command.code, cut := false, outcome := outcome } } }) ∧
    (∀ task outcome v x xs since, s.port.engine = .result task outcome v (x :: xs) since →
      exec .transferRead s = .next { s with port := { s.port with
        spi := .none, engine := .result task outcome x xs s.timebase } }) ∧
    (s.port.engine.xdir = false →
      exec .transferRead s = .next { s with port := { s.port with spi := .none } })

/-- TRANSFER_READ, and the TRANSFER accesses that collide (R164, R172, R173). -/
def Obligations.TransferReadsAndCollisions : Prop :=
  Clause.transferReads ∧ Clause.transferCollisions

/-- A CONTROL write replaces the four enables; with bit 15 set it raises ABORT, which acts by
the state of the command engine (R175). -/
def Obligations.ControlWriteSetsEnablesAndAborts : Prop :=
  ∀ (w : Word) (s : State), s.FrameStands (addressByte false 2) w →
    (∀ i, i = .interruptEnableWrite w ∨ i = .abort w → ∃ t, exec i s = .next t ∧
      t.port.enables = w.extractLsb' 0 4 ∧ t.port.spi = .none ∧
      (w.getLsbD 15 = false →
        t = { s with port := { s.port with spi := .none, miso := t.port.miso, enables := t.port.enables } }) ∧
      (w.getLsbD 15 = true →
        t = { s with port := t.port, claims := t.claims } ∧
        t.port = { s.port with
          spi := .none, miso := t.port.miso, enables := t.port.enables, engine := t.port.engine, done := t.port.done
          fault := t.port.fault, completion := t.port.completion } ∧
        match s.port.engine with
        | .testing | .idle | .cleanup _ _ =>
          t = { s with port := { s.port with spi := .none, miso := t.port.miso, enables := t.port.enables } }
        | .parameter task (.word _) =>
          if s.pool.reservation = [] then
            t.port.engine = .idle ∧ t.port.done = true ∧ t.port.fault = true ∧ t.claims = s.claims ∧
              t.port.completion = { code := task.command.code, cut := false, outcome := .aborted }
          else
            t.port.engine = .cleanup task .aborted ∧ t.claims = { s.claims with host := some .cleanUp } ∧
              t.port.completion = s.port.completion ∧ t.port.done = s.port.done ∧ t.port.fault = s.port.fault
        | .parameter task (.step _) =>
          t.port.engine = .parameter task (.step true) ∧ t.claims = s.claims ∧
            t.port.completion = s.port.completion ∧ t.port.done = s.port.done ∧ t.port.fault = s.port.fault
        | .execute task _ =>
          t.port.engine = .execute task true ∧ t.claims = s.claims ∧
            t.port.completion = s.port.completion ∧ t.port.done = s.port.done ∧ t.port.fault = s.port.fault
        | .result task outcome _ _ _ =>
          t.port.engine = .idle ∧ t.port.done = true ∧ t.claims = s.claims ∧
            t.port.fault = (s.port.fault || decide (outcome ≠ .ok)) ∧
            t.port.completion = { code := task.command.code, cut := true, outcome := outcome }))

/-- A write to one of the locations 3 to 7 changes nothing and sets no flag: only its frame is over (R161). -/
def Clause.ignoredWrites : Prop :=
  ∀ (location : Fin 8) (w : Word) (s : State), 3 ≤ location.val →
    ∃ t, exec (.ignoredLocationWrite location w) s = .next t ∧
      t = { s with port := { s.port with spi := .none, miso := t.port.miso } }

/-- CAPTURE with the clocks and the SELECT of its frame, an uncaptured FLAGS_READ, and IGNORED_LOCATION_WRITE (R159 to
R161). That CAPTURE brings SELECT and every clock, what an uncaptured frame end does, and what a void frame and a high
SELECT show on MISO are log entries 4, 12 and 30 (the model's choices). -/
def Obligations.ReadFramesAndIgnoredWrites : Prop :=
  Clause.captures ∧ Clause.frameClocks ∧ Clause.frameEndings ∧ Clause.uncapturedReads ∧ Clause.ignoredWrites

/-- The transfer timer's expiry, 50 ms after XREQ became 1 (R174): XFER_TIMEOUT in PARAMETER, through CLEANUP when a
reservation is held; in RESULT the command ends with CUT and its own outcome. Before that time, and while no word is
requested, nothing expires. -/
def Obligations.TransferTimerExpires : Prop :=
  ∀ (t : Time) (s : State),
    (∀ task since, s.port.engine = .parameter task (.word since) → since + 50000 ≤ max s.timebase t →
      ∃ u, exec (.transferTimeout t) s = .next u ∧
        u = { s.advanceTo t with port := u.port, claims := u.claims } ∧
        (s.pool.reservation = [] → u.claims = s.claims ∧
          u.port = { s.port with
            engine := .idle, done := true, fault := true
            completion := { code := task.command.code, cut := false, outcome := .xferTimeout } }) ∧
        (s.pool.reservation ≠ [] → u.claims = { s.claims with host := some .cleanUp } ∧
          u.port = { s.port with engine := .cleanup task .xferTimeout })) ∧
    (∀ task outcome v rest since, s.port.engine = .result task outcome v rest since →
      since + 50000 ≤ max s.timebase t →
      exec (.transferTimeout t) s = .next { s.advanceTo t with port := { s.port with
        engine := .idle, done := true, fault := s.port.fault || decide (outcome ≠ .ok)
        completion := { code := task.command.code, cut := true, outcome := outcome } } }) ∧
    ((∀ task since, s.port.engine = .parameter task (.word since) → max s.timebase t < since + 50000) →
      (∀ task outcome v rest since, s.port.engine = .result task outcome v rest since →
        max s.timebase t < since + 50000) →
      exec (.transferTimeout t) s = .next (s.advanceTo t))

/-- The end of a command's last step (R171, R172, R175): with no result words the command ends with its outcome; with
result words and no ABORT held the first is offered; with a held ABORT the command ends with CUT. -/
def Obligations.LastStepEndsTheCommand : Prop :=
  ∀ (s : State) (task : Task) (held : Bool) (outcome : HostOutcome) (results : List Word),
    (results = [] ∨ held = true →
      s.finish task held outcome results = { s with port := { s.port with
        engine := .idle, done := true, fault := s.port.fault || decide (outcome ≠ .ok)
        completion := { code := task.command.code, cut := !results.isEmpty, outcome := outcome } } }) ∧
    (∀ w ws, results = w :: ws → held = false →
      s.finish task held outcome results =
        { s with port := { s.port with engine := .result task outcome w ws s.timebase } })

/-! ## Requests of commands to the blocks -/

/-- INPUT CONFIGURE (R80, R192): bursts and sticky bits go, the lookup claim is withdrawn, the press tracker is told,
the record is written, and the input takes the state its line and the blanking signals give. The 70 us of a quiet
CARRIER line are those of log entry 17 (the model's choice). -/
def Obligations.InputConfigureResetsTheInput : Prop :=
  ∀ (s : State) (task : Task) (held : Bool), s.AtRequest .inputConfigure task held →
    let i := argInput task.arg
    let c := task.inputConfig
    ∃ t : State, exec (.inputConfigure .request) s = .next (t.finish task held .ok []) ∧
      t = { s with
        inputs := t.inputs
        claims := { s.claims with lookup := s.claims.lookup.set i false }
        mail := { s.mail with inputChanges := s.mail.inputChanges ++ [i] }
        port := { s.port with
          attention := { s.port.attention with input := s.port.attention.input.set i false } } } ∧
      (∀ j : InputId, j ≠ i → t.inputs[j] = s.inputs[j]) ∧
      t.inputs[i].config = c ∧ t.inputs[i].held = none ∧ t.inputs[i].sticky = InputSticky.clear ∧
      t.inputs[i].line = s.inputs[i].line ∧
      (c.kind = .off → t.inputs[i].assembler = .off ∧ t.inputs[i].raw = s.inputs[i].raw) ∧
      (c.kind ≠ .off → (∃ o : OutputId, OutputMask.has c.blankMask o = true ∧ s.outputs[o].state.blanking = true) →
        t.inputs[i].assembler = .blanked ∧ t.inputs[i].raw = s.inputs[i].raw) ∧
      (c.kind ≠ .off → (∀ o : OutputId, OutputMask.has c.blankMask o = true → s.outputs[o].state.blanking = false) →
        t.inputs[i].raw = (t.inputs[i].resume s.timebase).raw ∧
        t.inputs[i].assembler =
          if lineQuiet c s.inputs[i].line s.timebase then .waiting none
          else .discarding { spaceSince := none, tentative := none, untilQuiet := true })

/-- The word of INPUT STATUS shows the seven sticky bits and the state at their places (R192). -/
def Clause.inputStatusFields : Prop :=
  ∀ x : Input,
    let w := inputStatusWord x
    w.getLsbD 0 = x.sticky.overrun ∧ w.getLsbD 1 = x.sticky.overlength ∧ w.getLsbD 2 = x.sticky.stuck ∧
    w.getLsbD 3 = x.sticky.blankedDrop ∧ w.getLsbD 4 = x.sticky.unmatched ∧ w.getLsbD 5 = x.sticky.orphanRepeat ∧
    w.getLsbD 6 = x.sticky.pressRefused ∧ w.getLsbD 7 = false ∧ w.extractLsb' 11 5 = 0#5 ∧
    (w.extractLsb' 8 3).toNat = match x.assembler with
      | .off => 0
      | .waiting _ => 1
      | .assembling _ => 2
      | .discarding _ => 3
      | .blanked => 4

/-- The words of OUTPUT STATUS show the output, its completion record and its ACTIVE item at their places (R197): two
words, or six while an item is ACTIVE. -/
def Clause.outputStatusFields : Prop :=
  ∀ x : Output, x.queue.length ≤ 8 →
    let outcomeCode : ItemOutcome → Nat
      | .sent => 1
      | .limit => 2
      | .stale => 3
      | .damaged => 4
      | .flushed => 5
      | .outputOff => 6
    let isActive := ∃ item a rest, x.queue = item :: rest ∧ item.active = some a
    ∃ w v more, outputStatusWords x = w :: v :: more ∧
      w.getLsbD 0 = x.hostDone ∧ w.getLsbD 1 = x.relayRefused ∧ w.getLsbD 2 = x.damageSeen ∧ w.getLsbD 3 = false ∧
      ((w.extractLsb' 4 3).toNat = match x.state with
        | .off => 0
        | .idle => 1
        | .grant => 2
        | .frame _ => 3
        | .interval _ => 4
        | .space _ => 5) ∧
      w.getLsbD 7 = false ∧ (w.extractLsb' 8 4).toNat = x.queue.length ∧ (w.getLsbD 12 = true ↔ isActive) ∧
      w.extractLsb' 13 3 = 0#3 ∧
      (x.completion = none → v = 0) ∧
      (∀ c, x.completion = some c → v.extractLsb' 0 8 = c.tag ∧ v.getLsbD 8 = c.hold ∧ v.extractLsb' 9 3 = 0#3 ∧
        (v.extractLsb' 12 3).toNat = outcomeCode c.outcome ∧ v.getLsbD 15 = false) ∧
      (¬isActive → more = []) ∧
      (∀ item a rest, x.queue = item :: rest → item.active = some a → (∀ c, item.form = .send c → c ≤ 15) →
        ∃ p named f, more = [p, named, BitVec.ofNat 16 (item.handle.gen.val * 256 + item.handle.slot.val), f] ∧
          (p.getLsbD 15 = true ↔ item.fromHost = false) ∧ (p.getLsbD 14 = true ↔ item.form = .hold) ∧
          (p.getLsbD 13 = true ↔ a.variant = .alternate) ∧ p.getLsbD 12 = item.holdEnded ∧
          ((p.extractLsb' 8 4).toNat = match item.form with
            | .send c => c
            | .hold => 0) ∧
          p.extractLsb' 3 5 = 0#5 ∧
          ((p.extractLsb' 0 3).toNat = match item.endPending with
            | none => 0
            | some outcome => outcomeCode outcome) ∧
          (∀ tag, item.origin = .host tag → named.toNat = tag.toNat) ∧
          (∀ press, item.origin = .relay press →
            named.toNat = press.record.val * 256 + press.sequence.toNat) ∧
          (a.framesSent ≤ 65535 → f.toNat = a.framesSent))

/-- INPUT STATUS and OUTPUT STATUS (R79, R156, R192, R197): the words show the status before the step, the sticky bits
and their ATTENTION bit are cleared in the step, and nothing else changes. -/
def Clause.statusReads : Prop :=
  ∀ (s : State) (task : Task) (held : Bool),
    (s.AtRequest .inputStatus task held →
      let i := argInput task.arg
      let x := s.inputs[i]
      exec (.inputStatus .request) s = .next
        (State.finish { s with
            inputs := s.inputs.set i { x with sticky := InputSticky.clear }
            port := { s.port with
              attention := { s.port.attention with input := s.port.attention.input.set i false } } }
          task held .ok [inputStatusWord x])) ∧
    (s.AtRequest .outputStatus task held →
      let o := argOutput task.arg
      let x := s.outputs[o]
      exec (.outputStatus .request) s = .next
        (State.finish { s with
            outputs := s.outputs.set o { x with hostDone := false, relayRefused := false, damageSeen := false }
            port := { s.port with
              attention := { s.port.attention with output := s.port.attention.output.set o false } } }
          task held .ok (outputStatusWords x)))

/-- INPUT STATUS and OUTPUT STATUS, with the layouts of their words (R79, R156, R192, R197). -/
def Obligations.StatusReadsClearTheStickyBits : Prop :=
  Clause.statusReads ∧ Clause.inputStatusFields ∧ Clause.outputStatusFields

/-- REPORT collects the head of the report list: its words show the record as it stands; the record leaves the list with
its flags cleared, and becomes FREE if it is ENDED. On an empty list the one word 0xFFFF is answered (R118, R193). -/
def Clause.reports : Prop :=
  ∀ (s : State) (task : Task) (held : Bool), s.AtRequest .report task held →
    (s.tracker.reportList = [] → exec (.report .request) s = .next (s.finish task held .ok [0xFFFF])) ∧
    (∀ r rest p, s.tracker.reportList = r :: rest → s.tracker.presses[r] = some p →
      exec (.report .request) s = .next
        (State.finish { s with tracker := { s.tracker with
            reportList := rest
            presses := s.tracker.presses.set r
              (match p.life with
                | .ended _ _ => none
                | .held _ _ _ => some { p with startPending := false, endPending := false }) } }
          task held .ok (reportWords r p)))

/-- The words of a report show the record's contents at their places (R119, R193). -/
def Clause.reportContents : Prop :=
  ∀ (r : PressNo) (p : Press), p.frames ≤ 65535 →
    ∃ a b f d, reportWords r p = [a, b, p.handle.toWord, p.key, f, d] ∧
      (a.extractLsb' 0 4).toNat = r.val ∧ a.extractLsb' 4 3 = 0#3 ∧
      a.getLsbD 8 = p.startPending ∧ a.getLsbD 9 = p.endPending ∧
      a.getLsbD 7 = p.isEnded ∧ (a.extractLsb' 12 4).toNat = p.causeField ∧
      b.extractLsb' 0 8 = p.sequence ∧ (b.extractLsb' 8 2).toNat = p.input.val ∧
      (b.extractLsb' 10 1).toNat = p.variant.field ∧ (b.extractLsb' 12 4).toNat = p.group.val ∧
      f.toNat = p.frames ∧
      (∀ deadline limit links, p.life = .held deadline limit links →
        d.toNat = min ((p.lastCredit - p.startTime) / 1000) 65535) ∧
      (∀ cause duration, p.life = .ended cause duration → d = BitVec.ofNat 16 duration)

/-- PRESS READ shows a record without changing it, or answers NO_SUCH_PRESS (R119, R193). -/
def Clause.pressReads : Prop :=
  ∀ (s : State) (task : Task) (held : Bool), s.AtRequest .pressRead task held →
    let r := argPress task.arg
    (s.tracker.presses[r] = none → exec (.pressRead .request) s = .next (s.finish task held .noSuchPress [])) ∧
    (∀ p, s.tracker.presses[r] = some p →
      exec (.pressRead .request) s = .next (s.finish task held .ok (reportWords r p)))

/-- REPORT and PRESS READ with the words they return (R118, R119, R193). -/
def Obligations.ReportsShowPressRecords : Prop :=
  Clause.reports ∧ Clause.pressReads ∧ Clause.reportContents

/-- RELAY SET (R125, R195), taken after the retire notices of earlier commands: the record that names the source is
overwritten; else the lowest EMPTY record takes the fields; else RELAY_FULL and the map is unchanged. That RELAY SET waits for those notices is
log entry 19 (the model's choice). -/
def Clause.relaySets : Prop :=
  ∀ (s : State) (task : Task) (held : Bool) (source target : Handle),
    s.AtRequest .relaySet task held → s.mail.retires = [] →
    Handle.ofWord (task.word 0) = some source → Handle.ofWord (task.word 1) = some target →
    let w := task.word 2
    let written : RelayRecord := {
      stale := false, source := source, inputMask := w.extractLsb' 0 4, outputMask := w.extractLsb' 4 2
      target := target, mode := if w.getLsbD 8 then .follow else .once (w.toNat / 4096), lastOutcome := .none }
    (∀ (n : RelayNo) (r : RelayRecord), s.relays[n] = some r → r.source = source →
      (∀ (m : RelayNo) (q : RelayRecord), s.relays[m] = some q → q.source = source → m = n) →
      exec (.relaySet .request) s = .next
        (State.finish { s with relays := s.relays.set n (some written) } task held .ok [BitVec.ofNat 16 n.val])) ∧
    ((∀ (m : RelayNo) (q : RelayRecord), s.relays[m] = some q → q.source ≠ source) →
      (∀ n : RelayNo, s.relays[n] = none → (∀ m : RelayNo, m < n → s.relays[m] ≠ none) →
        exec (.relaySet .request) s = .next
          (State.finish { s with relays := s.relays.set n (some written) } task held .ok [BitVec.ofNat 16 n.val])) ∧
      ((∀ n : RelayNo, s.relays[n] ≠ none) →
        exec (.relaySet .request) s = .next (s.finish task held .relayFull [])))

/-- RELAY CLEAR empties the record that names the source, or answers NO_SUCH_ENTRY; RELAY READ shows a record and
changes nothing (R126, R196). -/
def Clause.relayClearsAndReads : Prop :=
  ∀ (s : State) (task : Task) (held : Bool), s.mail.retires = [] →
    (s.AtRequest .relayClear task held →
      (∀ (n : RelayNo) (r : RelayRecord), s.relays[n] = some r → Handle.ofWord (task.word 0) = some r.source →
        (∀ (m : RelayNo) (q : RelayRecord), s.relays[m] = some q → q.source = r.source → m = n) →
        exec (.relayClear .request) s = .next
          (State.finish { s with relays := s.relays.set n none } task held .ok [])) ∧
      ((∀ (n : RelayNo) (r : RelayRecord), s.relays[n] = some r → Handle.ofWord (task.word 0) ≠ some r.source) →
        exec (.relayClear .request) s = .next (s.finish task held .noSuchEntry []))) ∧
    (s.AtRequest .relayRead task held → ∀ n : RelayNo, (task.word 0).toNat = n.val →
      (s.relays[n] = none → exec (.relayRead .request) s = .next (s.finish task held .ok [0])) ∧
      (∀ r, s.relays[n] = some r → exec (.relayRead .request) s = .next
        (s.finish task held .ok
          [BitVec.ofNat 16 ((if r.stale then 2 else 1) + 16 * r.lastOutcome.field), r.source.toWord, r.target.toWord,
           r.word])))

/-- While a retire notice waits, the relay unit takes no request of the host, and nothing changes (R127; log entry 19: the
model's choice). -/
def Clause.relayRequestsWait : Prop :=
  ∀ s : State, s.mail.retires ≠ [] →
    exec (.relaySet .request) s = .next s ∧ exec (.relayClear .request) s = .next s ∧
    exec (.relayRead .request) s = .next s

/-- The relay word that RELAY READ shows (R195, R196): the input mask in bits 3 to 0, the output mask in bits 5 and 4, the
mode in bit 8, the count of a ONCE record in bits 15 to 12 and 0 in every other bit; a record just set shows these
bits of its word, the count of a FOLLOW record as 0. -/
def Clause.relayWord : Prop :=
  (∀ r : RelayRecord, (∀ count, r.mode = .once count → count < 16) →
    r.word.extractLsb' 0 4 = r.inputMask ∧ r.word.extractLsb' 4 2 = r.outputMask ∧ r.word.extractLsb' 6 2 = 0#2 ∧
    r.word.getLsbD 8 = decide (r.mode = .follow) ∧ r.word.extractLsb' 9 3 = 0#3 ∧
    (r.word.extractLsb' 12 4).toNat = match r.mode with
      | .once count => count
      | .follow => 0) ∧
  ∀ (r : RelayRecord) (w : Word), r.inputMask = w.extractLsb' 0 4 → r.outputMask = w.extractLsb' 4 2 →
    r.mode = (if w.getLsbD 8 then .follow else .once (w.toNat / 4096)) →
    r.word = w &&& if w.getLsbD 8 then 0x013F else 0xF03F

/-- RELAY SET, RELAY CLEAR and RELAY READ (R125, R126, R195, R196). -/
def Obligations.RelayMapCommandsActOnOneRecord : Prop :=
  Clause.relaySets ∧ Clause.relayClearsAndReads ∧ Clause.relayRequestsWait ∧ Clause.relayWord

/-- Items that end report it in queue order (R149, R150, R155, R156): each HOST item overwrites the completion record
and sets HOST_DONE with its ATTENTION bit, so that the last one's record stays; each item with follow yes sends its
link-clear unless it ends SENT; nothing else changes. -/
def Clause.itemEndReports : Prop :=
  ∀ (s : State) (o : OutputId) (outcome : ItemOutcome) (items : List Item),
    let t := s.reportItemEnds o outcome items
    let x := s.outputs[o]
    let host := items.any Item.fromHost
    t = { s with outputs := t.outputs, mail := t.mail, port := t.port } ∧
    (∀ p : OutputId, p ≠ o → t.outputs[p] = s.outputs[p]) ∧
    t.outputs[o] = { x with completion := t.outputs[o].completion, hostDone := x.hostDone || host } ∧
    (host = false → t.outputs[o].completion = x.completion) ∧
    (∀ front item behind tag, items = front ++ item :: behind → item.origin = .host tag →
      behind.any Item.fromHost = false →
      t.outputs[o].completion = some { tag := tag, hold := item.form.isHold, outcome := outcome }) ∧
    t.port = { s.port with
      attention := { s.port.attention with
        output := s.port.attention.output.set o (s.port.attention.output[o] || host) } } ∧
    t.mail = { s.mail with
      linkClears := s.mail.linkClears.set o (s.mail.linkClears[o] ++
        if outcome = .sent then [] else items.filterMap (fun item =>
          match item.origin with
          | .relay press => if item.follow then some press else none
          | .host _ => none)) }

/-- The end of an ACTIVE item (R150): the references of its frame go, its end is reported, it leaves the
queue, and the output enters SPACE for the minimum item space if the item reached FRAME; otherwise the next item starts
at once, or the output is IDLE. -/
def Clause.activeItemEnds : Prop :=
  ∀ (s : State) (o : OutputId) (item : Item) (a : ActiveItem) (rest : List Item) (outcome : ItemOutcome) (t : Time),
    s.outputs[o].queue = item :: rest → item.active = some a →
    let x := s.outputs[o]
    (∀ f, x.state = .frame f →
      let u := ({ s with mail := { s.mail with removals := s.mail.removals.set o (some f.chain) } } : State).reportItemEnds
        o outcome [item]
      s.endActive o outcome t = { u with outputs := u.outputs.set o { u.outputs[o] with
        queue := rest, state := .space (t + x.config.minItemSpace * 1000) } }) ∧
    ((∀ f, x.state ≠ .frame f) → 0 < a.framesSent →
      let u := s.reportItemEnds o outcome [item]
      s.endActive o outcome t = { u with outputs := u.outputs.set o { u.outputs[o] with
        queue := rest, state := .space (t + x.config.minItemSpace * 1000) } }) ∧
    ((∀ f, x.state ≠ .frame f) → a.framesSent = 0 →
      let u := s.reportItemEnds o outcome [item]
      (rest = [] → s.endActive o outcome t =
        { u with outputs := u.outputs.set o { u.outputs[o] with queue := [], state := .idle } }) ∧
      (rest ≠ [] → s.endActive o outcome t =
        ({ u with outputs := u.outputs.set o { u.outputs[o] with queue := rest } } : State).startHead o))

/-- The end of items (R149, R150, R155, R156). -/
def Obligations.ItemsEndInOrder : Prop :=
  Clause.itemEndReports ∧ Clause.activeItemEnds

/-- The variant an item takes at its start and the toggle memory after it (R139, R140): a current entry that is not
DAMAGED and has an alternate takes the group's toggle bit, which flips; any other item takes variant 0 and no bit
changes. -/
def Clause.itemVariants : Prop :=
  ∀ (s : State) (toggle : BitVec 16) (h : Handle),
    (∀ e chain, s.currentEntry h = some e → e.status ≠ .damaged → e.alternate = some chain →
      (s.itemVariant toggle h).1 = (if toggle.getLsbD e.group.val then .alternate else .main) ∧
      ∀ k : GroupNo, (s.itemVariant toggle h).2.getLsbD k.val = (toggle.getLsbD k.val != decide (k = e.group))) ∧
    ((∀ e, s.currentEntry h = some e → e.status = .damaged ∨ e.alternate = none) →
      s.itemVariant toggle h = (.main, toggle))

/-- OUTPUT CONFIGURE does what OFF does and writes the record (R154): a frame in progress is cut and its references
removed, a waiting grant claim goes and a damage notice stays, the items end OUTPUT_OFF in queue order, and the output
is OFF or IDLE with its toggle bits 0. -/
def Clause.outputConfigures : Prop :=
  ∀ (s : State) (task : Task) (held : Bool), s.AtRequest .outputConfigure task held →
    let o := argOutput task.arg
    let x := s.outputs[o]
    let u := State.reportItemEnds { s with
        claims := { s.claims with
          output := s.claims.output.set o
            (if s.claims.output[o] = some .frameGrant then none else s.claims.output[o]) }
        mail := { s.mail with removals := match x.state with
          | .frame f => s.mail.removals.set o (some f.chain)
          | _ => s.mail.removals } }
      o .outputOff x.queue
    exec (.outputConfigure .request) s = .next
      (State.finish { u with outputs := u.outputs.set o { u.outputs[o] with
          config := task.outputConfig, queue := [], toggle := 0
          state := if task.outputConfig.kind = .off then .off else .idle } }
        task held .ok [])

/-- An output takes the offer of SEND or HOLD START (R135, R136, R138, R198): refused OUTPUT_OFF, QUEUE_FULL or
DUPLICATE_TAG, in this order, with nothing changed; accepted, the item joins the tail, and on an IDLE output it starts
at once: it is ACTIVE, its variant is fixed, and the output is in GRANT with its claim raised, or deferred behind its
damage notice. -/
def Obligations.HostOffersJoinTheQueue : Prop :=
  ∀ (s : State) (task : Task) (held : Bool) (h : Handle) (i : Instr) (form : ItemForm) (tag : BitVec 8),
    (i = .send .request ∧ s.AtRequest .send task held ∧ form = .send ((task.word 1).toNat % 16) ∧
        tag = (task.word 1).extractLsb' 8 8) ∨
      (i = .holdStart .request ∧ s.AtRequest .holdStart task held ∧ form = .hold ∧
        tag = (task.word 1).extractLsb' 0 8) →
    Handle.ofWord (task.word 0) = some h →
    let o := argOutput task.arg
    let x := s.outputs[o]
    let item : Item := {
      origin := .host tag, form := form, handle := h, follow := false, holdEnded := false, endPending := none
      active := none }
    let repeated := form = .hold ∧ ∃ other ∈ x.queue, other.origin = .host tag ∧ other.form = .hold
    (x.config.kind = .off → exec i s = .next (s.finish task held .outputOff [])) ∧
    (x.config.kind ≠ .off → 8 ≤ x.queue.length → exec i s = .next (s.finish task held .queueFull [])) ∧
    (x.config.kind ≠ .off → x.queue.length < 8 → repeated →
      exec i s = .next (s.finish task held .duplicateTag [])) ∧
    (x.config.kind ≠ .off → x.queue.length < 8 → ¬repeated →
      (x.state ≠ .idle → exec i s = .next
        (State.finish { s with outputs := s.outputs.set o { x with queue := x.queue ++ [item] } } task held .ok [])) ∧
      (x.state = .idle → x.queue = [] → exec i s = .next
        (State.finish { s with
            outputs := s.outputs.set o { x with
              state := .grant
              queue := [{ item with active := some {
                variant := (s.itemVariant x.toggle h).1, startTime := s.timebase, framesSent := 0 } }]
              toggle := (s.itemVariant x.toggle h).2 }
            claims := { s.claims with output := match s.claims.output[o] with
              | some (.damage _) => s.claims.output
              | _ => s.claims.output.set o (some .frameGrant) } }
          task held .ok [])))

/-- A hold-ended flag is set by HOLD END for the HOST HOLD of its tag, and by a hold-ended message for the item with
follow yes of its press (R137, R147, R148): a QUEUED item keeps the flag; an ACTIVE one in FRAME or GRANT ends SENT at
the frame's end unless an end is pending; in INTERVAL it ends SENT at once. With no such item HOLD END answers
NO_SUCH_HOLD and the message changes nothing. A HOLD END for an item whose flag is already set is answered OK, as R137
says and the table of R201 does not (log entry 33: the model's choice). -/
def Obligations.HoldEndsReachTheirItem : Prop :=
  ∀ (s : State) (o : OutputId) (i : Instr) (named : Item → Prop) (close missed : State → State),
    (∃ task held, i = .holdEnd .request ∧ s.AtRequest .holdEnd task held ∧ o = argOutput task.arg ∧
        named = (fun item => item.origin = .host ((task.word 0).extractLsb' 0 8) ∧ item.form = .hold) ∧
        close = (fun t => t.finish task held .ok []) ∧ missed = (fun t => t.finish task held .noSuchHold [])) ∨
      (∃ press rest, i = .holdEnded o ∧ s.mail.holdEnded[o] = press :: rest ∧
        named = (fun item => item.origin = .relay press ∧ item.follow = true) ∧
        close = (fun t => { t with mail := { t.mail with holdEnded := t.mail.holdEnded.set o rest } }) ∧
        missed = close) →
    ((∀ item ∈ s.outputs[o].queue, ¬named item) → exec i s = .next (missed s)) ∧
    ∀ front item behind, s.outputs[o].queue = front ++ item :: behind → named item → (∀ x ∈ front, ¬named x) →
      let flagged := { item with holdEnded := true }
      let put := fun (x : Item) => ({ s with outputs := s.outputs.set o { s.outputs[o] with
        queue := front ++ x :: behind } } : State)
      (item.active = none → exec i s = .next (close (put flagged))) ∧
      (∀ a, item.active = some a → front = [] →
        ((∃ f, s.outputs[o].state = .frame f) ∨ s.outputs[o].state = .grant →
          exec i s = .next (close (put { flagged with
            endPending := some (item.endPending.getD .sent) }))) ∧
        (∀ next, s.outputs[o].state = .interval next →
          exec i s = .next (close ((put flagged).endActive o .sent s.timebase))))

/-- OUTPUT FLUSH (R153): the QUEUED items end FLUSHED in queue order, then the ACTIVE item: in FRAME its end becomes
pending, in INTERVAL it ends at once, in GRANT its claim is withdrawn and it ends at once, each with the pending outcome
if there is one; an output without an ACTIVE item is left empty. An ACTIVE item in the last
frame of its SEND takes FLUSHED like any other (log entry 21: the model's choice). -/
def Clause.flushes : Prop :=
  ∀ (s : State) (task : Task) (held : Bool), s.AtRequest .outputFlush task held →
    let o := argOutput task.arg
    let x := s.outputs[o]
    let put := fun (u : State) (q : List Item) =>
      ({ u with outputs := u.outputs.set o { u.outputs[o] with queue := q } } : State)
    ((∀ item ∈ x.queue.head?, item.active = none) → exec (.outputFlush .request) s = .next
      ((put (s.reportItemEnds o .flushed x.queue) []).finish task held .ok [])) ∧
    (∀ item a rest, x.queue = item :: rest → item.active = some a →
      let u := s.reportItemEnds o .flushed rest
      ((∃ f, x.state = .frame f) → exec (.outputFlush .request) s = .next
        ((put u [{ item with endPending := some (item.endPending.getD .flushed) }]).finish task held .ok [])) ∧
      (∀ next, x.state = .interval next → exec (.outputFlush .request) s = .next
        (((put u [item]).endActive o .flushed s.timebase).finish task held .ok [])) ∧
      (x.state = .grant → exec (.outputFlush .request) s = .next
        ((State.endActive { put u [item] with
              claims := { s.claims with
                output := if s.claims.output[o] = some .frameGrant then s.claims.output.set o none
                  else s.claims.output } }
            o (item.endPending.getD .flushed) s.timebase).finish task held .ok [])))

/-- OUTPUT CONFIGURE and OUTPUT FLUSH (R153, R154). -/
def Obligations.OutputConfigureAndFlush : Prop :=
  Clause.outputConfigures ∧ Clause.flushes

/-- PRESS END ends the named press FORCED if its record is HELD with the named sequence number, and answers
NO_SUCH_PRESS with the record unchanged otherwise (R113, R194). -/
def Clause.pressEnds : Prop :=
  ∀ (s : State) (task : Task) (held : Bool), s.AtRequest .pressEnd task held →
    let r := argPress task.arg
    let sequence : BitVec 8 := (task.word 0).extractLsb' 0 8
    (∀ p deadline limit links, s.tracker.presses[r] = some p → p.sequence = sequence →
      p.life = .held deadline limit links →
      exec (.pressEnd .request) s = .next ((s.endPress r .forced).finish task held .ok [])) ∧
    ((∀ p deadline limit links, s.tracker.presses[r] = some p → p.life = .held deadline limit links →
        p.sequence ≠ sequence) →
      exec (.pressEnd .request) s = .next (s.finish task held .noSuchPress []))

/-! ## The table controller: lookups, grants, damage -/

/-- A candidate matches when every run of the burst lies in the window of the stored run; its comparison ends at the
first run that is unreadable, with that run's cell (R7, R48, R88). -/
def Clause.candidateComparison : Prop :=
  ∀ (pool : Pool) (c : Contender) (runs : List Nat),
    let inside := fun (k b : Nat) => ∃ d, pool.readRun c.chain (k + 1) = .value d ∧
      let slack := max (d * ([6, 9, 12, 15, 18, 21, 25, 30] : List Nat)[c.tolerance] / 100) 40
      max (d - slack) 1 ≤ b ∧ b ≤ d + slack
    (compareCandidate pool c (runs.zipIdx 1) = .matched ↔ ∀ k (h : k < runs.length), inside k runs[k]) ∧
    (∀ cell, compareCandidate pool c (runs.zipIdx 1) = .fault cell ↔
      ∃ k, k < runs.length ∧ pool.readRun c.chain (k + 1) = .unreadable cell ∧
        ∀ j (h : j < runs.length), j < k → inside j runs[j])

/-- Run k + 1 of a chain is read at position k mod 8, from 0, of cell k / 8 (R48, R57): the read gives the value where the
cell carries no fault mark and the parity bit is that of the value, and is unreadable in that cell otherwise; beyond the
chain there is no run (log entry 27: the model's choice). One wrong bit makes the parity wrong. -/
def Clause.runReads : Prop :=
  (∀ (p : Pool) (chain : List CellNo) (k : Nat),
    (∀ c : CellNo, chain[k / 8]? = some c →
      let run := p.cells[c].runs[k % 8]'(Nat.mod_lt _ (by decide))
      let readable := p.cells[c].fault = false ∧ run.parity = parityOf run.value
      (readable → p.readRun chain (k + 1) = .value run.value.toNat) ∧
      (¬readable → p.readRun chain (k + 1) = .unreadable c)) ∧
    (chain[k / 8]? = none → p.readRun chain (k + 1) = .absent)) ∧
  ∀ (w : Word) (k : Fin 16), parityOf (w ^^^ BitVec.twoPow 16 k.val) = !parityOf w

/-- A run word that is stored reads back from its place, in whatever chain the cell stands, and every other run reads as
before (R48, R51). The run word is the `j`-th, from 0, of an install of `n` runs or of a repeat pattern. -/
def Clause.storedRunsReadBack : Prop :=
  ∀ (s : State) (task : Task) (w : Word) (n j i pos : Nat) (c : CellNo),
    (task.command = .entryInstall ∧ (task.word 2).toNat = n ∧ task.words.length = 3 + j ∧ j < 2 * n ∧
        i = (if j < n then j / 8 else (n + 7) / 8 + (j - n) / 8) ∧ pos = (if j < n then j else j - n) % 8) ∨
      ((task.command = .groupDefine ∨ task.command = .groupEdit) ∧ task.words.length = 7 + j ∧ i = j / 8 ∧ pos = j % 8) →
    s.pool.reservation[i]? = some c →
    ∀ (chain : List CellNo) (k : Nat),
      let read := (s.storeRun task w).pool.readRun chain (k + 1)
      (chain[k / 8]? = some c → k % 8 = pos →
        read = if s.pool.cells[c].fault then .unreadable c else .value w.toNat) ∧
      (¬(chain[k / 8]? = some c ∧ k % 8 = pos) → read = s.pool.readRun chain (k + 1))

/-- How a run is read, and how the matcher compares a candidate run by run (R7, R12, R48, R51, R57). -/
def Obligations.CandidatesAreComparedRunByRun : Prop :=
  Clause.candidateComparison ∧ Clause.runReads ∧ Clause.storedRunsReadBack

/-- A lookup that meets no fault (R84 to R89, R92, R93): the held slot and the claim are emptied and one match result
goes onto the notice path. It names the pattern of the bin that is a candidate and matches; when none matches it is
NONE and UNMATCHED is requested. -/
def Clause.faultFreeLookups : Prop :=
  ∀ (s : State) (i : InputId) (b : Burst), s.turnOf (.input i) = true → s.inputs[i].held = some b →
    let verdict := fun ref => (s.contenderOf ref).map (fun c => compareCandidate s.pool c (b.runs.zipIdx 1))
    let candidates := (s.binList b.runs.length).filter (fun ref => s.isCandidate b ref)
    let result := fun found => Notice.result { input := b.input, startTime := b.startTime, endTime := b.endTime, found := found }
    let emptied : State := { s with
      inputs := s.inputs.set i { s.inputs[i] with held := none }
      claims := { s.claims with lookup := s.claims.lookup.set i false, last := .input i }
      working := none }
    ((∀ ref ∈ candidates, verdict ref = some .apart) →
      exec (.lookup i) s = .next { emptied with mail := { s.mail with
        path := s.mail.path ++ [result .none]
        sticky := s.mail.sticky.set b.input (s.mail.sticky[b.input] ++ [.unmatched]) } }) ∧
    (∀ slot v e g, .frame slot v ∈ candidates → verdict (.frame slot v) = some .matched →
      (∀ ref ∈ candidates, ref ≠ .frame slot v → verdict ref = some .apart) →
      s.installedAt slot = some e → e.status ≠ .damaged → s.groups[e.group] = some g →
      exec (.lookup i) s = .next { emptied with mail := { s.mail with
        path := s.mail.path ++ [result (.entry {
          group := e.group, handle := ⟨slot, s.entries[slot].generation⟩, variant := v, key := e.key
          releaseGap := g.settings.releaseGap, pressLimit := g.settings.pressLimit })] } }) ∧
    (∀ g group, .ofGroup g ∈ candidates → verdict (.ofGroup g) = some .matched →
      (∀ ref ∈ candidates, ref ≠ .ofGroup g → verdict ref = some .apart) → s.groups[g] = some group →
      exec (.lookup i) s = .next { emptied with mail := { s.mail with
        path := s.mail.path ++ [result (.ofGroup {
          group := g, releaseGap := group.settings.releaseGap, pressLimit := group.settings.pressLimit })] } })

/-- A visited pattern is a candidate when its group's mask holds the burst's input and the burst passes the group's
carrier filter (R11, R87). -/
def Clause.candidates : Prop :=
  ∀ (s : State) (b : Burst) (ref : PatternRef),
    s.isCandidate b ref = true ↔
      ∃ g group, s.groups[g] = some group ∧
        (ref = .ofGroup g ∨ ∃ slot v e, ref = .frame slot v ∧ s.installedAt slot = some e ∧ e.group = g) ∧
        group.settings.inputMask.getLsbD b.input.val = true ∧
        (b.kind = .carrier → group.settings.receiveNominal ≠ 0 → ∃ e, b.estimate = some e ∧
          group.settings.receiveNominal ≤ e + group.settings.receiveWindow ∧
          e ≤ group.settings.receiveNominal + group.settings.receiveWindow)

/-- One visit of a lookup (R86 to R90): a pattern that has left the bin or is no candidate is passed over; one that lies
apart changes nothing; a fault met in it is recorded on its cell and marks its owner damaged before the next visit; a
match takes the entry's handle and key value and the group's settings. -/
def Clause.lookupVisits : Prop :=
  ∀ (s : State) (b : Burst) (ref : PatternRef) (f : Found),
    (ref ∉ s.binList b.runs.length ∨ s.isCandidate b ref = false → State.visit b (s, f) ref = (s, f)) ∧
    (∀ c, ref ∈ s.binList b.runs.length → s.isCandidate b ref = true → s.contenderOf ref = some c →
      let verdict := compareCandidate s.pool c (b.runs.zipIdx 1)
      (verdict = .apart → State.visit b (s, f) ref = (s, f)) ∧
      (∀ cell : CellNo, verdict = .fault cell → State.visit b (s, f) ref =
        (State.damagePattern { s with pool := { s.pool with
          cells := s.pool.cells.set cell { s.pool.cells[cell] with fault := true } } } ref, f)) ∧
      (∀ slot v e g, verdict = .matched → ref = .frame slot v → s.installedAt slot = some e →
        s.groups[e.group] = some g → State.visit b (s, f) ref = (s, .entry {
          group := e.group, handle := ⟨slot, s.entries[slot].generation⟩, variant := v, key := e.key
          releaseGap := g.settings.releaseGap, pressLimit := g.settings.pressLimit })) ∧
      (∀ g group, verdict = .matched → ref = .ofGroup g → s.groups[g] = some group →
        State.visit b (s, f) ref = (s, .ofGroup {
          group := g, releaseGap := group.settings.releaseGap, pressLimit := group.settings.pressLimit })))

/-- LOOKUP visits the bin of the burst's run count as it stood at the grant, head first, and ends with one match result
behind the notices of its faults (R84, R86, R90 to R94): a match on an entry that is DAMAGED by then is dropped, and with
no match left the result is NONE and UNMATCHED is requested. -/
def Clause.lookupEnds : Prop :=
  ∀ (s : State) (i : InputId) (b : Burst), s.turnOf (.input i) = true → s.inputs[i].held = some b →
    let emptied : State := { s with
      inputs := s.inputs.set i { s.inputs[i] with held := none }
      claims := { s.claims with lookup := s.claims.lookup.set i false, last := .input i } }
    ∀ (u : State) (f : Found),
      (s.binList b.runs.length).foldl (State.visit b) ({ emptied with working := some b }, .none) = (u, f) →
      let result := fun found => Notice.result { input := b.input, startTime := b.startTime, endTime := b.endTime, found := found }
      let dropped := ∃ m e, f = .entry m ∧ u.installedAt m.handle.slot = some e ∧ e.status = .damaged
      (f = .none ∨ dropped → exec (.lookup i) s = .next { u with
        working := none
        mail := { u.mail with
          path := u.mail.path ++ [result .none]
          sticky := u.mail.sticky.set b.input (u.mail.sticky[b.input] ++ [.unmatched]) } }) ∧
      (∀ m e, f = .entry m → u.installedAt m.handle.slot = some e → e.status ≠ .damaged →
        exec (.lookup i) s = .next { u with
          working := none, mail := { u.mail with path := u.mail.path ++ [result f] } }) ∧
      (∀ m, f = .ofGroup m → exec (.lookup i) s = .next { u with
        working := none, mail := { u.mail with path := u.mail.path ++ [result f] } })

/-- LOOKUP (R84 to R94): without a fault as one result, and with faults and a dropped match visit by visit. -/
def Obligations.LookupReportsTheMatch : Prop :=
  Clause.faultFreeLookups ∧ Clause.candidates ∧ Clause.lookupVisits ∧ Clause.lookupEnds

/-- A fault found in a stored pattern marks its owner (R39, R40): an ACTIVE or SUSPENDED entry becomes DAMAGED with the
mark of the faulted pattern, both frame patterns leave their bin, an entry-damaged notice is sent and TABLE attention is
raised; a DAMAGED entry is left unchanged. REPEAT_DAMAGED that is clear is set, the pattern leaves its bin and TABLE
attention is raised without a notice; a mark already set changes nothing. -/
def Obligations.FaultsMarkThePatternDamaged : Prop :=
  ∀ s : State,
    (∀ (slot : SlotNo) (v : Variant) (e : Installed), s.installedAt slot = some e →
      (e.status = .damaged → s.damagePattern (.frame slot v) = s) ∧
      (e.status ≠ .damaged →
        let t := s.damagePattern (.frame slot v)
        t = { s with
          entries := s.entries.set slot { s.entries[slot] with occupant := .installed { e with
            status := .damaged
            mainDamaged := e.mainDamaged || decide (v = .main)
            alternateDamaged := e.alternateDamaged || decide (v = .alternate) } }
          bins := t.bins
          mail := { s.mail with path := s.mail.path ++ [.entryDamaged ⟨slot, s.entries[slot].generation⟩] }
          port := { s.port with attention := { s.port.attention with table := true } } } ∧
        ∀ n, t.binList n = if n = e.runCount then
            (s.binList n).filter (fun r => decide (r ≠ .frame slot .main) && decide (r ≠ .frame slot .alternate))
          else s.binList n)) ∧
    (∀ (g : GroupNo) (group : Group) (p : Pattern), s.groups[g] = some group → group.repeatPattern = some p →
      (group.repeatDamaged = true → s.damagePattern (.ofGroup g) = s) ∧
      (group.repeatDamaged = false →
        let t := s.damagePattern (.ofGroup g)
        t = { s with
          groups := s.groups.set g (some { group with repeatDamaged := true })
          bins := t.bins
          port := { s.port with attention := { s.port.attention with table := true } } } ∧
        ∀ n, t.binList n = if n = p.runCount then (s.binList n).filter (fun r => decide (r ≠ .ofGroup g))
          else s.binList n))

/-- A frame grant served (R41, R53, R139, R141, R143): STALE when the handle is not current, DAMAGED when the entry is;
otherwise the output's reference goes onto every cell of the chosen chain and no other cell, and the output enters FRAME
with the group's transmit settings as they stand and drives run 1 for its stored duration. A run 1 that is unreadable is
not driven: the line stays inactive until the frame is cut at its start (R151; log entry 23: the model's choice). -/
def Clause.grantAnswers : Prop :=
  ∀ (s : State) (o : OutputId) (item : Item) (a : ActiveItem) (rest : List Item),
    s.claims.output[o] = some .frameGrant → s.turnOf (.output o) = true → s.mail.removals[o] = none →
    s.outputs[o].queue = item :: rest → item.active = some a →
    let served : State := { s with
      claims := { s.claims with output := s.claims.output.set o none, last := .output o } }
    (s.currentEntry item.handle = none →
      exec (.frameGrant o) s = .next (served.endActive o .stale s.timebase)) ∧
    (∀ e, s.currentEntry item.handle = some e → e.status = .damaged →
      exec (.frameGrant o) s = .next (served.endActive o .damaged s.timebase)) ∧
    (∀ e g sent n chain, s.currentEntry item.handle = some e → e.status ≠ .damaged → s.groups[e.group] = some g →
      (((a.framesSent = 0 ∨ g.repeatPattern = none ∨ g.repeatDamaged = true) ∧ sent = .frame a.variant ∧
          n = e.runCount ∧ e.chainOf a.variant = some chain) ∨
        (0 < a.framesSent ∧ g.repeatDamaged = false ∧ sent = .repeatOf e.group ∧
          g.repeatPattern = some ⟨n, chain⟩)) →
      0 < n →
      ∃ t f, exec (.frameGrant o) s = .next t ∧
        t = { served with
          pool := { s.pool with cells := t.pool.cells }
          outputs := s.outputs.set o { s.outputs[o] with state := .frame f } } ∧
        f = {
          sent := sent, runCount := n, chain := chain, carrier := g.settings.transmitCarrier
          duty := g.settings.duty, repeatPeriod := g.settings.repeatPeriod, startTime := s.timebase
          run := f.run, runStart := s.timebase, runEnd := f.runEnd } ∧
        (∀ d, 0 < d → s.pool.readRun chain 1 = .value d → f.run = 1 ∧ f.runEnd = s.timebase + d) ∧
        (∀ c, s.pool.readRun chain 1 = .unreadable c → f.run = 0 ∧ f.runEnd = s.timebase ∧ (∀ sub, t.txActive o sub = false) ∧
          t.pool.readRun f.chain 1 = .unreadable c) ∧
        ∀ c : CellNo, t.pool.cells[c] = { s.pool.cells[c] with
          refs := if c ∈ chain then OutputMask.insert s.pool.cells[c].refs o else s.pool.cells[c].refs })

/-- A frame grant that does not wait, has not its turn, or whose output has yet to remove its earlier references is not
served, and nothing happens (R22, R23, R53; log entries 2 and 9: the model's choice). -/
def Clause.grantsWait : Prop :=
  ∀ (s : State) (o : OutputId),
    s.claims.output[o] ≠ some .frameGrant ∨ s.turnOf (.output o) = false ∨ s.mail.removals[o] ≠ none →
    exec (.frameGrant o) s = .next s

/-- FRAME_GRANT, served or waiting (R41, R53, R139, R141, R143, R151). -/
def Obligations.FrameGrantsAreAnsweredInOrder : Prop :=
  Clause.grantAnswers ∧ Clause.grantsWait

/-- A damage notice served (R42, R152): the named pattern is marked damaged if it still stands and the cell is OWNED by
it; otherwise TABLE attention alone is raised. Either way the claim is gone and a deferred grant is raised. By then the
output has removed its references: while their removal waits, nothing happens (log entry 9: the model's choice). -/
def Obligations.DamageNoticesMarkWhatStands : Prop :=
  ∀ (s : State) (o : OutputId) (d : DamageReport),
    s.claims.output[o] = some (.damage d) → s.turnOf (.output o) = true →
    (s.mail.removals[o] ≠ none → exec (.damageNotice o) s = .next s) ∧
    (s.mail.removals[o] = none →
    let served : State := { s with
      claims := { s.claims with output := s.claims.output.set o none, last := .output o } }
    let grant := fun (u : State) => if s.outputs[o].state = .grant then
        { u with claims := { u.claims with output := u.claims.output.set o (some .frameGrant) } }
      else u
    let owned := fun (chain : List CellNo) => d.cell ∈ chain ∧ s.pool.cells[d.cell].condition = .owned
    let unmarked : State := { served with port := { s.port with attention := { s.port.attention with table := true } } }
    (∀ v e chain, d.sent = .frame v → s.currentEntry d.handle = some e → e.chainOf v = some chain → owned chain →
      exec (.damageNotice o) s = .next (grant (served.damagePattern (.frame d.handle.slot v)))) ∧
    (∀ v, d.sent = .frame v →
      (∀ e chain, s.currentEntry d.handle = some e → e.chainOf v = some chain → ¬owned chain) →
      exec (.damageNotice o) s = .next (grant unmarked)) ∧
    (∀ g group p, d.sent = .repeatOf g → s.groups[g] = some group → group.repeatPattern = some p → owned p.chain →
      exec (.damageNotice o) s = .next (grant (served.damagePattern (.ofGroup g)))) ∧
    (∀ g, d.sent = .repeatOf g →
      (∀ group p, s.groups[g] = some group → group.repeatPattern = some p → ¬owned p.chain) →
      exec (.damageNotice o) s = .next (grant unmarked)))

/-! ## Table steps of the host -/

/-- The install parameter step (R28, R187): the five tests in their order, each with its outcome and the table as it
was; when all pass, the lowest FREE slot is LOADING with the parameters and the first cells of the free list are
RESERVED for the install, and the command asks for its runs, or is cleaned up if an ABORT is held. -/
def Clause.installParameters : Prop :=
  ∀ (s : State) (task : Task) (held : Bool), s.AtParameterStep .installParameter task held →
    let w := task.word 0
    let g : GroupNo := Fin.ofNat 16 (w.toNat / 4096)
    let n := (task.word 2).toNat
    let taken : Prop := ∃ slot : SlotNo, s.entries[slot].occupant.holdsKey g (task.word 1) = true
    let cells := (if w.getLsbD 8 then 2 else 1) * ((n + 7) / 8)
    let served : State := { s with claims := s.hostServed }
    let fails := fun outcome => exec .installParameterStep s = .next (served.finish task held outcome [])
    let goodCount := n % 2 = 1 ∧ 3 ≤ n ∧ n ≤ 127
    (s.groups[g] = none → fails .noSuchGroup) ∧
    (s.groups[g] ≠ none → ¬goodCount → fails .badParameter) ∧
    (s.groups[g] ≠ none → goodCount → taken → fails .duplicateKey) ∧
    (s.groups[g] ≠ none → goodCount → ¬taken → (∀ slot : SlotNo, s.entries[slot].occupant ≠ .free) →
      fails .tableFull) ∧
    (s.groups[g] ≠ none → goodCount → ¬taken → ∀ slot : SlotNo, s.entries[slot].occupant = .free →
      (∀ lower : SlotNo, lower < slot → s.entries[lower].occupant ≠ .free) →
      (s.pool.freeList.length < cells → fails .noSpace) ∧
      (cells ≤ s.pool.freeList.length →
        ∃ t, exec .installParameterStep s = .next t ∧
          t = { s with
            entries := s.entries.set slot { s.entries[slot] with occupant := .loading {
              group := g, key := task.word 1, tolerance := Fin.ofNat 8 w.toNat, runCount := n
              alternatePresent := w.getLsbD 8 } }
            pool := { s.pool with
              cells := t.pool.cells, freeList := s.pool.freeList.drop cells
              reservation := s.pool.freeList.take cells }
            claims := if held then { s.hostServed with host := some .cleanUp } else s.hostServed
            port := { s.port with
              engine := if held then .cleanup task .aborted else .parameter task (.word s.timebase) } } ∧
          ∀ c : CellNo, t.pool.cells[c] = if c ∈ s.pool.freeList.take cells then
              { s.pool.cells[c] with condition := .reserved, fault := false, refs := 0 }
            else s.pool.cells[c]))

/-- The group parameter step at S7 (R35, R36, R184, R185): GROUP_DEFINED or NO_SUCH_GROUP, then BAD_PARAMETER for a count
that is not odd and in 3 to 15, then NO_SPACE; otherwise one cell for 3 to 7 runs, or two for 9 to 15, is RESERVED. -/
def Clause.groupParameters : Prop :=
  ∀ (s : State) (task : Task) (held : Bool), s.AtParameterStep .groupParameter task held →
    task.command = .groupDefine ∨ task.command = .groupEdit →
    let g := argGroup task.arg
    let n := (task.word 6).toNat
    let cells := if n ≤ 7 then 1 else 2
    let served : State := { s with claims := s.hostServed }
    let fails := fun outcome => exec .groupParameterStep s = .next (served.finish task held outcome [])
    let stateFits := task.command = .groupDefine ↔ s.groups[g] = none
    let goodCount := n % 2 = 1 ∧ 3 ≤ n ∧ n ≤ 15
    (¬stateFits → fails (if task.command = .groupDefine then .groupDefined else .noSuchGroup)) ∧
    (stateFits → ¬goodCount → fails .badParameter) ∧
    (stateFits → goodCount → s.pool.freeList.length < cells → fails .noSpace) ∧
    (stateFits → goodCount → cells ≤ s.pool.freeList.length →
      ∃ t, exec .groupParameterStep s = .next t ∧
        t = { s with
          pool := { s.pool with
            cells := t.pool.cells, freeList := s.pool.freeList.drop cells
            reservation := s.pool.freeList.take cells }
          claims := if held then { s.hostServed with host := some .cleanUp } else s.hostServed
          port := { s.port with
            engine := if held then .cleanup task .aborted else .parameter task (.word s.timebase) } } ∧
        ∀ c : CellNo, t.pool.cells[c] = if c ∈ s.pool.freeList.take cells then
            { s.pool.cells[c] with condition := .reserved, fault := false, refs := 0 }
          else s.pool.cells[c])

/-- The install and the group parameter step (R28, R35, R36). -/
def Obligations.ParameterStepsTestInOrder : Prop :=
  Clause.installParameters ∧ Clause.groupParameters

/-- The cells of a chain come back to the pool (R49, R52, R54, R55, R58): one without a fault mark becomes FREE and joins
the tail of the free list in chain order; one with a fault mark becomes WITHHELD and TABLE attention is raised. -/
def Clause.returnedCells : Prop :=
  ∀ (s : State) (chain : List CellNo), chain.Nodup →
    let t := s.returnCells chain
    let marked := fun (c : CellNo) => s.pool.cells[c].fault
    t = { s with pool := t.pool, port := t.port } ∧
    t.pool = { s.pool with
      cells := t.pool.cells, freeList := s.pool.freeList ++ chain.filter (fun c => !marked c) } ∧
    (∀ c : CellNo, t.pool.cells[c] = if c ∈ chain then
        { s.pool.cells[c] with
          condition := if marked c then .withheld else .free, fault := false, refs := 0 }
      else s.pool.cells[c]) ∧
    t.port = { s.port with attention := { s.port.attention with
      table := s.port.attention.table || chain.any marked } }

/-- The parameter-phase clean-up (R29, R52): a LOADING slot returns to FREE with its generation, the reservation comes
back to the pool in chain order, and the command ends with the outcome that caused it. -/
def Clause.cleanUps : Prop :=
  ∀ (s : State) (task : Task) (outcome : HostOutcome),
    s.claims.host = some .cleanUp → s.turnOf .host = true → s.port.engine = .cleanup task outcome →
    let served : State := { s with claims := s.hostServed, pool := { s.pool with reservation := [] } }
    (∀ slot l, s.entries[slot].occupant = .loading l →
      (∀ (other : SlotNo) l', s.entries[other].occupant = .loading l' → other = slot) →
      exec .parameterPhaseCleanUp s = .next
        ((State.returnCells { served with entries := s.entries.set slot { s.entries[slot] with occupant := .free } }
            s.pool.reservation).finish task false outcome [])) ∧
    ((∀ (slot : SlotNo) l, s.entries[slot].occupant ≠ .loading l) →
      exec .parameterPhaseCleanUp s = .next
        ((served.returnCells s.pool.reservation).finish task false outcome []))

/-- Cells that come back to the pool, and the parameter-phase clean-up (R29, R52, R58). -/
def Obligations.CleanUpGivesEverythingBack : Prop :=
  Clause.returnedCells ∧ Clause.cleanUps

/-- The conflict check on readable patterns (R8, R13, R27): it changes nothing, and it finds no conflict exactly when no
two patterns under test, and no pattern under test with one of the set, have the same run count, a common input and
windows that intersect at every index; a conflict found names such another pattern: one of the set, or one under test
that stands after a pattern it conflicts with. Which of several is named, `Clause.firstConflicts` says. -/
def Clause.readableChecks : Prop :=
  ∀ (underTest set : List Contender) (s : State),
    (∀ c ∈ underTest ++ set, ∀ k, 1 ≤ k → k ≤ c.runCount → ∃ d, s.pool.readRun c.chain k = .value d) →
    (conflictCheck underTest set s).1 = s ∧
    ((conflictCheck underTest set s).2 = .clear ↔
      underTest.Pairwise (fun p q => ¬s.conflicts p q) ∧ ∀ p ∈ underTest, ∀ q ∈ set, ¬s.conflicts p q) ∧
    (∀ other, (conflictCheck underTest set s).2 = .conflict other →
      ∃ p q, q.owner = other ∧ s.conflicts p q ∧ ((p ∈ underTest ∧ q ∈ set) ∨ [p, q].Sublist underTest))

/-- On readable patterns the conflict named is the first found (R27, R30): the pairs under test in their order, and then
each pattern under test with the set in its order; that the pairs under test come first is log entry 13 (the model's
choice). With one pattern under test it is the first of the set that conflicts. -/
def Clause.firstConflicts : Prop :=
  ∀ (underTest set : List Contender) (s : State) (other : ContenderOwner),
    (∀ c ∈ underTest ++ set, ∀ k, 1 ≤ k → k ≤ c.runCount → ∃ d, s.pool.readRun c.chain k = .value d) →
    let before := fun (i j i' j' : Nat) => i < i' ∨ i = i' ∧ j < j'
    let conflictAt := fun (l : List Contender) (i j : Nat) =>
      ∃ p q, underTest[i]? = some p ∧ l[j]? = some q ∧ s.conflicts p q
    (conflictCheck underTest set s).2 = .conflict other →
      (∃ i j, i < j ∧ conflictAt underTest i j ∧ underTest[j]?.map Contender.owner = some other ∧
        ∀ i' j', i' < j' → before i' j' i j → ¬conflictAt underTest i' j') ∨
      ((∀ i j, i < j → ¬conflictAt underTest i j) ∧
        ∃ i j, conflictAt set i j ∧ set[j]?.map Contender.owner = some other ∧
          ∀ i' j', before i' j' i j → ¬conflictAt set i' j')

/-- The order of a check (R27): in the set, the frame patterns in slot order, main before alternate, and then the repeat
patterns in group order; under test, the repeat pattern first, and then the frame patterns in slot order, main before
alternate. -/
def Clause.checkOrder : Prop :=
  ∀ s : State,
    let frame := fun (slot : SlotNo) (v : Variant) => 2 * slot.val + v.field
    let inSet := fun (x : ContenderOwner) => match x with
      | .stored (.frame slot v) => frame slot v
      | .stored (.ofGroup g) => 256 + g.val
      | .reservedFrame _ | .reservedRepeat => 0
    let underTest := fun (x : ContenderOwner) => match x with
      | .stored (.frame slot v) => 1 + frame slot v
      | .stored (.ofGroup _) | .reservedFrame _ | .reservedRepeat => 0
    (∀ excluded, (s.conflictSet excluded).Pairwise (fun c d => inSet c.owner < inSet d.owner)) ∧
    (∀ slot class_, (s.framesUnder slot class_).Pairwise (fun c d => underTest c.owner < underTest d.owner)) ∧
    ∀ g task, (s.editUnderTest g task).Pairwise (fun c d => underTest c.owner < underTest d.owner)

/-- A stored pattern in a check (R5, R9, R13, R27): its stored runs under its entry's class, or its group's repeat class,
and under its group's mask; the set holds each stored pattern once, but for those that are excluded. -/
def Clause.conflictSets : Prop :=
  ∀ s : State,
    (∀ slot v c, s.contenderOf (.frame slot v) = some c ↔
      ∃ e chain g, s.installedAt slot = some e ∧ e.chainOf v = some chain ∧ s.groups[e.group] = some g ∧
        c = { owner := .stored (.frame slot v), runCount := e.runCount, chain := chain, tolerance := e.tolerance
              inputMask := g.settings.inputMask }) ∧
    (∀ g c, s.contenderOf (.ofGroup g) = some c ↔
      ∃ group n chain, s.groups[g] = some group ∧ group.repeatPattern = some ⟨n, chain⟩ ∧
        c = { owner := .stored (.ofGroup g), runCount := n, chain := chain
              tolerance := group.settings.repeatTolerance, inputMask := group.settings.inputMask }) ∧
    (∀ excluded, ((s.conflictSet excluded).map Contender.owner).Nodup ∧
      ∀ c, c ∈ s.conflictSet excluded ↔ ∃ ref, excluded ref = false ∧ s.contenderOf ref = some c)

/-- The patterns under test, each once: those of an install in their reserved cells under its class and its group's mask
(R30); those of an entry edit under the new class, whose stored forms the set leaves out (R31); and those of a group
edit, the new repeat pattern or the kept one under the new class, and the frame patterns of the group's entries, all
under the new mask, where the set leaves out every pattern of the group (R36). -/
def Clause.patternsUnderTest : Prop :=
  ∀ s : State,
    (∀ (l : Loading) (g : Group), s.groups[l.group] = some g →
      let m := (l.runCount + 7) / 8
      let pattern := fun v chain => ({
        owner := .reservedFrame v, runCount := l.runCount, chain := chain, tolerance := l.tolerance
        inputMask := g.settings.inputMask } : Contender)
      s.installUnderTest l = pattern .main (s.pool.reservation.take m) ::
        if l.alternatePresent then [pattern .alternate (s.pool.reservation.drop m)] else []) ∧
    (∀ slot class_, ((s.framesUnder slot class_).map Contender.owner).Nodup ∧
      ∀ c, c ∈ s.framesUnder slot class_ ↔
        ∃ v d, s.contenderOf (.frame slot v) = some d ∧ c = { d with tolerance := class_ }) ∧
    (∀ slot ref, ofSlot slot ref = true ↔ ∃ v, ref = .frame slot v) ∧
    (∀ g (task : Task), ((s.editUnderTest g task).map Contender.owner).Nodup ∧
      ∀ c, c ∈ s.editUnderTest g task ↔
        (repeatChoice (task.word 0) = 0 ∧ ∃ d, s.contenderOf (.ofGroup g) = some d ∧
          c = { d with tolerance := task.settings.repeatTolerance, inputMask := task.settings.inputMask }) ∨
        (repeatChoice (task.word 0) = 1 ∧
          c = { owner := .reservedRepeat, runCount := (task.word 6).toNat, chain := s.pool.reservation
                tolerance := task.settings.repeatTolerance, inputMask := task.settings.inputMask }) ∨
        ∃ slot v e d, s.installedAt slot = some e ∧ e.group = g ∧ s.contenderOf (.frame slot v) = some d ∧
          c = { d with inputMask := task.settings.inputMask }) ∧
    (∀ g ref, s.belongsTo g ref = true ↔
      ref = .ofGroup g ∨ ∃ slot v e, ref = .frame slot v ∧ s.installedAt slot = some e ∧ e.group = g)

/-- Two windows intersect when the low bound of each is at most the high bound of the other (R6, R7, R8): a run of `d` us
under a class has the window from d less its slack, and at least 1, to d plus its slack, the larger of 40 us and the
class's share of d, rounded down. -/
def Clause.windowBounds : Prop :=
  ∀ (p q : Fin 8) (a b : Nat),
    let slack := fun (class_ : Fin 8) (d : Nat) =>
      max (d * ([6, 9, 12, 15, 18, 21, 25, 30] : List Nat)[class_] / 100) 40
    windowsIntersect p a q b = true ↔
      max (a - slack p a) 1 ≤ b + slack q b ∧ max (b - slack q b) 1 ≤ a + slack p a

/-- One read of a conflict check that meets an unreadable run (R27, R39, R40, R57): the fault is recorded, and a stored
pattern is marked damaged at once and goes on; in reserved cells it stops the check. A pair of unlike run counts, or with
no common input, is not read; any other is read index by index, both patterns, and goes on while the windows intersect or
a run is unreadable (log entry 13: the model's choice). -/
def Clause.checkReads : Prop :=
  ∀ (s : State),
    (∀ (c : Contender) (k : Nat) (cell : CellNo), s.pool.readRun c.chain k = .unreadable cell →
      let noted : State := { s with pool := { s.pool with
        cells := s.pool.cells.set cell { s.pool.cells[cell] with fault := true } } }
      (∀ ref, c.owner = .stored ref → s.checkRead c k = (none, noted.damagePattern ref, false)) ∧
      ((∀ ref, c.owner ≠ .stored ref) → s.checkRead c k = (none, noted, true))) ∧
    (∀ (c : Contender) (k d : Nat), s.pool.readRun c.chain k = .value d → s.checkRead c k = (some d, s, false)) ∧
    (∀ p q : Contender, comparePair p q s =
      if p.runCount = q.runCount ∧ p.inputMask &&& q.inputMask ≠ 0 then
        compareRuns p q ((List.range p.runCount).map (· + 1)) s
      else (s, .clear)) ∧
    (∀ (p q : Contender) (k : Nat) (ks : List Nat) (a b : Option Nat) (u v : State) (stop : Bool),
      s.checkRead p k = (a, u, stop) →
      (stop = true → compareRuns p q (k :: ks) s = (u, .unreadable)) ∧
      (stop = false → u.checkRead q k = (b, v, true) → compareRuns p q (k :: ks) s = (v, .unreadable)) ∧
      (stop = false → u.checkRead q k = (b, v, false) →
        (∀ x y, a = some x → b = some y → windowsIntersect p.tolerance x q.tolerance y = false →
          compareRuns p q (k :: ks) s = (v, .clear)) ∧
        ((∀ x y, a = some x → b = some y → windowsIntersect p.tolerance x q.tolerance y = true) →
          compareRuns p q (k :: ks) s = compareRuns p q ks v))) ∧
    ∀ p q : Contender, compareRuns p q [] s = (s, .conflict q.owner)

/-- What any conflict check answers, whatever it can read (R27): an answer without a conflict means that no pair
conflicts, an unreadable run counting as intersecting; a conflict named is one as the runs can be read after the check;
and the check stops only at an unreadable run of a pattern in reserved cells. -/
def Clause.checkAnswers : Prop :=
  ∀ (underTest set : List Contender) (s : State),
    let u := (conflictCheck underTest set s).1
    ((conflictCheck underTest set s).2 = .clear →
      underTest.Pairwise (fun p q => ¬s.conflicts p q) ∧ ∀ p ∈ underTest, ∀ q ∈ set, ¬s.conflicts p q) ∧
    (∀ other, (conflictCheck underTest set s).2 = .conflict other →
      ∃ p q, q.owner = other ∧ u.conflicts p q ∧ ((p ∈ underTest ∧ q ∈ set) ∨ [p, q].Sublist underTest)) ∧
    ((conflictCheck underTest set s).2 = .unreadable →
      ∃ c ∈ underTest ++ set, (∀ ref, c.owner ≠ .stored ref) ∧
        ∃ k cell, 1 ≤ k ∧ k ≤ c.runCount ∧ u.pool.readRun c.chain k = .unreadable cell ∧
          u.pool.cells[cell].fault = true)

/-- The two result words of CONFLICT (R181): 1 or 2 with the handle of the entry whose main or alternate pattern is named,
3 with the group of a repeat pattern, or 4 with 0xFFFF for the alternate being installed. -/
def Clause.conflictWordsShown : Prop :=
  ∀ (s : State) (slot : SlotNo) (g : GroupNo),
    let handle : Word := BitVec.ofNat 16 (s.entries[slot].generation.val * 256 + slot.val)
    s.conflictResult (.stored (.frame slot .main)) = [1, handle] ∧
    s.conflictResult (.stored (.frame slot .alternate)) = [2, handle] ∧
    s.conflictResult (.stored (.ofGroup g)) = [3, BitVec.ofNat 16 g.val] ∧
    s.conflictResult (.reservedFrame .alternate) = [4, 0xFFFF]

/-- Law 2 of the device: every step keeps the stored patterns free of conflict, with each cell in its place, the entry
counts and what the command in progress has made sure of. -/
def Clause.stepKeepsConflictLaw : Prop :=
  ∀ s t : State, s.HostClaimLaw → s.TestLaw → s.WorkLaw → s.CountLaw → s.PlaceLaw → s.ConflictLaw →
    step s = .next t → t.ConflictLaw

/-- The conflict check with the patterns it compares, its reads and its answers, the windows and the words of CONFLICT, and
law 2, which it keeps (R6 to R8, R13, R27, R30, R31, R36, R181). -/
def Obligations.ConflictCheckFindsWindowOverlaps : Prop :=
  Clause.readableChecks ∧ Clause.firstConflicts ∧ Clause.checkOrder ∧ Clause.checkReads ∧ Clause.checkAnswers ∧
    Clause.windowBounds ∧ Clause.conflictSets ∧ Clause.patternsUnderTest ∧ Clause.conflictWordsShown ∧
    Clause.stepKeepsConflictLaw

/-- The install final step (R30, R51, R187): on success the generation advances, the entry is ACTIVE and owns the
reserved cells, main then alternate join the tail of their bin, the group's count rises and the handle is the result; a
conflict or an unreadable run frees the slot with its generation and returns the cells. `u` is what the conflict check
left. -/
def Obligations.InstallFinalStepInstallsOrRefuses : Prop :=
  ∀ (s u : State) (task : Task) (held : Bool) (slot : SlotNo) (l : Loading) (verdict : CheckVerdict),
    s.AtStep .installFinal task held → s.entries[slot].occupant = .loading l →
    (∀ (other : SlotNo) l', s.entries[other].occupant = .loading l' → other = slot) →
    (let served : State := { s with claims := s.hostServed }
     conflictCheck (served.installUnderTest l) (served.conflictSet (fun _ => false)) served = (u, verdict)) →
    let m := (l.runCount + 7) / 8
    let gen : Fin 16 := if s.entries[slot].generation = 15 then 1 else s.entries[slot].generation + 1
    let freed : State := { u with entries := u.entries.set slot { u.entries[slot] with occupant := .free } }
    (∀ other, verdict = .conflict other → exec .installFinalStep s = .next
      (freed.returnReservation.finish task held .conflict (u.conflictResult other))) ∧
    (verdict = .unreadable → exec .installFinalStep s = .next
      (freed.returnReservation.finish task held .entryDamaged [])) ∧
    (verdict = .clear → ∀ g, u.groups[l.group] = some g → ∃ t : State,
      exec .installFinalStep s = .next (t.finish task held .ok [BitVec.ofNat 16 (gen.val * 256 + slot.val)]) ∧
      t = { u with
        entries := u.entries.set slot { generation := gen, occupant := .installed {
          status := .active, group := l.group, key := l.key, tolerance := l.tolerance, runCount := l.runCount
          main := u.pool.reservation.take m
          alternate := if l.alternatePresent then some (u.pool.reservation.drop m) else none
          mainDamaged := false, alternateDamaged := false } }
        groups := u.groups.set l.group (some { g with entryCount := g.entryCount + 1 })
        pool := { u.pool with cells := t.pool.cells, reservation := [] }
        bins := t.bins } ∧
      (∀ c : CellNo, t.pool.cells[c] = if c ∈ u.pool.reservation then
          { u.pool.cells[c] with condition := .owned }
        else u.pool.cells[c]) ∧
      ((binOf l.runCount).isSome = true → ∀ n, t.binList n = if n = l.runCount then
          u.binList n ++ .frame slot .main :: (if l.alternatePresent then [.frame slot .alternate] else [])
        else u.binList n))

/-- GROUP DEFINE's final step (R35, R184) makes the group DEFINED with its fields, count 0 and REPEAT_DAMAGED clear, a
supplied repeat pattern owning the reserved cells and joining its bin, and clears the group's toggle bits; without a
repeat pattern a group already DEFINED is refused. GROUP REMOVE (R38) undoes it, unless entries name the group. -/
def Obligations.GroupsAreDefinedAndRemoved : Prop :=
  ∀ (s : State) (task : Task) (held : Bool),
    let g := argGroup task.arg
    let served : State := { s with claims := s.hostServed }
    let untoggled := fun (x : Output) => { x with toggle := x.toggle &&& ~~~(BitVec.twoPow 16 g.val) }
    (s.AtStep .groupDefineFinal task held →
      let fresh : Group := { settings := task.settings, repeatPattern := none, repeatDamaged := false, entryCount := 0 }
      (repeatChoice (task.word 0) ≠ 1 → s.groups[g] ≠ none →
        exec .groupDefineFinalStep s = .next (served.finish task held .groupDefined [])) ∧
      (repeatChoice (task.word 0) ≠ 1 → s.groups[g] = none → exec .groupDefineFinalStep s = .next
        (State.finish { served with
            groups := s.groups.set g (some fresh), outputs := s.outputs.map untoggled } task held .ok [])) ∧
      (∀ u verdict, repeatChoice (task.word 0) = 1 →
        conflictCheck [{ owner := .reservedRepeat, runCount := (task.word 6).toNat, chain := s.pool.reservation
                         tolerance := task.settings.repeatTolerance, inputMask := task.settings.inputMask }]
          (served.conflictSet (fun _ => false)) served = (u, verdict) →
        (∀ other, verdict = .conflict other → exec .groupDefineFinalStep s = .next
          (u.returnReservation.finish task held .conflict (u.conflictResult other))) ∧
        (verdict = .unreadable → exec .groupDefineFinalStep s = .next
          (u.returnReservation.finish task held .entryDamaged [])) ∧
        (verdict = .clear → exec .groupDefineFinalStep s = .next
          ((State.joinBin { u with
              groups := u.groups.set g (some { fresh with
                repeatPattern := some ⟨(task.word 6).toNat, s.pool.reservation⟩ })
              pool := u.pool.ownReservation, outputs := u.outputs.map untoggled }
            (task.word 6).toNat (.ofGroup g)).finish task held .ok [])))) ∧
    (s.AtStep .groupRemove task held →
      (s.groups[g] = none → exec .groupRemoveStep s = .next (served.finish task held .noSuchGroup [])) ∧
      (∀ group, s.groups[g] = some group → 0 < group.entryCount →
        exec .groupRemoveStep s = .next (served.finish task held .groupNotEmpty [])) ∧
      (∀ group, s.groups[g] = some group → group.entryCount = 0 →
        ∃ t : State, exec .groupRemoveStep s = .next (t.finish task held .ok []) ∧
          t = { served with
            groups := s.groups.set g none, outputs := s.outputs.map untoggled, bins := t.bins
            mail := { s.mail with releases := s.mail.releases ++ group.repeatPattern.toList.map Pattern.chain } } ∧
          ∀ n, t.binList n = if group.repeatPattern.map Pattern.runCount = some n then
              (s.binList n).filter (fun r => decide (r ≠ .ofGroup g))
            else s.binList n))

/-- GROUP EDIT's final step (R36, R37, R185). `u` is what the conflict check left. An accepted edit writes the settings;
a replaced or removed repeat pattern leaves its bin and is released, a new one owns the reserved cells and joins its
bin, and REPEAT_DAMAGED is then clear; a kept one keeps its mark and its place; the group-changed notice is sent. -/
def Obligations.GroupEditChangesTheGroupWhole : Prop :=
  ∀ (s u : State) (task : Task) (held : Bool) (verdict : CheckVerdict), s.AtStep .groupEditFinal task held →
    let g := argGroup task.arg
    let served : State := { s with claims := s.hostServed }
    let choice := repeatChoice (task.word 0)
    (s.groups[g] = none → exec .groupEditFinalStep s = .next (served.finish task held .noSuchGroup [])) ∧
    (s.groups[g] ≠ none →
      conflictCheck (served.editUnderTest g task) (served.conflictSet (served.belongsTo g)) served = (u, verdict) →
      (∀ other, verdict = .conflict other → exec .groupEditFinalStep s = .next
        (u.returnReservation.finish task held .conflict (u.conflictResult other))) ∧
      (verdict = .unreadable → exec .groupEditFinalStep s = .next
        (u.returnReservation.finish task held .entryDamaged [])) ∧
      (∀ group, verdict = .clear → u.groups[g] = some group → ∃ t : State,
        exec .groupEditFinalStep s = .next (t.finish task held .ok []) ∧
        t = { u with
          groups := t.groups, bins := t.bins, pool := t.pool
          mail := { u.mail with
            path := u.mail.path ++ [.groupChanged g]
            releases := u.mail.releases ++
              if choice = 0 then [] else group.repeatPattern.toList.map Pattern.chain } } ∧
        (choice = 0 → t.groups = u.groups.set g (some { group with settings := task.settings }) ∧ t.bins = u.bins ∧
          t.pool = u.pool) ∧
        (choice = 1 →
          t.groups = u.groups.set g (some { group with
            settings := task.settings, repeatDamaged := false
            repeatPattern := some ⟨(task.word 6).toNat, u.pool.reservation⟩ }) ∧
          t.pool = u.pool.ownReservation ∧
          ((binOf (task.word 6).toNat).isSome = true → ∀ n, t.binList n =
            (if group.repeatPattern.map Pattern.runCount = some n then
                (u.binList n).filter (fun r => decide (r ≠ .ofGroup g))
              else u.binList n) ++ (if n = (task.word 6).toNat then [.ofGroup g] else []))) ∧
        (choice = 2 →
          t.groups = u.groups.set g (some { group with
            settings := task.settings, repeatDamaged := false, repeatPattern := none }) ∧
          t.pool = u.pool ∧
          ∀ n, t.binList n = if group.repeatPattern.map Pattern.runCount = some n then
              (u.binList n).filter (fun r => decide (r ≠ .ofGroup g))
            else u.binList n)))

/-- ENTRY EDIT's step (R31, R188): NO_SUCH_ENTRY, ENTRY_DAMAGED and DUPLICATE_KEY in this order with nothing changed; a
changed class goes through the conflict check with the entry's own patterns under test; on success the new key value and
class are written, and where the check has marked the entry itself the outcome is ENTRY_DAMAGED with nothing written. -/
def Obligations.EntryEditTestsThenWrites : Prop :=
  ∀ (s : State) (task : Task) (held : Bool), s.AtStep .entryEdit task held →
    let served : State := { s with claims := s.hostServed }
    let w := task.word 1
    (s.currentWord (task.word 0) = none →
      exec .entryEditStep s = .next (served.finish task held .noSuchEntry [])) ∧
    (∀ h e, s.currentWord (task.word 0) = some (h, e) → e.status = .damaged →
      exec .entryEditStep s = .next (served.finish task held .entryDamaged [])) ∧
    (∀ h e key class_, s.currentWord (task.word 0) = some (h, e) → e.status ≠ .damaged →
      key = (if w.getLsbD 0 then task.word 2 else e.key) →
      class_ = (if w.getLsbD 1 then Fin.ofNat 8 (w.toNat / 256) else e.tolerance) →
      let duplicate := key ≠ e.key ∧
        ∃ slot : SlotNo, slot ≠ h.slot ∧ s.entries[slot].occupant.holdsKey e.group key = true
      let written : Installed := { e with key := key, tolerance := class_ }
      (duplicate → exec .entryEditStep s = .next (served.finish task held .duplicateKey [])) ∧
      (¬duplicate → class_ = e.tolerance → exec .entryEditStep s = .next
        (State.finish { served with
            entries := s.entries.set h.slot { s.entries[h.slot] with occupant := .installed written } }
          task held .ok [])) ∧
      (∀ u verdict, ¬duplicate → class_ ≠ e.tolerance →
        conflictCheck (served.framesUnder h.slot class_) (served.conflictSet (ofSlot h.slot)) served = (u, verdict) →
        (∀ other, verdict = .conflict other →
          exec .entryEditStep s = .next (u.finish task held .conflict (u.conflictResult other))) ∧
        (∀ e', verdict = .clear → u.installedAt h.slot = some e' → e'.status = .damaged →
          exec .entryEditStep s = .next (u.finish task held .entryDamaged [])) ∧
        (verdict = .clear → u.installedAt h.slot = some e → exec .entryEditStep s = .next
          (State.finish { u with
              entries := u.entries.set h.slot { u.entries[h.slot] with occupant := .installed written } }
            task held .ok []))))

/-- ENTRY SUSPEND, RESUME and RETIRE (R32, R33, R34, R189). A handle that is not current is refused NO_SUCH_ENTRY, and by
SUSPEND and RESUME a DAMAGED entry ENTRY_DAMAGED. SUSPEND makes an ACTIVE entry SUSPENDED, takes its patterns out of their
bin and sends the entry-suspended notice; RESUME makes a SUSPENDED entry ACTIVE and puts its main pattern and then its
alternate at the tail of their bin; an entry already so is answered OK with no change. RETIRE frees the slot with its
generation, takes the patterns of an ACTIVE entry out of their bin, releases both chains, main before alternate, lowers
the group's entry count by one and sends the entry-retired notice to the press tracker and the relay unit. -/
def Obligations.EntriesSuspendResumeAndRetire : Prop :=
  ∀ (s : State) (task : Task) (held : Bool) (i : Instr) (step : HostStep),
    (i = .suspend ∧ step = .suspend) ∨ (i = .resume ∧ step = .resume) ∨ (i = .retire ∧ step = .retire) →
    s.AtStep step task held →
    let served : State := { s with claims := s.hostServed }
    let without := fun (slot : SlotNo) (l : List PatternRef) =>
      l.filter (fun r => decide (r ≠ .frame slot .main) && decide (r ≠ .frame slot .alternate))
    (s.currentWord (task.word 0) = none → exec i s = .next (served.finish task held .noSuchEntry [])) ∧
    (∀ h e, s.currentWord (task.word 0) = some (h, e) →
      (i ≠ .retire → e.status = .damaged → exec i s = .next (served.finish task held .entryDamaged [])) ∧
      (i = .suspend → e.status = .suspended → exec i s = .next (served.finish task held .ok [])) ∧
      (i = .resume → e.status = .active → exec i s = .next (served.finish task held .ok [])) ∧
      (i = .suspend → e.status = .active → ∃ t : State, exec i s = .next (t.finish task held .ok []) ∧
        t = { served with
          entries := s.entries.set h.slot
            { s.entries[h.slot] with occupant := .installed { e with status := .suspended } }
          bins := t.bins
          mail := { s.mail with path := s.mail.path ++ [.entrySuspended h] } } ∧
        ∀ n, t.binList n = if n = e.runCount then without h.slot (s.binList n) else s.binList n) ∧
      (i = .resume → e.status = .suspended → ∃ t : State, exec i s = .next (t.finish task held .ok []) ∧
        t = { served with
          entries := s.entries.set h.slot
            { s.entries[h.slot] with occupant := .installed { e with status := .active } }
          bins := t.bins } ∧
        ((binOf e.runCount).isSome = true → ∀ n, t.binList n = if n = e.runCount then
            s.binList n ++ .frame h.slot .main :: (if e.alternate.isSome then [.frame h.slot .alternate] else [])
          else s.binList n)) ∧
      (i = .retire → ∀ g, s.groups[e.group] = some g → ∃ t : State, exec i s = .next (t.finish task held .ok []) ∧
        t = { served with
          entries := s.entries.set h.slot { s.entries[h.slot] with occupant := .free }
          bins := t.bins
          groups := s.groups.set e.group (some { g with entryCount := g.entryCount - 1 })
          mail := { s.mail with
            path := s.mail.path ++ [.entryRetired h], retires := s.mail.retires ++ [h]
            releases := s.mail.releases ++ e.main :: e.alternate.toList } } ∧
        ∀ n, t.binList n = if n = e.runCount ∧ e.status = .active then without h.slot (s.binList n)
          else s.binList n))

/-- ENTRY READ and GROUP READ return what is stored (R43, R186, R190): with every run readable they change nothing and
the words are the header, the fields and the runs in order. -/
def Clause.readableReads : Prop :=
  ∀ (s : State) (task : Task) (held : Bool),
    let served : State := { s with claims := s.hostServed }
    let runs := fun (chain : List CellNo) (values : List Nat) =>
      ∀ k, (h : k < values.length) → s.pool.readRun chain (k + 1) = .value values[k]
    (s.AtStep .entryRead task held →
      (s.currentWord (task.word 0) = none → exec .entryReadStep s = .next (served.finish task held .noSuchEntry [])) ∧
      (∀ h e mains alternates, s.currentWord (task.word 0) = some (h, e) →
        mains.length = e.runCount → runs e.main mains →
        (match e.alternate with
          | none => alternates = []
          | some chain => alternates.length = e.runCount ∧ runs chain alternates) →
        exec .entryReadStep s = .next (served.finish task held (if e.status = .damaged then .entryDamaged else .ok)
          (BitVec.ofNat 16 (e.status.field * 2 ^ 14 + (if e.alternate.isSome then 2 ^ 13 else 0)
              + (if e.mainDamaged then 2 ^ 12 else 0) + (if e.alternateDamaged then 2 ^ 11 else 0)
              + e.tolerance.val * 2 ^ 8 + e.group.val * 2 ^ 4 + h.gen.val)
            :: e.key :: BitVec.ofNat 16 e.runCount :: (mains ++ alternates).map (BitVec.ofNat 16))))) ∧
    (s.AtStep .groupRead task held →
      let g := argGroup task.arg
      (s.groups[g] = none → exec .groupReadStep s = .next (served.finish task held .noSuchGroup [])) ∧
      (∀ group, s.groups[g] = some group → group.repeatPattern = none → exec .groupReadStep s = .next
        (served.finish task held .ok
          (BitVec.ofNat 16 ((if group.repeatDamaged then 2 ^ 14 else 0) + group.entryCount)
            :: settingsWords group.settings false))) ∧
      (∀ group n chain values, s.groups[g] = some group → group.repeatPattern = some ⟨n, chain⟩ →
        values.length = n → runs chain values →
        exec .groupReadStep s = .next (served.finish task held .ok
          (BitVec.ofNat 16 ((if group.repeatDamaged then 2 ^ 14 else 0) + 2 ^ 13 + group.entryCount)
            :: settingsWords group.settings true ++ BitVec.ofNat 16 n :: values.map (BitVec.ofNat 16)))))

/-- The runs of a stored pattern are read to the last (R43): a readable run gives its duration; an unreadable one gives
0, the fault is recorded on its cell, and the pattern's owner is marked damaged before the next run. -/
def Clause.patternReads : Prop :=
  ∀ (s : State) (ref : PatternRef) (chain : List CellNo),
    s.readPattern ref chain 0 = (s, []) ∧
    ∀ n,
      let u := (s.readPattern ref chain n).1
      let words := (s.readPattern ref chain n).2
      (∀ d, u.pool.readRun chain (n + 1) = .value d →
        s.readPattern ref chain (n + 1) = (u, words ++ [BitVec.ofNat 16 d])) ∧
      (∀ c : CellNo, u.pool.readRun chain (n + 1) = .unreadable c →
        s.readPattern ref chain (n + 1) =
          (State.damagePattern { u with pool := { u.pool with
            cells := u.pool.cells.set c { u.pool.cells[c] with fault := true } } } ref, words ++ [0]))

/-- ENTRY READ and GROUP READ whatever their runs are (R43, R57, R186, R190): the header shows the entry, or the group, as
it stands when the last run has been read, and a DAMAGED entry is answered ENTRY_DAMAGED with all its words. -/
def Clause.faultedReads : Prop :=
  ∀ (s : State) (task : Task) (held : Bool),
    let served : State := { s with claims := s.hostServed }
    (s.AtStep .entryRead task held → ∀ h e, s.currentWord (task.word 0) = some (h, e) →
      let first := served.readPattern (.frame h.slot .main) e.main e.runCount
      let whole := match e.alternate with
        | none => first
        | some chain =>
          let second := first.1.readPattern (.frame h.slot .alternate) chain e.runCount
          (second.1, first.2 ++ second.2)
      ∃ after, whole.1.installedAt h.slot = some after ∧
        exec .entryReadStep s = .next (whole.1.finish task held (if after.status = .damaged then .entryDamaged else .ok)
          (BitVec.ofNat 16 (after.status.field * 2 ^ 14 + (if e.alternate.isSome then 2 ^ 13 else 0)
              + (if after.mainDamaged then 2 ^ 12 else 0) + (if after.alternateDamaged then 2 ^ 11 else 0)
              + e.tolerance.val * 2 ^ 8 + e.group.val * 2 ^ 4 + h.gen.val)
            :: e.key :: BitVec.ofNat 16 e.runCount :: whole.2))) ∧
    (s.AtStep .groupRead task held →
      let g := argGroup task.arg
      ∀ group n chain, s.groups[g] = some group → group.repeatPattern = some ⟨n, chain⟩ →
        let whole := served.readPattern (.ofGroup g) chain n
        ∃ after, whole.1.groups[g] = some after ∧
          exec .groupReadStep s = .next (whole.1.finish task held .ok
            (BitVec.ofNat 16 ((if after.repeatDamaged then 2 ^ 14 else 0) + 2 ^ 13 + group.entryCount)
              :: settingsWords group.settings true ++ BitVec.ofNat 16 n :: whole.2)))

/-- ENTRY READ and GROUP READ, with readable and with unreadable runs (R43, R186, R190). -/
def Obligations.ReadStepsReturnWhatIsStored : Prop :=
  Clause.readableReads ∧ Clause.patternReads ∧ Clause.faultedReads

/-- ENTRY FIND, ENTRY LIST and TABLE STATUS (R44, R182, R191) change no table record: the handle of the entry of a group
and key value, the count and handles of a group's entries in slot order, and the ten counts, after which ATTENTION TABLE
is clear. -/
def Obligations.FindListAndStatusChangeNoRecord : Prop :=
  ∀ (s : State) (task : Task) (held : Bool),
    let g := argGroup task.arg
    let served : State := { s with claims := s.hostServed }
    let handle := fun (slot : SlotNo) => (BitVec.ofNat 16 (s.entries[slot].generation.val * 256 + slot.val) : Word)
    (s.AtStep .entryFind task held →
      (s.groups[g] = none → exec .entryFindStep s = .next (served.finish task held .noSuchGroup [])) ∧
      (∀ slot e, s.groups[g] ≠ none → s.installedAt slot = some e → e.group = g → e.key = task.word 0 →
        (∀ other e', s.installedAt other = some e' → e'.group = g → e'.key = task.word 0 → other = slot) →
        exec .entryFindStep s = .next (served.finish task held .ok [handle slot])) ∧
      (s.groups[g] ≠ none → (∀ slot e, s.installedAt slot = some e → ¬(e.group = g ∧ e.key = task.word 0)) →
        exec .entryFindStep s = .next (served.finish task held .noSuchEntry [0xFFFF]))) ∧
    (s.AtStep .entryList task held →
      (s.groups[g] = none → exec .entryListStep s = .next (served.finish task held .noSuchGroup [])) ∧
      (∀ slots : List SlotNo, s.groups[g] ≠ none → slots.Pairwise (· < ·) →
        (∀ slot, slot ∈ slots ↔ ∃ e, s.installedAt slot = some e ∧ e.group = g) →
        exec .entryListStep s = .next
          (served.finish task held .ok (BitVec.ofNat 16 slots.length :: slots.map handle)))) ∧
    (s.AtStep .tableStatus task held →
      let cells := fun cond => (BitVec.ofNat 16 ((List.finRange 768).countP (fun (c : CellNo) =>
        decide (s.pool.cells[c].condition = cond))) : Word)
      let entries := fun (want : Occupant → Bool) => (BitVec.ofNat 16 ((List.finRange 128).countP (fun (slot : SlotNo) =>
        want s.entries[slot].occupant)) : Word)
      let inState := fun st => entries (fun
        | .installed e => decide (e.status = st)
        | _ => false)
      exec .tableStatusStep s = .next
        (State.finish { served with port := { s.port with attention := { s.port.attention with table := false } } }
          task held .ok
          [cells .free, cells .reserved, cells .owned, cells .returning, cells .withheld,
           entries (fun x => decide (x = .free)), inState .active, inState .suspended, inState .damaged,
           BitVec.ofNat 16 ((List.finRange 16).countP (fun (k : GroupNo) => match s.groups[k] with
             | some group => group.repeatDamaged
             | none => false))]))

/-- The handle check (R125, R136, R195, R198): RELAY SET wants both handles current; SEND and HOLD START want the handle
current and the entry not DAMAGED. A failure ends the command; a passed check leaves the command in EXECUTE for its
block, or the block takes its request in the same step (log entry 19: the model's choice). -/
def Obligations.HandleChecksGuardTheRequests : Prop :=
  ∀ (s : State) (task : Task) (held : Bool) (later : Bool), s.AtStep .handleCheck task held →
    let served : State := { s with claims := s.hostServed }
    let fails := fun outcome => exec (.handleCheck later) s = .next (served.finish task held outcome [])
    let passes := fun request =>
      (later = true → exec (.handleCheck later) s = .next served) ∧
      (later = false → exec (.handleCheck later) s = exec request served)
    (task.command = .relaySet →
      (s.currentWord (task.word 0) = none ∨ s.currentWord (task.word 1) = none → fails .noSuchEntry) ∧
      (s.currentWord (task.word 0) ≠ none → s.currentWord (task.word 1) ≠ none → passes (.relaySet .request))) ∧
    (∀ request, (task.command = .send ∧ request = .send .request) ∨
        (task.command = .holdStart ∧ request = .holdStart .request) →
      (s.currentWord (task.word 0) = none → fails .noSuchEntry) ∧
      (∀ h e, s.currentWord (task.word 0) = some (h, e) → e.status = .damaged → fails .entryDamaged) ∧
      (∀ h e, s.currentWord (task.word 0) = some (h, e) → e.status ≠ .damaged → passes request))

/-- The INITIALIZE table step (R46, R59, R81, R96, R121, R132, R157, R177): tables, presses, relay records, queues,
claims, messages and ATTENTION are emptied, every cell is TESTING, generations and configurations stay, inputs that are
not OFF are DISCARDING and outputs that are not OFF are IDLE, and the memory test begins. That the messages not yet taken
go too is log entry 20 (the model's choice). -/
def Obligations.InitializeEmptiesThePart : Prop :=
  ∀ (s : State) (task : Task) (held : Bool), s.AtStep .initializeTable task held →
    ∃ t, exec .initializeTableStep s = .next t ∧
      t = { s with
        memoryTest := some s.timebase, entries := t.entries, groups := Vector.replicate 16 none
        bins := Vector.replicate 63 [], claims := t.claims, working := none, pool := t.pool, inputs := t.inputs
        tracker := t.tracker, relays := Vector.replicate 64 none, outputs := t.outputs, mail := Mail.empty
        port := { s.port with attention := Attention.clear } } ∧
      (∀ slot : SlotNo, t.entries[slot] = { s.entries[slot] with occupant := .free }) ∧
      (∀ p : Position, t.claims.waiting p = false) ∧ t.claims.last = .host ∧
      (∀ c : CellNo, t.pool.cells[c] = { s.pool.cells[c] with condition := .testing, fault := false, refs := 0 }) ∧
      t.pool.freeList = [] ∧ t.pool.returnList = [] ∧ t.pool.reservation = [] ∧
      (∀ i : InputId, t.inputs[i] = { s.inputs[i] with
        held := none, sticky := InputSticky.clear, assembler := t.inputs[i].assembler } ∧
        t.inputs[i].assembler = if s.inputs[i].config.kind = .off then .off
          else .discarding { spaceSince := none, tentative := none, untilQuiet := false }) ∧
      (∀ r : PressNo, t.tracker.presses[r] = none) ∧ t.tracker.reportList = [] ∧ t.tracker.sequence = 0 ∧
      (∀ o : OutputId, t.outputs[o] = {
        config := s.outputs[o].config, state := if s.outputs[o].config.kind = .off then .off else .idle, queue := []
        toggle := 0, completion := none, hostDone := false, relayRefused := false, damageSeen := false })

/-! ## Requests to the cell pool -/

/-- A released chain (R55, R56): without output references its cells come back; with references every cell becomes
RETURNING, its fault mark kept, and the chain joins the tail of the return list with its reference set. -/
def Clause.releasedChains : Prop :=
  ∀ (s : State) (first : CellNo) (others : List CellNo) (rest : List (List CellNo)),
    let chain := first :: others
    let refs := s.pool.cells[first].refs
    s.mail.releases = chain :: rest →
    let taken : State := { s with mail := { s.mail with releases := rest } }
    (refs = 0 → exec .chainRelease s = .next (taken.returnCells chain)) ∧
    (refs ≠ 0 → ∃ t, exec .chainRelease s = .next t ∧
      t = { taken with pool := { s.pool with
        cells := t.pool.cells, returnList := s.pool.returnList ++ [⟨chain, refs⟩] } } ∧
      ∀ c : CellNo, t.pool.cells[c] = if c ∈ chain then { s.pool.cells[c] with condition := .returning }
        else s.pool.cells[c])

/-- An output's references leave a chain (R54): OWNED cells lose the reference and stay; a chain on the return list
whose other output still reads it stays there without this output; when this was the last reference the chain leaves the
list and its cells come back. -/
def Clause.removedReferences : Prop :=
  ∀ (s : State) (o : OutputId) (chain : List CellNo), s.mail.removals[o] = some chain →
    ∃ u : State,
      u = { s with
        mail := { s.mail with removals := s.mail.removals.set o none }
        pool := { s.pool with cells := u.pool.cells } } ∧
      (∀ c : CellNo, u.pool.cells[c] = { s.pool.cells[c] with
        refs := if c ∈ chain then OutputMask.remove s.pool.cells[c].refs o else s.pool.cells[c].refs }) ∧
      ((∀ r ∈ s.pool.returnList, r.chain ≠ chain) → exec (.referenceRemoval o) s = .next u) ∧
      (∀ front behind refs, s.pool.returnList = front ++ ⟨chain, refs⟩ :: behind →
        (∀ r ∈ front ++ behind, r.chain ≠ chain) →
        (OutputMask.remove refs o ≠ 0 → exec (.referenceRemoval o) s = .next
          { u with pool := { u.pool with
            returnList := front ++ ⟨chain, OutputMask.remove refs o⟩ :: behind } }) ∧
        (OutputMask.remove refs o = 0 → exec (.referenceRemoval o) s = .next
          (State.returnCells { u with pool := { u.pool with returnList := front ++ behind } } chain)))

/-- CHAIN_RELEASE and REFERENCE_REMOVAL (R54, R55, R56). -/
def Obligations.ChainsReturnToThePool : Prop :=
  Clause.releasedChains ∧ Clause.removedReferences

/-! ## Receive inputs -/

/-- LINE_TRANSITION (R65, R66, R68, R69, R70, R73, R76). An input that does not watch its line only notes the level and
the time. One that does, with none of its own events overdue, counts an edge inside a raw mark, begins a raw mark at a
transition into the active level, ends it on an ENVELOPE input at the transition out of it, and on a CARRIER input only
notes a transition out of it within 70 us of the latest active edge. -/
def Clause.lineTransitions : Prop :=
  ∀ (i : InputId) (t : Time) (s : State),
    let now := max s.timebase t
    let u := s.advanceTo t
    let x := s.inputs[i]
    let put := fun (y : Input) => ({ u with inputs := s.inputs.set i y } : State)
    let noted : Input := { x with line :=
      if x.line.high then { x.line with high := false, lastFall := some now }
      else { x.line with high := true, lastRise := some now } }
    let active := x.config.polarity = .activeHigh ↔ x.line.high = false
    (s.watching i = false → exec (.lineTransition i t) s = .next (put noted)) ∧
    (s.watching i = true → x.floorReached now = none → x.stuckDue now = false → x.gapOverdue now = false →
      x.endGapDue now = none → x.discardGapDue now = false →
      (active → x.raw.mark = true → exec (.lineTransition i t) s = .next
        (put { noted with raw := { x.raw with edges := x.raw.edges + 1 } })) ∧
      (active → x.raw.mark = false → exec (.lineTransition i t) s = .next (put { noted with
        raw := { mark := true, since := now, edges := 1, firstEdge := now }
        assembler := match x.assembler with
          | .off => .off
          | .blanked => .blanked
          | .waiting _ => .waiting (some now)
          | .assembling a => .assembling { a with tentative := match a.openRun with
              | .mark _ => none
              | .space _ => some now }
          | .discarding d => .discarding { d with tentative := some now } })) ∧
      (¬active → x.config.kind = .envelope →
        (∀ a, x.assembler = .assembling a → a.estimated = true) →
        (∀ d, x.assembler = .discarding d → d.spaceSince ≠ none ∨ d.tentative ≠ none) →
        exec (.lineTransition i t) s = .next (put { noted with
          raw := { mark := false, since := now, edges := 0, firstEdge := 0 }
          assembler := match x.assembler with
            | .off => .off
            | .blanked => .blanked
            | .waiting _ => .waiting none
            | .assembling a => .assembling { a with tentative := match a.openRun with
                | .mark _ => some now
                | .space _ => none }
            | .discarding d => .discarding { d with tentative := none } })) ∧
      (¬active → x.config.kind = .carrier → (∀ e, lastActiveEdge x.config x.line = some e → now < e + 70) →
        lastActiveEdge x.config x.line ≠ none → exec (.lineTransition i t) s = .next (put noted)))

/-- CARRIER_GAP (R66, R67, R69): the line of a CARRIER input is inactive and 70 us have passed since the latest active
edge: the raw mark ends at the latest transition to the inactive level; in a burst it becomes a tentative space, and the
first raw mark of the burst gives the carrier estimate. -/
def Clause.carrierGaps : Prop :=
  ∀ (i : InputId) (t : Time) (s : State) (e f : Time),
    let now := max s.timebase t
    let u := s.advanceTo t
    let x := s.inputs[i]
    s.watching i = true → x.config.kind = .carrier → x.raw.mark = true → lineActive x.config x.line = false →
    lastActiveEdge x.config x.line = some e → lastInactiveEdge x.config x.line = some f →
    (now < e + 70 → exec (.carrierGap i t) s = .next u) ∧
    (e + 70 ≤ now → ∃ y : Input, exec (.carrierGap i t) s = .next { u with inputs := s.inputs.set i y } ∧
      y = { x with raw := { mark := false, since := f, edges := 0, firstEdge := 0 }, assembler := y.assembler } ∧
      (∀ v, x.assembler = .waiting v → y.assembler = .waiting none) ∧
      (∀ a start, x.assembler = .assembling a → a.openRun = .mark start →
        (a.estimated = true → y.assembler = .assembling { a with tentative := some f }) ∧
        (a.estimated = false → y.assembler = .assembling { a with
          tentative := some f, estimated := true, estimate := carrierEstimate x.raw.edges (e - x.raw.firstEdge) })) ∧
      (∀ a start, x.assembler = .assembling a → a.openRun = .space start → a.estimated = true →
        y.assembler = .assembling { a with tentative := none }))

/-- Where no raw mark of a CARRIER input waits for its gap, CARRIER_GAP changes nothing but the time (R66; log entry 2: the
model's choice). -/
def Clause.noCarrierGap : Prop :=
  ∀ (i : InputId) (t : Time) (s : State),
    let x := s.inputs[i]
    s.watching i = false ∨ x.config.kind ≠ .carrier ∨ x.raw.mark = false ∨ lineActive x.config x.line = true →
    exec (.carrierGap i t) s = .next (s.advanceTo t)

/-- The end of a raw mark, its end being `e` (R65 to R70, R73, R77): a raw space begins; a burst under assembly takes it as
a tentative space or loses its tentative mark, and its first raw mark gives the carrier estimate; DISCARDING with no
measure running starts its end-gap measure at `e`, or, behind a line that was not quiet, when the line is quiet again:
a CARRIER line 71 us after its latest active edge (log entries 17, 18). -/
def Clause.markEndings : Prop :=
  ∀ (x : Input) (e : Time),
    let y := x.endMark e
    y = { x with raw := { mark := false, since := e, edges := 0, firstEdge := 0 }, assembler := y.assembler } ∧
    (x.assembler = .off ∨ x.assembler = .blanked → y.assembler = x.assembler) ∧
    (∀ v, x.assembler = .waiting v → y.assembler = .waiting none) ∧
    (∀ a, x.assembler = .assembling a →
      let estimated : Assembly := if a.estimated then a else { a with
        estimated := true
        estimate := carrierEstimate x.raw.edges
          ((lastActiveEdge x.config x.line).getD x.raw.firstEdge - x.raw.firstEdge) }
      y.assembler = .assembling { estimated with tentative := match a.openRun with
        | .mark _ => some e
        | .space _ => none }) ∧
    (∀ d, x.assembler = .discarding d →
      (d.spaceSince ≠ none ∨ d.tentative ≠ none → y.assembler = .discarding { d with tentative := none }) ∧
      (d.spaceSince = none → d.tentative = none →
        ∃ start, y.assembler = .discarding { spaceSince := some start, tentative := none, untilQuiet := false } ∧
          (d.untilQuiet = false ∨ x.config.kind ≠ .carrier ∨ lastActiveEdge x.config x.line = none → start = e) ∧
          (∀ edge, d.untilQuiet = true → x.config.kind = .carrier → lastActiveEdge x.config x.line = some edge →
            start = max e (edge + 71))))

/-- When a raw mark ends (R65, R66): an ENVELOPE mark at the transition to inactive; a CARRIER mark whose latest active
edge lies 70 us back at such a transition, and at its CARRIER_GAP at the line's latest one (log entry 17). -/
def Clause.marksEnd : Prop :=
  ∀ (i : InputId) (t : Time) (s : State),
    let now := max s.timebase t
    let u := s.advanceTo t
    let x := s.inputs[i]
    let put := fun (y : Input) => ({ u with inputs := s.inputs.set i y } : State)
    let noted : Input := { x with line :=
      if x.line.high then { x.line with high := false, lastFall := some now }
      else { x.line with high := true, lastRise := some now } }
    s.watching i = true →
    (x.floorReached now = none → x.stuckDue now = false → x.gapOverdue now = false → x.endGapDue now = none →
      x.discardGapDue now = false → lineActive x.config x.line = true →
      (x.config.kind = .envelope → exec (.lineTransition i t) s = .next (put (noted.endMark now))) ∧
      (x.config.kind = .carrier → (∀ e, lastActiveEdge x.config x.line = some e → e + 70 ≤ now) →
        exec (.lineTransition i t) s = .next (put (if x.raw.mark then noted.endMark now else noted)))) ∧
    (x.config.kind = .carrier → x.raw.mark = true → lineActive x.config x.line = false →
      ∀ e f, lastActiveEdge x.config x.line = some e → lastInactiveEdge x.config x.line = some f → e + 70 ≤ now →
      exec (.carrierGap i t) s = .next (put (x.endMark f)))

/-- When a line is quiet (R65, R66, R77): at its inactive level, and on a CARRIER input with no active edge in the last
70 us (log entry 17), counting edges that came while the input did not watch its line (log entry 32). -/
def Clause.quietLines : Prop :=
  ∀ (c : InputConfig) (l : Line) (now : Time),
    (lineActive c l = true ↔ (c.polarity = .activeHigh ↔ l.high = true)) ∧
    (c.polarity = .activeHigh → lastActiveEdge c l = l.lastRise ∧ lastInactiveEdge c l = l.lastFall) ∧
    (c.polarity = .activeLow → lastActiveEdge c l = l.lastFall ∧ lastInactiveEdge c l = l.lastRise) ∧
    (lineQuiet c l now = true ↔
      lineActive c l = false ∧ (c.kind = .carrier → ∀ e, lastActiveEdge c l = some e → e + 70 < now))

/-- An input that looks at its line again (R77, R80, R81): WAITING on a quiet line with a raw space from now; otherwise
DISCARDING with a raw mark from now, whose edges are counted anew, until the line is quiet. -/
def Clause.resumedInputs : Prop :=
  ∀ (x : Input) (now : Time),
    (lineQuiet x.config x.line now = true → x.resume now = { x with
      assembler := .waiting none, raw := { mark := false, since := now, edges := 0, firstEdge := 0 } }) ∧
    (lineQuiet x.config x.line now = false → x.resume now = { x with
      assembler := .discarding { spaceSince := none, tentative := none, untilQuiet := true }
      raw := { mark := true, since := now, edges := 0, firstEdge := now } })

/-- The carrier estimate over `edges` active edges whose first and last lie `span` us apart (R67): 2000 (edges - 1) / span
rounded to the nearest, a half up, at most 255, also where the span is 0; absent below 4 edges. -/
def Clause.carrierEstimates : Prop :=
  ∀ edges span : Nat,
    (edges < 4 → carrierEstimate edges span = none) ∧
    (4 ≤ edges → span = 0 → carrierEstimate edges span = some 255) ∧
    (4 ≤ edges → 0 < span → ∃ n, carrierEstimate edges span = some (min n 255) ∧
      2 * n * span ≤ 4000 * (edges - 1) + span ∧ 4000 * (edges - 1) + span < 2 * (n + 1) * span)

/-- An input watches its line while it is WAITING, ASSEMBLING or DISCARDING and no memory test runs (R64, R76, R81). -/
def Clause.watchedLines : Prop :=
  ∀ (s : State) (i : InputId), s.watching i = true ↔
    s.memoryTest = none ∧ s.inputs[i].assembler ≠ .off ∧ s.inputs[i].assembler ≠ .blanked

/-- LINE_TRANSITION and CARRIER_GAP (R65 to R70, R73), a quiet line and an input that looks at its line again (R77). What
is overdue at an edge, how far a mark has lasted, the microsecond of the 70 us gap, where the end-gap measure of
DISCARDING starts and which edges count are log entries 14, 15, 17, 18 and 32 (the model's choices). -/
def Obligations.RawMarksFollowTheLine : Prop :=
  Clause.lineTransitions ∧ Clause.carrierGaps ∧ Clause.marksEnd ∧ Clause.markEndings ∧ Clause.quietLines ∧
    Clause.resumedInputs ∧ Clause.noCarrierGap ∧ Clause.carrierEstimates ∧ Clause.watchedLines

/-- GLITCH_FLOOR_REACHED (R68 to R71, R73): a tentative run that has lasted the floor starts the burst, closes the open
mark, or closes the open space; it abandons a burst of 127 runs with OVERLENGTH, and restarts the measure of DISCARDING.
Before that, with no tentative run, and on an input that does not watch its line, nothing happens. -/
def Clause.glitchFloors : Prop :=
  ∀ (i : InputId) (t : Time) (s : State),
    let now := max s.timebase t
    let u := s.advanceTo t
    let x := s.inputs[i]
    let put := fun (y : Assembler) => ({ u with inputs := s.inputs.set i { x with assembler := y } } : State)
    let markLasted := fun (t₀ : Time) => x.raw.mark = true ∧ t₀ + x.config.glitchFloor ≤ x.markExtent now
    (s.watching i = false → exec (.glitchFloorReached i t) s = .next u) ∧
    (s.watching i = true →
    (∀ t₀, x.assembler = .waiting (some t₀) → markLasted t₀ → exec (.glitchFloorReached i t) s = .next
      (put (.assembling {
        start := t₀, runs := [], openRun := .mark t₀, tentative := none, estimate := none
        estimated := decide (x.config.kind ≠ .carrier) }))) ∧
    (∀ a start t₀, x.assembler = .assembling a → a.openRun = .mark start → a.tentative = some t₀ →
      x.raw.mark = false → t₀ + x.config.glitchFloor ≤ now → exec (.glitchFloorReached i t) s = .next
      (put (.assembling { a with runs := a.runs ++ [t₀ - start], openRun := .space t₀, tentative := none }))) ∧
    (∀ a start t₀, x.assembler = .assembling a → a.openRun = .space start → a.tentative = some t₀ → markLasted t₀ →
      (a.runs.length < 127 → exec (.glitchFloorReached i t) s = .next
        (put (.assembling { a with runs := a.runs ++ [t₀ - start], openRun := .mark t₀, tentative := none }))) ∧
      (127 ≤ a.runs.length → exec (.glitchFloorReached i t) s = .next { u with
        inputs := s.inputs.set i { x with
          assembler := .discarding Discard.start, sticky := { x.sticky with overlength := true } }
        port := { s.port with attention := { s.port.attention with
          input := s.port.attention.input.set i true } } })) ∧
    (∀ d t₀, x.assembler = .discarding d → d.tentative = some t₀ → markLasted t₀ →
      exec (.glitchFloorReached i t) s = .next (put (.discarding Discard.start))) ∧
    ((x.assembler = .waiting none ∨ (∃ a, x.assembler = .assembling a ∧ a.tentative = none) ∨
        (∃ d, x.assembler = .discarding d ∧ d.tentative = none) ∨
        (∃ t₀, x.assembler = .waiting (some t₀) ∧ ¬markLasted t₀) ∨
        (∃ a start t₀, x.assembler = .assembling a ∧ a.openRun = .mark start ∧ a.tentative = some t₀ ∧
          (x.raw.mark = true ∨ now < t₀ + x.config.glitchFloor)) ∨
        (∃ a start t₀, x.assembler = .assembling a ∧ a.openRun = .space start ∧ a.tentative = some t₀ ∧
          ¬markLasted t₀) ∨
        ∃ d t₀, x.assembler = .discarding d ∧ d.tentative = some t₀ ∧ ¬markLasted t₀) →
      exec (.glitchFloorReached i t) s = .next u))

/-- How far a raw mark in progress has lasted (R66; log entry 15: the model's choice): to now, and on a CARRIER input
between two pulses to the latest transition to the inactive level. -/
def Clause.markExtents : Prop :=
  ∀ (x : Input) (now f : Time),
    (x.config.kind ≠ .carrier ∨ lineActive x.config x.line = true → x.markExtent now = now) ∧
    (x.config.kind = .carrier → lineActive x.config x.line = false → lastInactiveEdge x.config x.line = some f →
      x.markExtent now = f)

/-- STUCK (R72): an open mark longer than 60,000 us, measured while the line is at mark, abandons the burst. END_GAP
(R70, R74, R75): an open space of the end gap completes the burst, which enters the empty held slot and raises the lookup
claim, or is dropped with OVERRUN; a runt is dropped without a flag. DISCARDING_END_GAP (R73). While a tentative mark runs
neither gap ends (log entry 16: the model's choice), and in any other state of the input nothing happens. -/
def Clause.burstEnds : Prop :=
  ∀ (i : InputId) (t : Time) (s : State),
    let now := max s.timebase t
    let u := s.advanceTo t
    let x := s.inputs[i]
    let flagged := { s.port with attention := { s.port.attention with input := s.port.attention.input.set i true } }
    (s.watching i = false ∨ (∀ a start, x.assembler = .assembling a → a.openRun ≠ .mark start) ∨ x.raw.mark = false →
      exec (.stuck i t) s = .next u) ∧
    (s.watching i = false ∨
        (∀ a start, x.assembler = .assembling a → a.openRun = .space start → a.tentative ≠ none) →
      exec (.endGap i t) s = .next u) ∧
    (s.watching i = false ∨
        (∀ d start, x.assembler = .discarding d → d.spaceSince = some start → d.tentative ≠ none) →
      exec (.discardingEndGap i t) s = .next u) ∧
    (s.watching i = true →
    (∀ a start, x.assembler = .assembling a → a.openRun = .mark start → x.raw.mark = true →
      (start + 60000 < x.markExtent now → exec (.stuck i t) s = .next { u with
        inputs := s.inputs.set i { x with
          assembler := .discarding Discard.start, sticky := { x.sticky with stuck := true } }
        port := flagged }) ∧
      (x.markExtent now ≤ start + 60000 → exec (.stuck i t) s = .next u)) ∧
    (∀ a start, x.assembler = .assembling a → a.openRun = .space start → a.tentative = none →
      (now < start + x.config.endGap * 1000 → exec (.endGap i t) s = .next u) ∧
      (start + x.config.endGap * 1000 ≤ now →
        (a.runs.length < 3 → exec (.endGap i t) s = .next { u with
          inputs := s.inputs.set i { x with assembler := .waiting none } }) ∧
        (3 ≤ a.runs.length → x.held = none → exec (.endGap i t) s = .next { u with
          inputs := s.inputs.set i { x with
            assembler := .waiting none
            held := some {
              input := i, kind := x.config.kind.burstKind, runs := a.runs
              estimate := if x.config.kind = .carrier then a.estimate else none
              startTime := a.start, endTime := start } }
          claims := { s.claims with lookup := s.claims.lookup.set i true } }) ∧
        (3 ≤ a.runs.length → x.held ≠ none → exec (.endGap i t) s = .next { u with
          inputs := s.inputs.set i { x with
            assembler := .waiting none, sticky := { x.sticky with overrun := true } }
          port := flagged }))) ∧
    (∀ d start, x.assembler = .discarding d → d.spaceSince = some start → d.tentative = none →
      (start + x.config.endGap * 1000 ≤ now → exec (.discardingEndGap i t) s = .next { u with
        inputs := s.inputs.set i { x with assembler := .waiting none } }) ∧
      (now < start + x.config.endGap * 1000 → exec (.discardingEndGap i t) s = .next u)))

/-- GLITCH_FLOOR_REACHED, STUCK, END_GAP and DISCARDING_END_GAP (R68 to R75). How far a CARRIER mark has
lasted and that END_GAP waits for a tentative mark are log entries 15 and 16 (the model's choices). -/
def Obligations.BurstsAreAssembledAndEnd : Prop :=
  Clause.glitchFloors ∧ Clause.burstEnds ∧ Clause.markExtents

/-- An input takes the signal of an output of its blank mask (R76), leaves BLANKED when none asserts (R77), and takes a
requested sticky bit (R78). -/
def Clause.blankingAndRequests : Prop :=
  ∀ (i : InputId) (o : OutputId) (s : State),
    let x := s.inputs[i]
    let put := fun (y : Input) => ({ s with inputs := s.inputs.set i y } : State)
    let flagged := { s.port with attention := { s.port.attention with input := s.port.attention.input.set i true } }
    (OutputMask.has x.config.blankMask o = true → s.outputs[o].state.blanking = true →
      (∀ a, x.assembler = .assembling a → exec (.blankingAsserted i o) s = .next
        { put { x with assembler := .blanked, sticky := { x.sticky with blankedDrop := true } } with port := flagged }) ∧
      ((∃ v, x.assembler = .waiting v) ∨ (∃ d, x.assembler = .discarding d) →
        exec (.blankingAsserted i o) s = .next (put { x with assembler := .blanked })) ∧
      (x.assembler = .off ∨ x.assembler = .blanked → exec (.blankingAsserted i o) s = .next s)) ∧
    (x.assembler = .blanked →
      (∀ p : OutputId, OutputMask.has x.config.blankMask p = true → s.outputs[p].state.blanking = false) →
      ∃ y : Input, exec (.blankingReleased i) s = .next (put y) ∧
        y.raw = (x.resume s.timebase).raw ∧
        y = { x with raw := y.raw, assembler := if lineQuiet x.config x.line s.timebase then .waiting none
          else .discarding { spaceSince := none, tentative := none, untilQuiet := true } }) ∧
    (∀ bit, bit ∈ s.mail.sticky[i] → exec (.stickySetRequest i bit) s = .next
      { put { x with sticky := match bit with
          | .unmatched => { x.sticky with unmatched := true }
          | .orphanRepeat => { x.sticky with orphanRepeat := true }
          | .pressRefused => { x.sticky with pressRefused := true } } with
        port := flagged
        mail := { s.mail with sticky := s.mail.sticky.set i (s.mail.sticky[i].erase bit) } })

/-- An output asserts its blanking signal in GRANT, FRAME, INTERVAL and SPACE, and a mask is blanked while one of its
outputs does (R76). -/
def Clause.blankingSignals : Prop :=
  (∀ x : OutputState, x.blanking = true ↔ x ≠ .off ∧ x ≠ .idle) ∧
  (∀ (s : State) (m : OutputMask), s.blankedBy m = true ↔
    ∃ o : OutputId, m.getLsbD o.val = true ∧ s.outputs[o].state.blanking = true)

/-- An input takes no signal of an output outside its blank mask or of one that asserts none, and it stays BLANKED while an
output of its mask asserts (R76, R77); an input that is not BLANKED is not released. -/
def Clause.blankingStays : Prop :=
  ∀ (i : InputId) (s : State),
    let x := s.inputs[i]
    let asserts := fun (o : OutputId) => OutputMask.has x.config.blankMask o = true ∧ s.outputs[o].state.blanking = true
    (∀ o, ¬asserts o → exec (.blankingAsserted i o) s = .next s) ∧
    (x.assembler ≠ .blanked ∨ (∃ o, asserts o) → exec (.blankingReleased i) s = .next s)

/-- BLANKING_ASSERTED, BLANKING_RELEASED and STICKY_SET_REQUEST (R76 to R78). The 70 us of a quiet CARRIER
line are those of log entry 17 (the model's choice). -/
def Obligations.BlankingAndStickyRequests : Prop :=
  Clause.blankingAndRequests ∧ Clause.blankingStays ∧ Clause.blankingSignals

/-! ## Press tracker -/

/-- The press tracker takes a match result (R93, R99, R101 to R106, R114). NONE changes nothing. A repeat credits the HELD
record of its input and group, and is an orphan without one. A frame or alternate credits the HELD record of the same
handle and variant; it ends one of another variant NEW_PRESS and one of another handle OTHER_KEY, and then, as when there
is none, creates a press in the lowest FREE record, or asks for PRESS_REFUSED when there is none. -/
def Clause.matchResults : Prop :=
  ∀ (s : State) (m : MatchResult) (rest : List Notice), s.mail.path = .result m :: rest →
    let taken : State := { s with mail := { s.mail with path := rest } }
    let held := fun (g : GroupNo) (r : PressNo) (p : Press) =>
      s.tracker.presses[r] = some p ∧ p.isHeld = true ∧ p.input = m.input ∧ p.group = g
    let credited := fun (p : Press) (gap : Nat) => match p.life with
      | .held _ limit links => { p with
          frames := min (p.frames + 1) 65535, lastCredit := m.endTime, releaseGap := gap
          life := .held (m.endTime + gap * 1000) limit links }
      | .ended _ _ => p
    let requested := fun (u : State) (bit : RequestedBit) => ({ u with
      mail := { u.mail with sticky := u.mail.sticky.set m.input (u.mail.sticky[m.input] ++ [bit]) } } : State)
    let put := fun (r : PressNo) (p : Press) =>
      ({ taken with tracker := { s.tracker with presses := s.tracker.presses.set r (some p) } } : State)
    (m.found = .none → exec .matchResult s = .next taken) ∧
    (∀ g, m.found = .ofGroup g →
      ((∀ r p, ¬held g.group r p) → exec .matchResult s = .next (requested taken .orphanRepeat)) ∧
      (∀ r p, held g.group r p → (∀ r' p', held g.group r' p' → r' = r) →
        exec .matchResult s = .next (put r (credited p g.releaseGap)))) ∧
    (∀ e, m.found = .entry e →
      let created := fun (u : State) (r : PressNo) => ({ u with
        tracker := {
          sequence := u.tracker.sequence + 1
          reportList := u.tracker.reportList ++ [r]
          presses := u.tracker.presses.set r (some {
            sequence := u.tracker.sequence + 1, input := m.input, group := e.group, handle := e.handle, key := e.key
            variant := e.variant, frames := 1, startTime := m.startTime, lastCredit := m.endTime
            releaseGap := e.releaseGap, startPending := true, endPending := false
            life := .held (m.endTime + e.releaseGap * 1000)
              (if e.pressLimit = 0 then none else some (m.startTime + e.pressLimit * 1000000)) 0 }) }
        mail := { u.mail with pressStarts := u.mail.pressStarts ++
          [{ press := ⟨r, u.tracker.sequence + 1⟩, handle := e.handle, input := m.input }] } } : State)
      let creates := fun (u : State) =>
        ((∀ r : PressNo, u.tracker.presses[r] ≠ none) → exec .matchResult s = .next (requested u .pressRefused)) ∧
        (∀ r : PressNo, u.tracker.presses[r] = none → (∀ q : PressNo, q < r → u.tracker.presses[q] ≠ none) →
          r ∉ u.tracker.reportList → exec .matchResult s = .next (created u r))
      ((∀ r p, ¬held e.group r p) → creates taken) ∧
      (∀ r p, held e.group r p → (∀ r' p', held e.group r' p' → r' = r) →
        (p.handle = e.handle → p.variant = e.variant →
          exec .matchResult s = .next (put r (credited p e.releaseGap))) ∧
        (p.handle = e.handle → p.variant ≠ e.variant → creates (taken.endPress r .newPress)) ∧
        (p.handle ≠ e.handle → creates (taken.endPress r .otherKey))))

/-- MATCH_RESULT (R101 to R106). -/
def Obligations.MatchResultsMakePresses : Prop :=
  Clause.matchResults

/-- The end of a HELD press (R110): the state, the cause and the duration; END pending, with the record
joining the tail of the report list unless it is on it; hold-ended to each linked output, TX0 first. An ENDED or FREE
record is left as it is. -/
def Clause.pressEnding : Prop :=
  ∀ (s : State) (r : PressNo) (cause : EndCause),
    (∀ p deadline limit links, s.tracker.presses[r] = some p → p.life = .held deadline limit links →
      let told := fun (o : OutputId) => s.mail.holdEnded[o] ++
        if OutputMask.has links o then [⟨r, p.sequence⟩] else []
      s.endPress r cause = { s with
        tracker := { s.tracker with
          presses := s.tracker.presses.set r (some { p with
            life := .ended cause (min ((p.lastCredit - p.startTime) / 1000) 65535), endPending := true })
          reportList := if r ∈ s.tracker.reportList then s.tracker.reportList else s.tracker.reportList ++ [r] }
        mail := { s.mail with holdEnded := (s.mail.holdEnded.set (0 : OutputId) (told 0)).set (1 : OutputId) (told 1) } }) ∧
    ((∀ p, s.tracker.presses[r] = some p → p.isEnded = true) → s.endPress r cause = s)

/-- The expiries of a HELD record's deadlines (R107, R108, R109): each ends the record when the timebase has reached the
deadline that stands, and ends nothing otherwise. -/
def Clause.deadlineExpiries : Prop :=
  ∀ (s : State) (r : PressNo) (t : Time),
    let now := max s.timebase t
    let u := s.advanceTo t
    (∀ p deadline limit links, s.tracker.presses[r] = some p → p.life = .held deadline limit links →
      (deadline ≤ now → exec (.releaseExpiry r t) s = .next (u.endPress r .released)) ∧
      (now < deadline → exec (.releaseExpiry r t) s = .next u) ∧
      (∀ at_, limit = some at_ → at_ ≤ now → exec (.pressLimitExpiry r t) s = .next (u.endPress r .limit)) ∧
      ((∀ at_, limit = some at_ → now < at_) → exec (.pressLimitExpiry r t) s = .next u)) ∧
    ((∀ p, s.tracker.presses[r] = some p → p.isEnded = true) →
      exec (.releaseExpiry r t) s = .next u ∧ exec (.pressLimitExpiry r t) s = .next u)

/-- The notices of the ordered path and the input-change notice end every HELD record they reach, one by one in ascending
record number, each with its cause (R111, R112). -/
def Clause.endingNotices : Prop :=
  ∀ (s : State) (i : Instr) (taken : State) (cause : EndCause) (reaches : Press → Bool),
    (∃ rest, taken = { s with mail := { s.mail with path := rest } } ∧
      ((∃ h, i = .entryRetiredNotice ∧ s.mail.path = .entryRetired h :: rest ∧ cause = .retired ∧
          reaches = (fun p => decide (p.handle = h))) ∨
        (∃ h, i = .entrySuspendedNotice ∧ s.mail.path = .entrySuspended h :: rest ∧ cause = .suspended ∧
          reaches = (fun p => decide (p.handle = h))) ∨
        (∃ h, i = .entryDamagedNotice ∧ s.mail.path = .entryDamaged h :: rest ∧ cause = .damaged ∧
          reaches = (fun p => decide (p.handle = h))) ∨
        ∃ g, i = .groupChangedNotice ∧ s.mail.path = .groupChanged g :: rest ∧ cause = .groupChanged ∧
          reaches = (fun p => decide (p.group = g)))) ∨
      (∃ n rest, i = .inputChangeNotice ∧ s.mail.inputChanges = n :: rest ∧ cause = .inputChanged ∧
        taken = { s with mail := { s.mail with inputChanges := rest } } ∧
        reaches = (fun p => decide (p.input = n))) →
    exec i s = .next (((List.finRange 16).filter (fun r => match s.tracker.presses[r] with
      | some p => p.isHeld && reaches p
      | none => false)).foldl (fun u r => u.endPress r cause) taken)

/-- A link request stores the follow link of a HELD press, or is answered with hold-ended at once (R115); a link-clear
clears the link of a HELD press and changes nothing otherwise (R116). -/
def Clause.followLinks : Prop :=
  ∀ s : State,
    (∀ q rest, s.mail.linkRequests = q :: rest →
      let taken : State := { s with mail := { s.mail with linkRequests := rest } }
      (∀ p deadline limit links, s.tracker.presses[q.press.record] = some p → p.sequence = q.press.sequence →
        p.life = .held deadline limit links →
        exec .linkRequest s = .next { taken with tracker := { s.tracker with
          presses := s.tracker.presses.set q.press.record
            (some { p with life := .held deadline limit (OutputMask.insert links q.output) }) } }) ∧
      ((∀ p deadline limit links, s.tracker.presses[q.press.record] = some p →
          p.life = .held deadline limit links → p.sequence ≠ q.press.sequence) →
        exec .linkRequest s = .next { taken with mail := { s.mail with
          linkRequests := rest
          holdEnded := s.mail.holdEnded.set q.output (s.mail.holdEnded[q.output] ++ [q.press]) } })) ∧
    (∀ (o : OutputId) press rest, s.mail.linkClears[o] = press :: rest →
      let taken : State := { s with mail := { s.mail with linkClears := s.mail.linkClears.set o rest } }
      (∀ p deadline limit links, s.tracker.presses[press.record] = some p → p.sequence = press.sequence →
        p.life = .held deadline limit links →
        exec (.linkClear o) s = .next { taken with tracker := { s.tracker with
          presses := s.tracker.presses.set press.record
            (some { p with life := .held deadline limit (OutputMask.remove links o) }) } }) ∧
      ((∀ p deadline limit links, s.tracker.presses[press.record] = some p →
          p.life = .held deadline limit links → p.sequence ≠ press.sequence) →
        exec (.linkClear o) s = .next taken))

/-- The ends of presses: PRESS END, the two expiries, the five notices, and the follow links (R107 to R116). -/
def Obligations.PressesEndAndFollow : Prop :=
  Clause.pressEnding ∧ Clause.pressEnds ∧ Clause.deadlineExpiries ∧ Clause.endingNotices ∧ Clause.followLinks

/-! ## Relay unit -/

/-- The relay unit decides a press start (R128, R129, R130): without a record of the source, or with one whose mask has not
the input, nothing more happens; a STALE record and a target that is gone give TARGET_STALE, a DAMAGED one
TARGET_DAMAGED; otherwise an item is offered to each output of the mask, TX0 first, the outcome is the last refusal, or QUEUED,
and each FOLLOW item placed has its link requested. -/
def Clause.pressStarts : Prop :=
  ∀ (s : State) (p : PressStart) (rest : List PressStart), s.mail.pressStarts = p :: rest →
    let taken : State := { s with mail := { s.mail with pressStarts := rest } }
    let put := fun (u : State) (n : RelayNo) (r : RelayRecord) => ({ u with relays := u.relays.set n (some r) } : State)
    ((∀ (n : RelayNo) (r : RelayRecord), s.relays[n] = some r → r.source ≠ p.handle) →
      exec .pressStart s = .next taken) ∧
    (∀ (n : RelayNo) (r : RelayRecord), s.relays[n] = some r → r.source = p.handle →
      (∀ (m : RelayNo) (q : RelayRecord), s.relays[m] = some q → q.source = p.handle → m = n) →
      (InputMask.has r.inputMask p.input = false → exec .pressStart s = .next taken) ∧
      (InputMask.has r.inputMask p.input = true →
        (r.stale = true →
          exec .pressStart s = .next (put taken n { r with lastOutcome := .targetStale })) ∧
        (r.stale = false → s.currentEntry r.target = none →
          exec .pressStart s = .next (put taken n { r with stale := true, lastOutcome := .targetStale })) ∧
        (∀ e, r.stale = false → s.currentEntry r.target = some e → e.status = .damaged →
          exec .pressStart s = .next (put taken n { r with lastOutcome := .targetDamaged })) ∧
        (∀ e, r.stale = false → s.currentEntry r.target = some e → e.status ≠ .damaged →
          let item : Item := {
            origin := .relay p.press, handle := r.target, holdEnded := false, endPending := none, active := none
            form := match r.mode with
              | .once count => .send count
              | .follow => .hold
            follow := decide (r.mode = .follow) }
          let want := fun (o : OutputId) => OutputMask.has r.outputMask o
          let first := if want 0 then taken.offer 0 item else (taken, .accepted)
          let second := if want 1 then first.1.offer 1 item else (first.1, .accepted)
          let outcome : RelayOutcome := match first.2, second.2 with
            | _, .outputOff => .outputOff
            | _, .queueFull => .queueFull
            | .outputOff, _ => .outputOff
            | .queueFull, _ => .queueFull
            | _, _ => .queued
          let links := if r.mode = .follow then
              (if want 0 ∧ first.2 = .accepted then [⟨0, p.press⟩] else [])
                ++ (if want 1 ∧ second.2 = .accepted then [⟨1, p.press⟩] else [])
            else ([] : List LinkRequest)
          exec .pressStart s = .next { put second.1 n { r with lastOutcome := outcome } with
            mail := { second.1.mail with linkRequests := second.1.mail.linkRequests ++ links } })))

/-- A relay offer (R136, R156): an OFF output refuses it with nothing changed, a full queue refuses it and sets
RELAY_REFUSED with its ATTENTION bit, and otherwise the item joins the tail of the queue and starts at once on an IDLE
output. -/
def Clause.relayOffers : Prop :=
  ∀ (s : State) (o : OutputId) (item : Item) (press : PressName), item.origin = .relay press →
    let x := s.outputs[o]
    (x.config.kind = .off → s.offer o item = (s, .outputOff)) ∧
    (x.config.kind ≠ .off → 8 ≤ x.queue.length → s.offer o item = ({ s with
      outputs := s.outputs.set o { x with relayRefused := true }
      port := { s.port with attention := { s.port.attention with
        output := s.port.attention.output.set o true } } }, .queueFull)) ∧
    (x.config.kind ≠ .off → x.queue.length < 8 →
      let joined : State := { s with outputs := s.outputs.set o { x with queue := x.queue ++ [item] } }
      s.offer o item = (if x.state = .idle then joined.startHead o else joined, .accepted))

/-- A retire notice empties the record whose source is the handle and makes STALE the records whose target it is, and
changes no other record and nothing else (R131). -/
def Clause.relayRetires : Prop :=
  ∀ (s : State) (h : Handle) (rest : List Handle), s.mail.retires = h :: rest →
    ∃ t, exec .relayRetireNotice s = .next t ∧
      t = { s with mail := { s.mail with retires := rest }, relays := t.relays } ∧
      ∀ n : RelayNo, t.relays[n] = match s.relays[n] with
        | none => none
        | some r => if r.source = h then none
          else if r.target = h then some { r with stale := true }
          else some r

/-- PRESS_START and RELAY_RETIRE_NOTICE (R128 to R131). -/
def Obligations.RelayUnitTakesItsArrivals : Prop :=
  Clause.pressStarts ∧ Clause.relayOffers ∧ Clause.relayRetires

/-! ## Transmit outputs -/

/-- FRAME_END (R54, R143, R145 to R147): the references go, frames sent rises, and the item ends (with its pending
outcome; a SEND that has sent its count, or a HOLD whose flag is set, SENT) or the output waits in INTERVAL until the
later of one repeat period after the frame's start and 5 ms after its end. -/
def Clause.frameEnds : Prop :=
  ∀ (s : State) (o : OutputId) (t : Time) (f : Frame) (item : Item) (a : ActiveItem) (rest : List Item),
    let u := s.advanceTo t
    u.outputs[o].state = .frame f → f.run = f.runCount → f.runEnd ≤ max s.timebase t →
    u.outputs[o].queue = item :: rest → item.active = some a →
    let sent := min (a.framesSent + 1) 65535
    let counted : Item := { item with active := some { a with framesSent := sent } }
    let put := fun (state : OutputState) =>
      ({ u with outputs := u.outputs.set o { u.outputs[o] with state := state, queue := counted :: rest } } : State)
    let ends := fun outcome => exec (.frameEnd o t) s = .next ((put (.frame f)).endActive o outcome f.runEnd)
    (∀ outcome, item.endPending = some outcome → ends outcome) ∧
    (∀ c, item.endPending = none → item.form = .send c → c ≤ sent → ends .sent) ∧
    (item.endPending = none → item.form = .hold → item.holdEnded = true → ends .sent) ∧
    (item.endPending = none →
      (∃ c, item.form = .send c ∧ sent < c) ∨ (item.form = .hold ∧ item.holdEnded = false) →
      exec (.frameEnd o t) s = .next
        { put (.interval (max (f.startTime + f.repeatPeriod * 1000) (f.runEnd + 5000))) with
          mail := { s.mail with removals := s.mail.removals.set o (some f.chain) } })

/-- Before the end of the last run, and outside FRAME, FRAME_END changes nothing but the time, nor do INTERVAL_END outside
INTERVAL and SPACE_END outside SPACE (R143, R145, R150; log entry 2: the model's choice). -/
def Clause.framesGoOn : Prop :=
  ∀ (s : State) (o : OutputId) (t : Time),
    let u := s.advanceTo t
    let x := u.outputs[o]
    ((∀ f, x.state = .frame f → f.run ≠ f.runCount ∨ max s.timebase t < f.runEnd) →
      exec (.frameEnd o t) s = .next u) ∧
    ((∀ next, x.state ≠ .interval next) → exec (.intervalEnd o t) s = .next u) ∧
    ((∀ over_, x.state ≠ .space over_) → exec (.spaceEnd o t) s = .next u)

/-- INTERVAL_END (R145, R152) enters GRANT and raises the grant claim, or defers it behind a damage notice; SPACE_END
(R138, R139, R150, R152) starts the head item in the same way, or leaves the output IDLE. Neither acts before its
time. -/
def Clause.intervalsAndSpacesEnd : Prop :=
  ∀ (s : State) (o : OutputId) (t : Time),
    let now := max s.timebase t
    let u := s.advanceTo t
    let x := s.outputs[o]
    let claims := { s.claims with output := match s.claims.output[o] with
      | some (.damage _) => s.claims.output
      | _ => s.claims.output.set o (some .frameGrant) }
    (∀ next, x.state = .interval next →
      (now < next → exec (.intervalEnd o t) s = .next u) ∧
      (next ≤ now → exec (.intervalEnd o t) s = .next
        { u with outputs := u.outputs.set o { x with state := .grant }, claims := claims })) ∧
    (∀ over_, x.state = .space over_ →
      (now < over_ → exec (.spaceEnd o t) s = .next u) ∧
      (over_ ≤ now →
        (x.queue = [] → exec (.spaceEnd o t) s = .next
          { u with outputs := u.outputs.set o { x with state := .idle } }) ∧
        (∀ item rest, x.queue = item :: rest →
          exec (.spaceEnd o t) s = .next { u with
            outputs := u.outputs.set o { x with
              state := .grant
              queue := { item with active := some {
                variant := (s.itemVariant x.toggle item.handle).1, startTime := now, framesSent := 0 } } :: rest
              toggle := (s.itemVariant x.toggle item.handle).2 }
            claims := claims })))

/-- The line of an output in a clock cycle of the present microsecond (R133, R143, R144; log entry 25: the model's
choice): inactive outside FRAME and in a space; in a mark, active throughout for ENVELOPE, and for MODULATED in the first
quarter, third or half, rounded down, of each carrier period of 32,000 / f cycles, rounded to the nearest. -/
def Clause.outputLines : Prop :=
  ∀ (s : State) (o : OutputId) (sub : Fin 16),
    let x := s.outputs[o]
    (s.txLevel o sub = (s.txActive o sub == decide (x.config.polarity = .activeHigh))) ∧
    ((∀ f, x.state ≠ .frame f) → s.txActive o sub = false) ∧
    ∀ f, x.state = .frame f →
      (f.run % 2 = 0 → s.txActive o sub = false) ∧
      (f.run % 2 = 1 → f.runStart ≤ s.timebase → s.timebase < f.runEnd →
        (x.config.kind = .envelope → s.txActive o sub = true) ∧
        (x.config.kind = .modulated →
          let period := (2 * 32000 + f.carrier) / (2 * f.carrier)
          let part := match f.duty with
            | .quarter => 4
            | .third => 3
            | .half => 2
          (s.txActive o sub = true ↔ (16 * (s.timebase - f.runStart) + sub.val) % period < period / part)))

/-- FRAME_END, INTERVAL_END and SPACE_END, and the variant of an item that starts (R139, R143 to R147, R150),
with the line that an output drives. A frame's end
time is the end of its last run, and a SEND flushed in its last frame ends FLUSHED and not SENT (log entries 22 and 21:
the model's choices). -/
def Obligations.FramesIntervalsAndSpacesEnd : Prop :=
  Clause.frameEnds ∧ Clause.framesGoOn ∧ Clause.intervalsAndSpacesEnd ∧ Clause.itemVariants ∧ Clause.outputLines

/-- HOLD_LIMIT (R147): when the timebase has reached the item start time plus the hold limit, a HOLD whose flag is clear
ends LIMIT: at the frame's end in FRAME or GRANT unless an end is pending, at once in INTERVAL. -/
def Clause.holdLimits : Prop :=
  ∀ (s : State) (o : OutputId) (t : Time) (item : Item) (a : ActiveItem) (rest : List Item),
    let now := max s.timebase t
    let u := s.advanceTo t
    let x := u.outputs[o]
    s.outputs[o].queue = item :: rest → item.active = some a → item.form = .hold → item.holdEnded = false →
    (now < a.startTime + x.config.holdLimit * 1000000 → exec (.holdLimit o t) s = .next u) ∧
    (a.startTime + x.config.holdLimit * 1000000 ≤ now →
      ((∃ f, x.state = .frame f) ∨ x.state = .grant → exec (.holdLimit o t) s = .next
        { u with outputs := u.outputs.set o { x with
          queue := { item with endPending := some (item.endPending.getD .limit) } :: rest } }) ∧
      (∀ next, x.state = .interval next → exec (.holdLimit o t) s = .next (u.endActive o .limit now)))

/-- FRAME_PARITY_FAULT (R57, R151, R156): the run due is unreadable: the fault is recorded on its cell, the item ends
DAMAGED with its references removed and SPACE entered, the damage notice claim is raised, and DAMAGE_SEEN is set with its
ATTENTION bit. -/
def Clause.parityFaults : Prop :=
  ∀ (s : State) (o : OutputId) (t : Time) (f : Frame) (c : CellNo) (item : Item) (a : ActiveItem) (rest : List Item),
    let u := s.advanceTo t
    u.outputs[o].state = .frame f → f.run < f.runCount → f.runEnd ≤ max s.timebase t →
    s.pool.readRun f.chain (f.run + 1) = .unreadable c →
    u.outputs[o].queue = item :: rest → item.active = some a →
    let ended := State.endActive { u with
        pool := { s.pool with cells := s.pool.cells.set c { s.pool.cells[c] with fault := true } } }
      o .damaged f.runEnd
    exec (.frameParityFault o t) s = .next { ended with
      outputs := ended.outputs.set o { ended.outputs[o] with damageSeen := true }
      claims := { s.claims with
        output := s.claims.output.set o (some (.damage { handle := item.handle, sent := f.sent, cell := c })) }
      port := { ended.port with attention := { ended.port.attention with
        output := ended.port.attention.output.set o true } } }

/-- Where no HOLD with a clear flag is ACTIVE, HOLD_LIMIT changes nothing but the time, nor does FRAME_PARITY_FAULT where no
run that is due is unreadable (R147, R151; log entry 2: the model's choice). That a HOLD flagged while it was QUEUED takes
no LIMIT although no end is pending is log entry 21 (the model's choice). -/
def Clause.noLimitAndNoFault : Prop :=
  ∀ (s : State) (o : OutputId) (t : Time),
    let u := s.advanceTo t
    ((∀ item ∈ s.outputs[o].queue.head?, item.active = none ∨ item.form ≠ .hold ∨ item.holdEnded = true) →
      exec (.holdLimit o t) s = .next u) ∧
    ((∀ f c, u.outputs[o].state = .frame f → f.run < f.runCount → f.runEnd ≤ max s.timebase t →
        s.pool.readRun f.chain (f.run + 1) ≠ .unreadable c) →
      exec (.frameParityFault o t) s = .next u)

/-- HOLD_LIMIT and FRAME_PARITY_FAULT (R147, R151). A frame is cut at the end of its
last readable run (log entries 22 and 23: the model's choice), and a flagged HOLD takes no LIMIT (log entry 21: the model's
choice). -/
def Obligations.HoldLimitsAndParityFaults : Prop :=
  Clause.holdLimits ∧ Clause.parityFaults ∧ Clause.noLimitAndNoFault
end

