-- ==== Sys2Proof/Laws/Frames.lean ====
section
/-! SUPPORT. What each shared operation can change: one lemma per operation, naming the fields it may write. -/

namespace Sys2Proof.Machine

/-! ## Ops -/

/-- Sticky bits of an input: its record and ATTENTION (R78). -/
theorem State.setSticky_frame (s : State) (i : InputId) (f : InputSticky → InputSticky) :
    s.setSticky i f = { s with
      inputs := s.inputs.set i { s.inputs[i] with sticky := f s.inputs[i].sticky }
      port := { s.port with attention := { s.port.attention with
        input := s.port.attention.input.set i true } } } := rfl

/-- Clearing sticky bits: the record and ATTENTION (R79). -/
theorem State.clearSticky_frame (s : State) (i : InputId) :
    s.clearSticky i = { s with
      inputs := s.inputs.set i { s.inputs[i] with sticky := InputSticky.clear }
      port := { s.port with attention := { s.port.attention with
        input := s.port.attention.input.set i false } } } := rfl

/-- Raising TABLE attention: that one bit (R58). -/
theorem State.raiseTable_frame (s : State) (b : Bool) :
    s.raiseTable b = { s with port := { s.port with attention := { s.port.attention with
      table := s.port.attention.table || b } } } := by
  cases b <;> simp [State.raiseTable, State.setTableAttention, State.setPort]

/-- Cells come back: the pool and TABLE attention (R49, R58). -/
theorem State.returnCells_frame (s : State) (chain : List CellNo) :
    s.returnCells chain = { s with
      pool := s.pool.returnCells chain
      port := { s.port with attention := { s.port.attention with
        table := s.port.attention.table || s.pool.anyFault chain } } } := by
  rw [State.returnCells, State.raiseTable_frame]; rfl

/-- The reservation comes back: the pool and TABLE attention (R52). -/
theorem State.returnReservation_frame (s : State) :
    s.returnReservation = { s with
      pool := Pool.returnCells { s.pool with reservation := [] } s.pool.reservation
      port := { s.port with attention := { s.port.attention with
        table := s.port.attention.table || s.pool.anyFault s.pool.reservation } } } := by
  rw [State.returnReservation, State.returnCells_frame]; rfl

/-- A served claim: the claims (R23). -/
theorem State.served_frame (s : State) (p : Position) : ∃ c, s.served p = { s with claims := c } := ⟨_, rfl⟩

/-- A grant claim raised: the claim of the one output (R139, R152). -/
theorem State.raiseGrant_frame (s : State) (o : OutputId) :
    ∃ x, s.raiseGrant o = { s with claims := { s.claims with output := s.claims.output.set o x } } := by
  unfold State.raiseGrant
  split
  · exact ⟨s.claims.output[o], by simp⟩
  · exact ⟨_, rfl⟩

/-- A grant claim withdrawn: the claim of the one output (R22). -/
theorem State.withdrawGrant_frame (s : State) (o : OutputId) :
    ∃ x, s.withdrawGrant o = { s with claims := { s.claims with output := s.claims.output.set o x } } := by
  unfold State.withdrawGrant
  split
  · exact ⟨_, rfl⟩
  · exact ⟨s.claims.output[o], by simp⟩

/-- The passing of time: the count and the frames being driven (R2, R143). -/
theorem State.advanceTo_frame (s : State) (t : Time) :
    s.advanceTo t = { s with
      timebase := max s.timebase t, outputs := s.outputs.map (Output.drive s.pool (max s.timebase t)) } := rfl

/-- Driving a frame changes the state of the output alone, and FRAME stays FRAME (R143). -/
theorem Output.drive_frame (pool : Pool) (now : Time) (x : Output) :
    ∃ st, x.drive pool now = { x with state := st } ∧
      ((∀ f, x.state ≠ .frame f) → st = x.state) ∧ (∀ f, x.state = .frame f → ∃ g, st = .frame g) := by
  unfold Output.drive
  split <;> rename_i h
  · exact ⟨_, rfl, fun hn => absurd h (hn _), fun _ _ => ⟨_, rfl⟩⟩
  all_goals exact ⟨x.state, rfl, fun _ => rfl, fun f hf => by rw [h] at hf; cases hf⟩

/-! ## Engine -/

/-- The end of a frame is one of three things: a frame captured at its end, one whose capture came before, or a void
one (R159, R160, R178). -/
theorem State.frameEnd_cases (s : State) (address : BitVec 8) (w : Word) :
    s.frameEnd address w = (some (s.captureWord address, s.captureOffer address),
        s.setPort { s.port with spi := .none, miso := s.captureWord address }) ∨
      (∃ x, s.frameEnd address w = (some x, s.setSpi .none)) ∨ s.frameEnd address w = (none, s.setSpi .none) := by
  unfold State.frameEnd
  simp only
  split
  · exact .inl rfl
  · split
    · split
      · exact .inr (.inr rfl)
      · split
        · exact .inr (.inl ⟨_, rfl⟩)
        · exact .inl rfl
    · exact .inl rfl

/-- The end of a frame of the host port: the frame and MISO (R159, R160). -/
theorem State.writeFrame_frame (s : State) (address : BitVec 8) (w : Word) (effect : State → State) :
    ∃ spi miso, s.writeFrame address w effect = effect { s with port := { s.port with spi := spi, miso := miso } } ∨
      s.writeFrame address w effect = { s with port := { s.port with spi := spi, miso := miso } } := by
  unfold State.writeFrame
  rcases s.frameEnd_cases address w with h | ⟨x, h⟩ | h <;> rw [h]
  · exact ⟨_, _, .inl rfl⟩
  · exact ⟨.none, s.port.miso, .inl rfl⟩
  · exact ⟨.none, s.port.miso, .inr rfl⟩

/-- The end of a command: the host port (R172). -/
theorem State.endTask_frame (s : State) (task : Task) (cut : Bool) (outcome : HostOutcome) :
    s.endTask task cut outcome = { s with port := { s.port with
      completion := { code := task.command.code, cut := cut, outcome := outcome }
      engine := .idle, done := true, fault := s.port.fault || decide (outcome ≠ .ok) } } := rfl

/-- The end of a command's last step: the host port, whose engine goes to IDLE or RESULT (R171). -/
theorem State.finish_frame (s : State) (task : Task) (held : Bool) (outcome : HostOutcome) (results : List Word) :
    ∃ p, s.finish task held outcome results = { s with port := p } ∧ (p.attention, p.ready) = (s.port.attention, s.port.ready) ∧
      (p.engine = .idle ∨ ∃ w ws, p.engine = .result task outcome w ws s.timebase) := by
  unfold State.finish
  split
  · exact ⟨_, rfl, rfl, .inl rfl⟩
  · split
    · exact ⟨_, rfl, rfl, .inl rfl⟩
    · exact ⟨_, rfl, rfl, .inr ⟨_, _, rfl⟩⟩

/-- A command ended in its parameter phase: the host port and the HOST claim (R29). -/
theorem State.endOrCleanUp_frame (s : State) (task : Task) (outcome : HostOutcome) :
    ∃ p h, s.endOrCleanUp task outcome = { s with port := p, claims := { s.claims with host := h } } ∧
      (p.attention, p.ready) = (s.port.attention, s.port.ready) ∧
      (p.engine = .idle ∧ h = s.claims.host ∨ p.engine = .cleanup task outcome ∧ h = some .cleanUp) := by
  unfold State.endOrCleanUp
  split
  · exact ⟨_, s.claims.host, rfl, rfl, .inl ⟨rfl, rfl⟩⟩
  · exact ⟨_, _, rfl, rfl, .inr ⟨rfl, rfl⟩⟩

/-- EXECUTE entered: the engine, and the HOST claim of its first step (R171). -/
theorem State.enterExecute_frame (s : State) (task : Task) :
    ∃ h, s.enterExecute task = { s with
        port := { s.port with engine := .execute task false }, claims := { s.claims with host := h } } ∧
      h = match executeStep task.command with
        | some x => some x
        | none => s.claims.host := by
  unfold State.enterExecute
  cases executeStep task.command
  · exact ⟨_, rfl, rfl⟩
  · exact ⟨_, rfl, rfl⟩

/-- A parameter step passed: the engine, and the HOST claim of the clean-up (R175). -/
theorem State.stepPassed_frame (s : State) (task : Task) (held : Bool) :
    ∃ e h, s.stepPassed task held = { s with
        port := { s.port with engine := e }, claims := { s.claims with host := h } } ∧
      (e = .cleanup task .aborted ∧ h = some .cleanUp ∨
        e = .parameter task (.word s.timebase) ∧ h = s.claims.host) := by
  unfold State.stepPassed
  split
  · exact ⟨_, _, rfl, .inl ⟨rfl, rfl⟩⟩
  · exact ⟨_, s.claims.host, rfl, .inr ⟨rfl, rfl⟩⟩

/-- A run word stored: the pool's cells (R51). -/
theorem State.storeRun_frame (s : State) (task : Task) (w : Word) :
    ∃ cells, s.storeRun task w = { s with pool := { s.pool with cells := cells } } := by
  unfold State.storeRun
  split
  · exact ⟨s.pool.cells, rfl⟩
  · simp only [Pool.writeRun]
    split
    · exact ⟨s.pool.cells, rfl⟩
    · exact ⟨_, rfl⟩

/-- A parameter word taken: the host port, the HOST claim and the cells of the reservation (R170). -/
theorem State.takeWord_frame (s : State) (task : Task) (w : Word) :
    ∃ p h cells, s.takeWord task w = { s with
        port := p, claims := { s.claims with host := h }, pool := { s.pool with cells := cells } } ∧
      (p.attention, p.ready) = (s.port.attention, s.port.ready) := by
  unfold State.takeWord
  obtain ⟨cells, hc⟩ := s.storeRun_frame task w
  split
  · obtain ⟨p, h, he, ha, _⟩ := s.endOrCleanUp_frame task ‹_›
    exact ⟨p, h, s.pool.cells, he, ha⟩
  · rw [hc]; exact ⟨_, s.claims.host, _, rfl, rfl⟩
  · exact ⟨_, _, s.pool.cells, rfl, rfl⟩
  · rw [hc]
    obtain ⟨h, he, _⟩ := State.enterExecute_frame { s with pool := { s.pool with cells := cells } }
      { task with words := task.words ++ [w] }
    rw [he]; exact ⟨_, _, _, rfl, rfl⟩

/-- A COMMAND write: the host port and the HOST claim (R169). -/
theorem State.commandWrite_frame (s : State) (code arg : BitVec 8) :
    ∃ p h, s.commandWrite code arg = { s with port := p, claims := { s.claims with host := h } } ∧
      (p.attention, p.ready) = (s.port.attention, s.port.ready) := by
  unfold State.commandWrite
  obtain ⟨spi, miso, h | h⟩ := s.writeFrame_frame (addressByte false 0) (code ++ arg) (fun s =>
    if s.port.ready && !s.port.engine.busy then s.takeCommand code arg else s.collide)
  · rw [h]
    simp only
    split
    · unfold State.takeCommand
      simp only
      split
      · exact ⟨_, s.claims.host, rfl, rfl⟩
      · split
        · split
          · exact ⟨_, s.claims.host, rfl, rfl⟩
          · obtain ⟨x, he, _⟩ := State.enterExecute_frame (State.setPort { s with port := { s.port with spi := spi, miso := miso } } { s.port with spi := spi, miso := miso, done := false, fault := false }) { command := ‹HostCommand›, arg := arg, words := [] }
            exact ⟨_, x, he, rfl⟩
        · exact ⟨_, s.claims.host, rfl, rfl⟩
    · exact ⟨_, s.claims.host, rfl, rfl⟩
  · rw [h]; exact ⟨_, s.claims.host, rfl, rfl⟩

/-- ABORT: the host port and the HOST claim of the clean-up (R175). -/
theorem State.abortCommand_frame (s : State) :
    ∃ p h, s.abortCommand = { s with port := p, claims := { s.claims with host := h } } ∧
      (p.attention, p.ready) = (s.port.attention, s.port.ready) := by
  unfold State.abortCommand
  split
  · exact ⟨_, s.claims.host, rfl, rfl⟩
  · exact ⟨_, s.claims.host, rfl, rfl⟩
  · exact ⟨_, s.claims.host, rfl, rfl⟩
  · obtain ⟨p, h, he, ha, _⟩ := s.endOrCleanUp_frame ‹_› .aborted
    exact ⟨p, h, he, ha⟩
  · exact ⟨_, s.claims.host, rfl, rfl⟩
  · exact ⟨_, s.claims.host, rfl, rfl⟩
  · exact ⟨_, s.claims.host, rfl, rfl⟩

/-- A CONTROL write: the host port and the HOST claim of the clean-up (R165). -/
theorem State.controlWrite_frame (s : State) (w : Word) :
    ∃ p h, s.controlWrite w = { s with port := p, claims := { s.claims with host := h } } ∧
      (p.attention, p.ready) = (s.port.attention, s.port.ready) := by
  unfold State.controlWrite
  obtain ⟨spi, miso, h | h⟩ := s.writeFrame_frame (addressByte false 2) w (fun s =>
    let s := s.setPort { s.port with enables := w.extractLsb' 0 4 }
    if w.getLsbD 15 then s.abortCommand else s)
  · rw [h]
    simp only
    split
    · obtain ⟨p, x, he, ha⟩ := State.abortCommand_frame (State.setPort { s with port := { s.port with spi := spi, miso := miso } }
        { s.port with spi := spi, miso := miso, enables := w.extractLsb' 0 4 })
      exact ⟨p, x, he, ha⟩
    · exact ⟨_, s.claims.host, rfl, rfl⟩
  · rw [h]; exact ⟨_, s.claims.host, rfl, rfl⟩

/-- A result word taken: the host port (R172). -/
theorem State.takeResult_frame (s : State) :
    ∃ p, s.takeResult = { s with port := p } ∧ (p.attention, p.ready) = (s.port.attention, s.port.ready) := by
  unfold State.takeResult
  split <;> exact ⟨_, rfl, rfl⟩

/-- A host table step either is not served and changes nothing, or is its body on the state whose HOST claim has been
served (R22, R23). -/
theorem State.hostStep_cases (s : State) (h : HostStep) (body : Task → Bool → State → State) :
    s.hostStep h body = s ∨
    ∃ task held, s.hostStep h body = body task held (s.served .host) ∧ s.claims.host = some h ∧
      s.turnOf .host = true ∧
      (s.port.engine = .execute task held ∨ s.port.engine = .parameter task (.step held)) := by
  unfold State.hostStep
  split
  · rename_i hc
    split
    · exact .inr ⟨_, _, rfl, hc.1, hc.2, .inl ‹_›⟩
    · exact .inr ⟨_, _, rfl, hc.1, hc.2, .inr ‹_›⟩
    all_goals exact .inl rfl
  · exact .inl rfl

/-- A block's request either is not taken and changes nothing, or is its work (R171). -/
theorem State.blockRequest_cases (s : State) (c : HostCommand) (body : Task → Bool → State → State) :
    s.blockRequest c body = s ∨
    ∃ task held, s.blockRequest c body = body task held s ∧ s.port.engine = .execute task held ∧
      task.command = c ∧ s.claims.host = none := by
  unfold State.blockRequest
  split
  · split
    · exact .inr ⟨_, _, rfl, ‹_›, (‹_ ∧ _›).1, (‹_ ∧ _›).2⟩
    · exact .inl rfl
  all_goals exact .inl rfl

end Sys2Proof.Machine
end

