-- ==== Sys2Proof/Laws/Blocks.lean ====
section
/-! SUPPORT. What the shared operations of an output, of the press tracker, of an input and of the relay unit can
change: each only its own block, its claims, its messages and its ATTENTION bits. -/

namespace Sys2Proof.Machine

/-! ## One output (chapter 8) -/

/-- `t` is `s` but for output `o`, the claims of outputs, link-clears, removals and the ATTENTION bits of outputs. -/
def State.OutputOnly (o : OutputId) (s t : State) : Prop :=
  ∃ x c l r a, t = { s with
    outputs := s.outputs.set o x
    claims := { s.claims with output := c }
    mail := { s.mail with linkClears := l, removals := r }
    port := { s.port with attention := { s.port.attention with output := a } } }

theorem State.OutputOnly.refl (o : OutputId) (s : State) : State.OutputOnly o s s :=
  ⟨s.outputs[o], s.claims.output, s.mail.linkClears, s.mail.removals, s.port.attention.output, by simp⟩

theorem State.OutputOnly.trans {o : OutputId} {s t u : State} (h : State.OutputOnly o s t)
    (k : State.OutputOnly o t u) : State.OutputOnly o s u := by
  obtain ⟨x, c, l, r, a, rfl⟩ := h
  obtain ⟨x', c', l', r', a', rfl⟩ := k
  exact ⟨x', c', l', r', a', by simp⟩

/-- The record of an output replaced. -/
theorem State.setOutput_only (s : State) (o : OutputId) (x : Output) : State.OutputOnly o s (s.setOutput o x) :=
  ⟨x, _, _, _, _, rfl⟩

/-- Its ATTENTION bit (R156). -/
theorem State.setOutputAttention_only (s : State) (o : OutputId) (b : Bool) :
    State.OutputOnly o s (s.setOutputAttention o b) :=
  ⟨s.outputs[o], s.claims.output, s.mail.linkClears, s.mail.removals, s.port.attention.output.set o b,
    by simp [State.setOutputAttention, State.setPort]⟩

/-- Its grant claim raised (R139, R152). -/
theorem State.raiseGrant_only (s : State) (o : OutputId) : State.OutputOnly o s (s.raiseGrant o) := by
  obtain ⟨x, h⟩ := s.raiseGrant_frame o
  rw [h]
  exact ⟨s.outputs[o], s.claims.output.set o x, s.mail.linkClears, s.mail.removals, s.port.attention.output, by simp⟩

/-- Its grant claim withdrawn (R22). -/
theorem State.withdrawGrant_only (s : State) (o : OutputId) : State.OutputOnly o s (s.withdrawGrant o) := by
  obtain ⟨x, h⟩ := s.withdrawGrant_frame o
  rw [h]
  exact ⟨s.outputs[o], s.claims.output.set o x, s.mail.linkClears, s.mail.removals, s.port.attention.output, by simp⟩

/-- Its removal request (R54). -/
theorem State.sendRemoval_only (s : State) (o : OutputId) (chain : List CellNo) :
    State.OutputOnly o s (s.sendRemoval o chain) :=
  ⟨s.outputs[o], s.claims.output, s.mail.linkClears, (s.sendRemoval o chain).mail.removals, s.port.attention.output,
    by simp [State.sendRemoval, State.setMail]⟩

/-- Its link-clear (R149). -/
theorem State.sendLinkClear_only (s : State) (o : OutputId) (p : PressName) :
    State.OutputOnly o s (s.sendLinkClear o p) :=
  ⟨s.outputs[o], s.claims.output, (s.sendLinkClear o p).mail.linkClears, s.mail.removals, s.port.attention.output,
    by simp [State.sendLinkClear, State.setMail]⟩

/-- The references of its frame dropped (R54, R150). -/
theorem State.dropFrame_only (s : State) (o : OutputId) : State.OutputOnly o s (s.dropFrame o) := by
  unfold State.dropFrame
  split
  · exact s.sendRemoval_only o _
  · exact .refl o s

/-- Its head item started (R138, R139). -/
theorem State.startHead_only (s : State) (o : OutputId) : State.OutputOnly o s (s.startHead o) := by
  unfold State.startHead
  simp only
  split
  · exact s.setOutput_only o _
  · exact (s.setOutput_only o _).trans (State.raiseGrant_only _ o)

/-- The end of one of its items reported (R149, R150, R155). -/
theorem State.reportItemEnd_only (s : State) (o : OutputId) (item : Item) (outcome : ItemOutcome) :
    State.OutputOnly o s (s.reportItemEnd o item outcome) := by
  unfold State.reportItemEnd
  split
  · exact (s.setOutput_only o _).trans (State.setOutputAttention_only _ o true)
  · split
    · exact s.sendLinkClear_only o _
    · exact .refl o s

/-- The ends of several of its items reported (R153, R154). -/
theorem State.reportItemEnds_only (s : State) (o : OutputId) (outcome : ItemOutcome) (items : List Item) :
    State.OutputOnly o s (s.reportItemEnds o outcome items) := by
  unfold State.reportItemEnds
  induction items generalizing s with
  | nil => exact .refl o s
  | cons item rest ih => exact (s.reportItemEnd_only o item outcome).trans (ih _)

/-- Its ACTIVE item ended (R150). -/
theorem State.endActive_only (s : State) (o : OutputId) (outcome : ItemOutcome) (t : Time) :
    State.OutputOnly o s (s.endActive o outcome t) := by
  unfold State.endActive
  split
  · exact .refl o s
  · have h := (s.dropFrame_only o).trans (State.reportItemEnd_only (s.dropFrame o) o ‹Item› outcome)
    simp only
    split
    · exact h.trans (State.setOutput_only _ o _)
    · exact (h.trans (State.setOutput_only _ o _)).trans (State.startHead_only _ o)

/-- An ending cause of its ACTIVE item (R147). -/
theorem State.endingCause_only (s : State) (o : OutputId) (outcome : ItemOutcome) :
    State.OutputOnly o s (s.endingCause o outcome) := by
  unfold State.endingCause
  split
  · exact .refl o s
  · split
    · split
      · exact s.setOutput_only o _
      · exact .refl o s
    · split
      · exact s.setOutput_only o _
      · exact .refl o s
    · exact s.endActive_only o _ _
    all_goals exact .refl o s

/-- A hold-ended flag of one of its items (R137, R148). -/
theorem State.setHoldEnded_only (s : State) (o : OutputId) (p : Item → Bool) :
    State.OutputOnly o s (s.setHoldEnded o p).1 := by
  unfold State.setHoldEnded
  simp only
  split
  · split
    · split
      · exact (s.setOutput_only o _).trans (State.endingCause_only _ o _)
      · exact s.setOutput_only o _
    · exact s.setOutput_only o _
  · exact .refl o s

/-- An offer to it (R136). -/
theorem State.offer_only (s : State) (o : OutputId) (item : Item) : State.OutputOnly o s (s.offer o item).1 := by
  unfold State.offer
  simp only
  split
  · simp only
    split
    · exact (s.setOutput_only o _).trans (State.startHead_only _ o)
    · exact s.setOutput_only o _
  · split
    · exact (s.setOutput_only o _).trans (State.setOutputAttention_only _ o true)
    · exact .refl o s
  all_goals exact .refl o s

/-- Its queue flushed (R153). -/
theorem State.flush_only (s : State) (o : OutputId) : State.OutputOnly o s (s.flush o) := by
  unfold State.flush
  split
  · exact (s.reportItemEnds_only o _ _).trans (State.setOutput_only _ o _)
  · have h := (s.reportItemEnds_only o .flushed ‹List Item›).trans (State.setOutput_only _ o
      { (s.reportItemEnds o .flushed ‹List Item›).outputs[o] with queue := [‹Item›] })
    simp only
    split
    · exact (h.trans (State.withdrawGrant_only _ o)).trans (State.endActive_only _ o _ _)
    all_goals exact h.trans (State.endingCause_only _ o _)

/-- Its configuration written (R154). -/
theorem State.configureOutput_only (s : State) (o : OutputId) (c : OutputConfig) :
    State.OutputOnly o s (s.configureOutput o c) := by
  unfold State.configureOutput
  exact (((s.dropFrame_only o).trans (State.withdrawGrant_only _ o)).trans (State.reportItemEnds_only _ o _ _)).trans
    (State.setOutput_only _ o _)

/-! ## The press tracker (chapter 6) -/

/-- `t` is `s` but for the tracker and the messages it sends (R100). -/
def State.TrackerOnly (s t : State) : Prop :=
  ∃ x h b p, t = { s with
    tracker := x, mail := { s.mail with holdEnded := h, sticky := b, pressStarts := p } }

theorem State.TrackerOnly.refl (s : State) : s.TrackerOnly s := ⟨_, _, _, _, rfl⟩

theorem State.TrackerOnly.trans {s t u : State} (h : s.TrackerOnly t) (k : t.TrackerOnly u) : s.TrackerOnly u := by
  obtain ⟨x, a, b, p, rfl⟩ := h
  obtain ⟨x', a', b', p', rfl⟩ := k
  exact ⟨x', a', b', p', rfl⟩

/-- A press ended (R110). -/
theorem State.endPress_only (s : State) (r : PressNo) (cause : EndCause) : s.TrackerOnly (s.endPress r cause) := by
  unfold State.endPress
  split
  · exact .refl s
  · split
    · exact .refl s
    · have hj : ∀ u : State, u.TrackerOnly (u.joinReports r) := by
        intro u
        unfold State.joinReports
        split
        · exact .refl u
        · exact ⟨_, _, _, _, rfl⟩
      have hs : ∀ (u : State) (m : OutputMask) (n : PressName), u.TrackerOnly (u.sendHoldEndeds m n) := by
        intro u m n
        unfold State.sendHoldEndeds
        simp only
        split <;> split <;> exact ⟨_, _, _, _, rfl⟩
      exact (State.TrackerOnly.trans ⟨_, _, _, _, rfl⟩ (hj _)).trans (hs _ _ _)

/-- A press ended where the notice reaches it (R111, R112). -/
theorem State.endPressIf_only (s : State) (reaches : Press → Bool) (cause : EndCause) (r : PressNo) :
    s.TrackerOnly (s.endPressIf reaches cause r) := by
  unfold State.endPressIf
  split
  · split
    · exact s.endPress_only r cause
    · exact .refl s
  · exact .refl s

/-- The presses a notice reaches ended (R111, R112). -/
theorem State.endPresses_only (s : State) (reaches : Press → Bool) (cause : EndCause) :
    s.TrackerOnly (s.endPresses reaches cause) := by
  unfold State.endPresses
  generalize List.finRange 16 = l
  induction l generalizing s with
  | nil => exact .refl s
  | cons r rest ih =>
    refine State.TrackerOnly.trans ?_ (ih _)
    exact s.endPressIf_only reaches cause r

/-- A press created or refused (R104, R105). -/
theorem State.createPress_only (s : State) (m : MatchResult) (e : EntryMatch) : s.TrackerOnly (s.createPress m e) := by
  unfold State.createPress
  split
  · exact ⟨_, _, _, _, rfl⟩
  · unfold State.joinReports
    simp only
    split <;> exact ⟨_, _, _, _, rfl⟩

/-- A match result taken (R101 to R106). -/
theorem State.takeMatch_only (s : State) (m : MatchResult) : s.TrackerOnly (s.takeMatch m) := by
  unfold State.takeMatch
  split
  · exact .refl s
  · split <;> exact ⟨_, _, _, _, rfl⟩
  · split
    · exact s.createPress_only m _
    · split
      · split
        · exact ⟨_, _, _, _, rfl⟩
        · exact (s.endPress_only _ _).trans (State.createPress_only _ m _)
      · exact (s.endPress_only _ _).trans (State.createPress_only _ m _)

/-- A link request taken (R115). -/
theorem State.takeLinkRequest_only (s : State) (q : LinkRequest) : s.TrackerOnly (s.takeLinkRequest q) := by
  unfold State.takeLinkRequest
  split <;> exact ⟨_, _, _, _, rfl⟩

/-- A link-clear taken (R116). -/
theorem State.takeLinkClear_only (s : State) (o : OutputId) (press : PressName) :
    s.TrackerOnly (s.takeLinkClear o press) := by
  unfold State.takeLinkClear
  split <;> exact ⟨_, _, _, _, rfl⟩

/-- A report collected (R118). -/
theorem State.collectReport_only (s : State) : s.TrackerOnly s.collectReport.1 := by
  unfold State.collectReport
  split
  · exact .refl s
  · simp only
    split <;> exact ⟨_, _, _, _, rfl⟩

/-! ## One input (chapter 4) -/

/-- `t` is `s` but for input `i`, the lookup claims and the ATTENTION bits of inputs. -/
def State.InputOnly (i : InputId) (s t : State) : Prop :=
  ∃ x c a, t = { s with
    inputs := s.inputs.set i x
    claims := { s.claims with lookup := c }
    port := { s.port with attention := { s.port.attention with input := a } } }

theorem State.InputOnly.refl (i : InputId) (s : State) : State.InputOnly i s s :=
  ⟨s.inputs[i], s.claims.lookup, s.port.attention.input, by simp⟩

theorem State.InputOnly.trans {i : InputId} {s t u : State} (h : State.InputOnly i s t)
    (k : State.InputOnly i t u) : State.InputOnly i s u := by
  obtain ⟨x, c, a, rfl⟩ := h
  obtain ⟨x', c', a', rfl⟩ := k
  exact ⟨x', c', a', by simp⟩

/-- Its record replaced. -/
theorem State.setInput_only (s : State) (i : InputId) (x : Input) : State.InputOnly i s (s.setInput i x) :=
  ⟨x, _, _, rfl⟩

/-- Its sticky bits set (R78). -/
theorem State.setSticky_only (s : State) (i : InputId) (f : InputSticky → InputSticky) :
    State.InputOnly i s (s.setSticky i f) := ⟨_, _, _, rfl⟩

/-- Its burst handed over or dropped (R75). -/
theorem State.offerBurst_only (s : State) (i : InputId) (b : Burst) : State.InputOnly i s (s.offerBurst i b) := by
  unfold State.offerBurst
  split
  · exact ⟨_, _, _, rfl⟩
  · exact s.setSticky_only i _

/-- GLITCH_FLOOR_REACHED on it (R68 to R71, R73). -/
theorem State.inputFloor_only (s : State) (i : InputId) : State.InputOnly i s (s.inputFloor i) := by
  unfold State.inputFloor
  split
  · exact .refl i s
  · simp only
    split
    · exact (s.setInput_only i _).trans (State.setSticky_only _ i _)
    · exact s.setInput_only i _

/-- STUCK on it (R72). -/
theorem State.inputStuck_only (s : State) (i : InputId) : State.InputOnly i s (s.inputStuck i) := by
  unfold State.inputStuck
  split
  · exact (s.setInput_only i _).trans (State.setSticky_only _ i _)
  · exact .refl i s

/-- CARRIER_GAP on it (R66). -/
theorem State.inputGap_only (s : State) (i : InputId) : State.InputOnly i s (s.inputGap i) := by
  unfold State.inputGap
  simp only
  split
  · exact s.setInput_only i _
  · exact .refl i s

/-- The end of a raw mark taken before an edge (R66). -/
theorem State.inputGapBefore_only (s : State) (i : InputId) : State.InputOnly i s (s.inputGapBefore i) := by
  unfold State.inputGapBefore
  simp only
  split
  · exact s.setInput_only i _
  · exact .refl i s

/-- END_GAP on it (R70). -/
theorem State.inputEndGap_only (s : State) (i : InputId) : State.InputOnly i s (s.inputEndGap i) := by
  unfold State.inputEndGap
  split
  · exact .refl i s
  · simp only
    split
    · exact s.setInput_only i _
    · exact (s.setInput_only i _).trans (State.offerBurst_only _ i _)

/-- DISCARDING_END_GAP on it (R73). -/
theorem State.inputDiscardGap_only (s : State) (i : InputId) : State.InputOnly i s (s.inputDiscardGap i) := by
  unfold State.inputDiscardGap
  split
  · exact s.setInput_only i _
  · exact .refl i s

/-- A transition of its line (R65, R66). -/
theorem State.inputTransition_only (s : State) (i : InputId) : State.InputOnly i s (s.inputTransition i) := by
  unfold State.inputTransition
  split
  · refine State.InputOnly.trans ?_ (State.setInput_only _ i _)
    unfold State.settleInput
    exact (((((s.inputFloor_only i).trans (State.inputStuck_only _ i)).trans
      (State.inputGapBefore_only _ i)).trans (State.inputFloor_only _ i)).trans
      (State.inputEndGap_only _ i)).trans (State.inputDiscardGap_only _ i)
  · exact s.setInput_only i _

/-- BLANKED entered (R76). -/
theorem State.enterBlanked_only (s : State) (i : InputId) : State.InputOnly i s (s.enterBlanked i) := by
  unfold State.enterBlanked
  simp only
  split
  · exact (s.setInput_only i _).trans (State.setSticky_only _ i _)
  · exact s.setInput_only i _
  · exact s.setInput_only i _
  all_goals exact .refl i s

/-- Its state taken from its kind, the blanking signals and its line (R77, R80, R81). -/
theorem State.placeInput_only (s : State) (i : InputId) : State.InputOnly i s (s.placeInput i) := by
  unfold State.placeInput
  simp only
  split
  · exact s.setInput_only i _
  · split <;> exact s.setInput_only i _

/-! ## The relay unit (chapter 7) -/

/-- A record written by RELAY SET: the map (R125). -/
theorem State.relayWrite_frame (s : State) (r : RelayRecord) :
    ∃ m, (s.relayWrite r).1 = { s with relays := m } := by
  unfold State.relayWrite
  split
  · exact ⟨_, rfl⟩
  · split
    · exact ⟨_, rfl⟩
    · exact ⟨s.relays, rfl⟩

/-- One output's part in a relay: that output alone (R128, R136). -/
theorem State.relayOffer_only (rec : RelayRecord) (p : PressName) (acc : State × RelayOutcome × List OutputId)
    (o : OutputId) : State.OutputOnly o acc.1 (State.relayOffer rec p acc o).1 := by
  unfold State.relayOffer
  split
  · exact acc.1.offer_only o _
  · exact .refl o _

/-- Link requests sent: the two slots of link requests (R129). -/
theorem State.sendLinkRequests_frame (p : PressName) (os : List OutputId) (s : State) :
    ∃ q, os.foldl (fun s o => s.sendLinkRequest o p) s = { s with mail := { s.mail with linkRequests := q } } := by
  induction os generalizing s with
  | nil => exact ⟨s.mail.linkRequests, rfl⟩
  | cons o os ih =>
    obtain ⟨q, hq⟩ := ih (s.sendLinkRequest o p)
    exact ⟨q, hq⟩

end Sys2Proof.Machine
end

