-- ==== Sys2Proof/Laws/Table.lean ====
section
/-! SUPPORT. What an operation of the table controller that reads patterns can change: the marks of faults and damage
(R39, R40, R57), and nothing else. -/

namespace Sys2Proof.Machine

/-! ## Length bins (R21) -/

/-- A bin replaced: the bins (R21). -/
theorem State.setBin_frame (s : State) (n : Nat) (l : List PatternRef) :
    ∃ bins, s.setBin n l = { s with bins := bins } := by
  unfold State.setBin
  split
  · exact ⟨_, rfl⟩
  · exact ⟨s.bins, rfl⟩

/-- The number of a bin is one for one with its run count (R21). -/
theorem binOf_injective {m n : Nat} {b : Fin 63} (hm : binOf m = some b) (hn : binOf n = some b) : m = n := by
  unfold binOf at hm hn
  split at hm <;> split at hn <;> simp_all
  have := hm.trans hn.symm
  simp only [Fin.mk.injEq] at this
  omega

/-- The bins after one has been replaced (R21). -/
theorem State.binList_setBin (s : State) (n m : Nat) (l : List PatternRef) :
    (s.setBin n l).binList m = if m = n ∧ (binOf n).isSome = true then l else s.binList m := by
  unfold State.setBin State.binList
  cases hn : binOf n with
  | none =>
    simp only [Option.isSome_none, Bool.false_eq_true, and_false, if_false]
  | some b =>
    by_cases h : m = n
    · subst h; simp [hn]
    · simp only [h, false_and, if_false]
      cases hm : binOf m with
      | none => rfl
      | some c =>
        have : b.val ≠ c.val := fun hb => h (binOf_injective hm (by rw [hn, Fin.ext hb]))
        simp [Vector.getElem_set_ne, this]

/-- A pattern joins the tail of its bin and no other bin changes (R21). -/
theorem State.binList_joinBin (s : State) (n m : Nat) (r : PatternRef) :
    (s.joinBin n r).binList m = if m = n ∧ (binOf n).isSome = true then s.binList m ++ [r] else s.binList m := by
  unfold State.joinBin
  rw [State.binList_setBin]
  split
  · rename_i h; rw [h.1]
  · rfl

/-- A pattern leaves its bin and no other bin changes (R21). -/
theorem State.binList_leaveBin (s : State) (n m : Nat) (r : PatternRef) :
    (s.leaveBin n r).binList m = if m = n then (s.binList m).filter (fun x => decide (x ≠ r)) else s.binList m := by
  unfold State.leaveBin
  rw [State.binList_setBin]
  by_cases h : m = n
  · subst h
    cases hb : binOf m with
    | none => simp [State.binList, hb]
    | some b => simp
  · simp [h]

/-- Leaving a bin: the bins (R21). -/
theorem State.leaveBin_frame (s : State) (n : Nat) (r : PatternRef) :
    ∃ bins, s.leaveBin n r = { s with bins := bins } := s.setBin_frame n _

/-- Joining a bin: the bins (R21). -/
theorem State.joinBin_frame (s : State) (n : Nat) (r : PatternRef) :
    ∃ bins, s.joinBin n r = { s with bins := bins } := s.setBin_frame n _

/-- The frame patterns of an entry leave: the bins (R21). -/
theorem State.leaveFrames_frame (s : State) (slot : SlotNo) (e : Installed) :
    ∃ bins, s.leaveFrames slot e = { s with bins := bins } := by
  unfold State.leaveFrames
  obtain ⟨b, hb⟩ := s.leaveBin_frame e.runCount (.frame slot .main)
  obtain ⟨c, hc⟩ := State.leaveBin_frame { s with bins := b } e.runCount (.frame slot .alternate)
  rw [hb]; exact ⟨c, hc⟩

/-- The frame patterns of an entry join: the bins (R21). -/
theorem State.joinFrames_frame (s : State) (slot : SlotNo) (e : Installed) :
    ∃ bins, s.joinFrames slot e = { s with bins := bins } := by
  unfold State.joinFrames
  obtain ⟨b, hb⟩ := s.joinBin_frame e.runCount (.frame slot .main)
  rw [hb]
  simp only
  split
  · exact State.joinBin_frame { s with bins := b } e.runCount (.frame slot .alternate)
  · exact ⟨b, rfl⟩

/-! ## Marks of faults and damage -/

/-- `t` is `s` but for marks of faults and damage: cells gain fault marks, installed entries become DAMAGED with marks,
groups gain REPEAT_DAMAGED, patterns leave their bins, notices are sent, and TABLE attention may rise. -/
structure State.Marked (s t : State) : Prop where
  frame : t = { s with
    entries := t.entries, groups := t.groups, bins := t.bins, pool := { s.pool with cells := t.pool.cells }
    mail := { s.mail with path := t.mail.path }
    port := { s.port with attention := { s.port.attention with table := t.port.attention.table } } }
  entry : ∀ slot : SlotNo, t.entries[slot] = s.entries[slot] ∨ ∃ e m a, s.entries[slot].occupant = .installed e ∧
    t.entries[slot] = { s.entries[slot] with
      occupant := .installed { e with status := .damaged, mainDamaged := m, alternateDamaged := a } }
  group : ∀ g : GroupNo, t.groups[g] = s.groups[g] ∨
    ∃ x, s.groups[g] = some x ∧ t.groups[g] = some { x with repeatDamaged := true }
  cell : ∀ c : CellNo, t.pool.cells[c] = s.pool.cells[c] ∨ t.pool.cells[c] = { s.pool.cells[c] with fault := true }
  bin : ∀ n, (t.binList n).Sublist (s.binList n)
  binLaw : s.BinLaw → t.BinLaw

theorem State.Marked.refl (s : State) : s.Marked s :=
  ⟨rfl, fun _ => .inl rfl, fun _ => .inl rfl, fun _ => .inl rfl, fun _ => List.Sublist.refl _, id⟩

theorem State.Marked.trans {s t u : State} (h : s.Marked t) (k : t.Marked u) : s.Marked u where
  frame := by rw [k.frame, h.frame]
  entry slot := by
    rcases k.entry slot with hk | ⟨e, m, a, he, hk⟩
    · rw [hk]; exact h.entry slot
    · rcases h.entry slot with hh | ⟨e', m', a', he', hh⟩
      · rw [hh] at he hk; exact .inr ⟨e, m, a, he, hk⟩
      · rw [hh] at he hk; cases he; exact .inr ⟨e', m, a, he', hk⟩
  group g := by
    rcases k.group g with hk | ⟨x, hx, hk⟩
    · rw [hk]; exact h.group g
    · rcases h.group g with hh | ⟨y, hy, hh⟩
      · rw [hh] at hx; exact .inr ⟨x, hx, hk⟩
      · rw [hh] at hx; cases hx; exact .inr ⟨y, hy, hk⟩
  cell c := by
    rcases k.cell c with hk | hk <;> rcases h.cell c with hh | hh <;> rw [hh] at hk
    · exact .inl hk
    · exact .inr hk
    · exact .inr hk
    · exact .inr hk
  bin n := (k.bin n).trans (h.bin n)
  binLaw hb := k.binLaw (h.binLaw hb)

/-- An entry that the table holds is the occupant of its slot. -/
theorem State.installedAt_eq_some {s : State} {slot : SlotNo} {e : Installed} :
    s.installedAt slot = some e ↔ s.entries[slot].occupant = .installed e := by
  unfold State.installedAt
  cases s.entries[slot].occupant <;> simp

/-- The entry of a slot that has been set, and those of the other slots. -/
theorem State.installedAt_setInstalled (s : State) (slot other : SlotNo) (e : Installed) :
    (s.setInstalled slot e).installedAt other = if slot = other then some e else s.installedAt other := by
  unfold State.installedAt State.setInstalled State.setEntry
  by_cases h : slot = other
  · subst h; simp
  · have : (s.entries.set slot { s.entries[slot] with occupant := .installed e })[other] = s.entries[other] :=
      Vector.getElem_set_ne _ _ (fun hv => h (Fin.ext hv))
    simp only [this, if_neg h]

/-- A fault recorded marks one cell (R57). -/
theorem State.recordFault_marked (s : State) (c : CellNo) : s.Marked (s.recordFault c) where
  frame := rfl
  entry _ := .inl rfl
  group _ := .inl rfl
  cell d := by
    by_cases h : c = d
    · subst h; exact .inr (by simp [State.recordFault, State.setPool, Pool.recordFault, Pool.modifyCell])
    · refine .inl ?_
      simp only [State.recordFault, State.setPool, Pool.recordFault, Pool.modifyCell, Fin.getElem_fin]
      exact Vector.getElem_set_ne _ _ (fun hv => h (Fin.ext hv))
  bin _ := List.Sublist.refl _
  binLaw := id

/-- An entry marked damaged (R39). -/
theorem State.damageEntry_marked (s : State) (slot : SlotNo) (v : Variant) : s.Marked (s.damageEntry slot v) := by
  unfold State.damageEntry
  cases he : s.installedAt slot with
  | none => exact .refl s
  | some e =>
    have hocc : s.entries[slot].occupant = .installed e := by
      unfold State.installedAt at he
      split at he <;> simp_all
    have key : ∀ m a, s.Marked
        ((((s.leaveFrames slot e).setInstalled slot
            { e with status := .damaged, mainDamaged := m, alternateDamaged := a }).sendNotice
              (.entryDamaged (s.handleOf slot))).setTableAttention true) := by
      intro m a
      have hbin : ∀ n, ((s.leaveFrames slot e).binList n).Sublist (s.binList n) := by
        intro n
        unfold State.leaveFrames
        rw [State.binList_leaveBin, State.binList_leaveBin]
        split
        · exact (List.filter_sublist).trans List.filter_sublist
        · exact List.Sublist.refl _
      have hlaw : s.BinLaw → State.BinLaw ((((s.leaveFrames slot e).setInstalled slot
            { e with status := .damaged, mainDamaged := m, alternateDamaged := a }).sendNotice
              (.entryDamaged (s.handleOf slot))).setTableAttention true) := by
        intro hl n
        have hb2 : ∀ n, State.binList ((((s.leaveFrames slot e).setInstalled slot
            { e with status := .damaged, mainDamaged := m, alternateDamaged := a }).sendNotice
              (.entryDamaged (s.handleOf slot))).setTableAttention true) n = (s.leaveFrames slot e).binList n :=
          fun _ => rfl
        have hi2 : ∀ x, State.installedAt ((((s.leaveFrames slot e).setInstalled slot
            { e with status := .damaged, mainDamaged := m, alternateDamaged := a }).sendNotice
              (.entryDamaged (s.handleOf slot))).setTableAttention true) x =
            if slot = x then some { e with status := .damaged, mainDamaged := m, alternateDamaged := a }
            else s.installedAt x := by
          intro x
          have h1 := State.installedAt_setInstalled (s.leaveFrames slot e) slot x
            { e with status := .damaged, mainDamaged := m, alternateDamaged := a }
          have h2 : (s.leaveFrames slot e).installedAt x = s.installedAt x := by
            obtain ⟨b, hb⟩ := s.leaveFrames_frame slot e
            rw [hb]; rfl
          rw [h2] at h1
          exact h1
        have hg2 : State.groups ((((s.leaveFrames slot e).setInstalled slot
            { e with status := .damaged, mainDamaged := m, alternateDamaged := a }).sendNotice
              (.entryDamaged (s.handleOf slot))).setTableAttention true) = s.groups := by
          obtain ⟨b, hb⟩ := s.leaveFrames_frame slot e
          rw [hb]; rfl
        have hlist : (s.leaveFrames slot e).binList n = if n = e.runCount then
            ((s.binList n).filter (fun x => decide (x ≠ .frame slot .main))).filter
              (fun x => decide (x ≠ .frame slot .alternate)) else s.binList n := by
          unfold State.leaveFrames
          rw [State.binList_leaveBin, State.binList_leaveBin]
          split <;> rfl
        obtain ⟨h1, h2, h3⟩ := hl n
        rw [hb2, hg2]
        refine ⟨h1.sublist (hbin n), fun x v => ?_, fun g => ?_⟩
        · rw [hi2, hlist]
          by_cases hx : slot = x
          · subst hx
            rw [if_pos rfl]
            constructor
            · intro hm
              exfalso
              split at hm
              · cases v <;> simp at hm
              · rename_i hn
                obtain ⟨e', he', _, hr, _⟩ := (h2 slot v).1 hm
                rw [he] at he'; cases he'; exact hn hr.symm
            · rintro ⟨e', he', hs, _⟩
              cases he'; cases hs
          · rw [if_neg hx, ← h2 x v]
            have hne : ∀ w, (PatternRef.frame x v ≠ .frame slot w) := by
              intro w hw; cases hw; exact hx rfl
            split
            · simp [hne]
            · rfl
        · rw [hlist, ← h3 g]
          split
          · simp
          · rfl
      obtain ⟨b, hb⟩ := s.leaveFrames_frame slot e
      rw [hb] at hbin hlaw ⊢
      refine ⟨rfl, fun x => ?_, fun _ => .inl rfl, fun _ => .inl rfl, hbin, hlaw⟩
      by_cases hx : slot = x
      · subst hx
        exact .inr ⟨e, m, a, hocc, by
          simp [State.setTableAttention, State.setPort, State.sendNotice, State.setMail, State.setInstalled,
            State.setEntry]⟩
      · exact .inl (Vector.getElem_set_ne slot.isLt x.isLt (fun hv => hx (Fin.ext hv)))
    simp only
    cases e.status with
    | damaged => exact .refl s
    | active => cases v <;> exact key _ _
    | suspended => cases v <;> exact key _ _

/-- A group marked REPEAT_DAMAGED (R40). -/
theorem State.damageRepeat_marked (s : State) (g : GroupNo) : s.Marked (s.damageRepeat g) := by
  unfold State.damageRepeat
  split
  · exact .refl s
  · rename_i group hg
    cases hp : group.repeatPattern with
    | none => exact .refl s
    | some p =>
      cases group.repeatDamaged with
      | true => exact .refl s
      | false =>
      have hbin : ∀ n, ((s.leaveBin p.runCount (.ofGroup g)).binList n).Sublist (s.binList n) := by
        intro n
        rw [State.binList_leaveBin]
        split
        · exact List.filter_sublist
        · exact List.Sublist.refl _
      have hlaw : s.BinLaw → State.BinLaw (((s.leaveBin p.runCount (.ofGroup g)).setGroup g
          (some { group with repeatDamaged := true })).setTableAttention true) := by
        intro hl n
        have hi2 : ∀ x, State.installedAt (((s.leaveBin p.runCount (.ofGroup g)).setGroup g
          (some { group with repeatDamaged := true })).setTableAttention true) x = s.installedAt x := by
          intro x
          obtain ⟨b, hb⟩ := s.leaveBin_frame p.runCount (.ofGroup g)
          rw [hb]; rfl
        have hg2 : ∀ x : GroupNo, (State.groups (((s.leaveBin p.runCount (.ofGroup g)).setGroup g
          (some { group with repeatDamaged := true })).setTableAttention true))[x] =
            if g = x then some { group with repeatDamaged := true } else s.groups[x] := by
          intro x
          obtain ⟨b, hb⟩ := s.leaveBin_frame p.runCount (.ofGroup g)
          rw [hb]
          by_cases hx : g = x
          · subst hx; simp [State.setTableAttention, State.setPort, State.setGroup]
          · rw [if_neg hx]
            exact Vector.getElem_set_ne g.isLt x.isLt (fun hv => hx (Fin.ext hv))
        obtain ⟨h1, h2, h3⟩ := hl n
        refine ⟨h1.sublist (hbin n), fun x v => ?_, fun x => ?_⟩
        · rw [hi2, ← h2 x v]
          show _ ∈ (s.leaveBin p.runCount (.ofGroup g)).binList n ↔ _
          rw [State.binList_leaveBin]
          split
          · simp
          · rfl
        · rw [hg2]
          show _ ∈ (s.leaveBin p.runCount (.ofGroup g)).binList n ↔ _
          rw [State.binList_leaveBin]
          by_cases hx : g = x
          · subst hx
            rw [if_pos rfl]
            constructor
            · intro hm
              exfalso
              split at hm
              · simp at hm
              · rename_i hn
                obtain ⟨group', p', hg', hp', _, hr, _⟩ := (h3 g).1 hm
                rw [hg] at hg'; cases hg'
                rw [hp] at hp'; cases hp'
                exact hn hr.symm
            · rintro ⟨group', p', hg', hp', hd, _⟩
              cases hg'; cases hd
          · rw [if_neg hx, ← h3 x]
            have hne : PatternRef.ofGroup x ≠ .ofGroup g := by intro hw; cases hw; exact hx rfl
            split
            · simp [hne]
            · rfl
      obtain ⟨b, hb⟩ := s.leaveBin_frame p.runCount (.ofGroup g)
      simp only
      rw [hb] at hbin hlaw ⊢
      rw [hp] at hlaw
      refine ⟨rfl, fun _ => .inl rfl, fun x => ?_, fun _ => .inl rfl, hbin, hlaw⟩
      by_cases hx : g = x
      · subst hx
        exact .inr ⟨group, hg, by simp [State.setTableAttention, State.setPort, State.setGroup, hp]⟩
      · exact .inl (Vector.getElem_set_ne g.isLt x.isLt (fun hv => hx (Fin.ext hv)))

/-- The owner of a pattern marked damaged (R39, R40). -/
theorem State.damagePattern_marked (s : State) (ref : PatternRef) : s.Marked (s.damagePattern ref) := by
  cases ref with
  | frame slot v => exact s.damageEntry_marked slot v
  | ofGroup g => exact s.damageRepeat_marked g

/-- One read of a conflict check (R27). -/
theorem State.checkRead_marked (s : State) (c : Contender) (k : Nat) : s.Marked (s.checkRead c k).2.1 := by
  unfold State.checkRead
  split
  · exact .refl s
  · exact .refl s
  · split
    · exact (s.recordFault_marked _).trans (State.damagePattern_marked _ _)
    · exact s.recordFault_marked _
    · exact s.recordFault_marked _

/-- The comparison of two patterns (R27). -/
theorem compareRuns_marked (p q : Contender) (ks : List Nat) (s : State) : s.Marked (compareRuns p q ks s).1 := by
  induction ks generalizing s with
  | nil => exact .refl s
  | cons k ks ih =>
    have h1 := s.checkRead_marked p k
    unfold compareRuns
    split
    · rename_i hp; rw [hp] at h1; exact h1
    · rename_i s1 hp
      rw [hp] at h1
      have h2 := State.checkRead_marked s1 q k
      split
      · rename_i hq; rw [hq] at h2; exact h1.trans h2
      · rename_i s2 hq
        rw [hq] at h2
        have h12 := h1.trans h2
        split
        · split
          · exact h12.trans (ih _)
          · exact h12
        · exact h12.trans (ih _)

/-- The comparison of one pair (R13, R27). -/
theorem comparePair_marked (p q : Contender) (s : State) : s.Marked (comparePair p q s).1 := by
  unfold comparePair
  split
  · exact compareRuns_marked p q _ s
  · exact .refl s

/-- A pattern against a list (R27). -/
theorem compareAgainst_marked (p : Contender) (l : List Contender) (s : State) :
    s.Marked (compareAgainst p l s).1 := by
  induction l generalizing s with
  | nil => exact .refl s
  | cons q qs ih =>
    have h := comparePair_marked p q s
    unfold compareAgainst
    split
    · rename_i hp; rw [hp] at h; exact h.trans (ih _)
    · exact h

/-- The patterns under test with one another (R27). -/
theorem compareWithin_marked (l : List Contender) (s : State) : s.Marked (compareWithin l s).1 := by
  induction l generalizing s with
  | nil => exact .refl s
  | cons p ps ih =>
    have h := compareAgainst_marked p ps s
    unfold compareWithin
    split
    · rename_i hp; rw [hp] at h; exact h.trans (ih _)
    · exact h

/-- The patterns under test against the set (R27). -/
theorem compareEach_marked (set l : List Contender) (s : State) : s.Marked (compareEach set l s).1 := by
  induction l generalizing s with
  | nil => exact .refl s
  | cons p ps ih =>
    have h := compareAgainst_marked p set s
    unfold compareEach
    split
    · rename_i hp; rw [hp] at h; exact h.trans (ih _)
    · exact h

/-- The conflict check: marks alone (R27). -/
theorem conflictCheck_marked (underTest set : List Contender) (s : State) :
    s.Marked (conflictCheck underTest set s).1 := by
  have h := compareWithin_marked underTest s
  unfold conflictCheck
  split
  · rename_i hp; rw [hp] at h; exact h.trans (compareEach_marked _ _ _)
  · exact h

/-- A host read of one run (R43). -/
theorem State.readTableRun_marked (ref : PatternRef) (chain : List CellNo) (acc : State × List Word) (k : Nat) :
    acc.1.Marked (State.readTableRun ref chain acc k).1 := by
  unfold State.readTableRun
  split
  · exact .refl _
  · exact (State.recordFault_marked _ _).trans (State.damagePattern_marked _ _)
  · exact .refl _

/-- A host read of a pattern: marks alone (R43). -/
theorem State.readPattern_marked (s : State) (ref : PatternRef) (chain : List CellNo) (n : Nat) :
    s.Marked (s.readPattern ref chain n).1 := by
  unfold State.readPattern
  suffices h : ∀ (l : List Nat) (acc : State × List Word), acc.1.Marked (l.foldl (State.readTableRun ref chain) acc).1 by
    exact h _ (s, [])
  intro l
  induction l with
  | nil => intro acc; exact .refl _
  | cons k ks ih => intro acc; exact (State.readTableRun_marked ref chain acc k).trans (ih _)

/-- The reads of an ENTRY READ: marks alone (R43). -/
theorem State.readFrames_marked (s : State) (slot : SlotNo) (e : Installed) : s.Marked (s.readFrames slot e).1 := by
  unfold State.readFrames
  have h := s.readPattern_marked (.frame slot .main) e.main e.runCount
  split
  rename_i s1 w hs
  rw [hs] at h
  split
  · exact h
  · rename_i chain _
    have h2 := State.readPattern_marked s1 (.frame slot .alternate) chain e.runCount
    split
    rename_i hs2
    rw [hs2] at h2
    exact h.trans h2

/-- The reads of a GROUP READ: marks alone (R43). -/
theorem State.readRepeat_marked (s : State) (g : GroupNo) (p : Option Pattern) : s.Marked (s.readRepeat g p).1 := by
  unfold State.readRepeat
  split
  · exact .refl s
  · rename_i p
    have h := s.readPattern_marked (.ofGroup g) p.chain p.runCount
    split
    rename_i hs
    rw [hs] at h
    exact h

/-- The visits of a lookup: marks alone (R86 to R90). -/
theorem State.visits_marked (b : Burst) (l : List PatternRef) (acc : State × Found) :
    acc.1.Marked (l.foldl (State.visit b) acc).1 := by
  induction l generalizing acc with
  | nil => exact .refl _
  | cons ref refs ih =>
    refine State.Marked.trans ?_ (ih _)
    unfold State.visit
    simp only
    split
    · split
      · exact .refl _
      · split
        · exact .refl _
        · exact .refl _
        · exact (State.recordFault_marked _ _).trans (State.damagePattern_marked _ _)
    · exact .refl _

/-! ## What marks leave as it is -/

/-- The generation of a slot (R17). -/
theorem State.Marked.generation {s t : State} (h : s.Marked t) (slot : SlotNo) :
    t.entries[slot].generation = s.entries[slot].generation := by
  rcases h.entry slot with h | ⟨e, m, a, _, h⟩ <;> rw [h]

/-- The key value a slot holds (R26). -/
theorem State.Marked.holdsKey {s t : State} (h : s.Marked t) (slot : SlotNo) (g : GroupNo) (key : Word) :
    t.entries[slot].occupant.holdsKey g key = s.entries[slot].occupant.holdsKey g key := by
  rcases h.entry slot with h | ⟨e, m, a, he, h⟩ <;> rw [h]
  rw [he]; rfl

/-- A LOADING slot, and only such a slot, is LOADING afterwards (R18). -/
theorem State.Marked.loading {s t : State} (h : s.Marked t) (slot : SlotNo) (l : Loading) :
    t.entries[slot].occupant = .loading l ↔ s.entries[slot].occupant = .loading l := by
  rcases h.entry slot with h | ⟨e, m, a, he, h⟩ <;> rw [h]
  rw [he]; simp

/-- The condition and the references of a cell (R47). -/
theorem State.Marked.condition {s t : State} (h : s.Marked t) (c : CellNo) :
    t.pool.cells[c].condition = s.pool.cells[c].condition ∧ t.pool.cells[c].refs = s.pool.cells[c].refs := by
  rcases h.cell c with h | h <;> rw [h] <;> exact ⟨rfl, rfl⟩

end Sys2Proof.Machine
end

