-- ==== Sys2Proof/Laws/Effects.lean ====
section
/-! SUPPORT. What each command can change: `exec_within` says, for all commands at once, which parts of the state a
command may touch; every other part is as it was. -/

namespace Sys2Proof.Machine

set_option Elab.async false

/-- The parts of the state that the footprints of commands name. -/
inductive Part where
  | timebase | memoryTest | entries | groups | bins
  | lookupClaims | outputClaims | hostClaim | last
  | working | cells | freeList | returnList | reservation
  | inputs | tracker | relays | outputs
  | ready | engine | portBits | attention
  | path | inputChanges | linkRequests | linkClears | pressStarts | retires | holdEnded | sticky | releases | removals
  | pending
  deriving DecidableEq, Repr

/-- A part is the same in two states; `portBits` are the bits, records and frames of the host port but for READY, the
engine and ATTENTION. -/
def Part.same (s t : State) : Part → Prop
  | .timebase => t.timebase = s.timebase
  | .memoryTest => t.memoryTest = s.memoryTest
  | .entries => t.entries = s.entries
  | .groups => t.groups = s.groups
  | .bins => t.bins = s.bins
  | .lookupClaims => t.claims.lookup = s.claims.lookup
  | .outputClaims => t.claims.output = s.claims.output
  | .hostClaim => t.claims.host = s.claims.host
  | .last => t.claims.last = s.claims.last
  | .working => t.working = s.working
  | .cells => t.pool.cells = s.pool.cells
  | .freeList => t.pool.freeList = s.pool.freeList
  | .returnList => t.pool.returnList = s.pool.returnList
  | .reservation => t.pool.reservation = s.pool.reservation
  | .inputs => t.inputs = s.inputs
  | .tracker => t.tracker = s.tracker
  | .relays => t.relays = s.relays
  | .outputs => t.outputs = s.outputs
  | .ready => t.port.ready = s.port.ready
  | .engine => t.port.engine = s.port.engine
  | .portBits => { t.port with ready := false, engine := .idle, attention := Attention.clear } =
      { s.port with ready := false, engine := .idle, attention := Attention.clear }
  | .attention => t.port.attention = s.port.attention
  | .path => t.mail.path = s.mail.path
  | .inputChanges => t.mail.inputChanges = s.mail.inputChanges
  | .linkRequests => t.mail.linkRequests = s.mail.linkRequests
  | .linkClears => t.mail.linkClears = s.mail.linkClears
  | .pressStarts => t.mail.pressStarts = s.mail.pressStarts
  | .retires => t.mail.retires = s.mail.retires
  | .holdEnded => t.mail.holdEnded = s.mail.holdEnded
  | .sticky => t.mail.sticky = s.mail.sticky
  | .releases => t.mail.releases = s.mail.releases
  | .removals => t.mail.removals = s.mail.removals
  | .pending => t.pending = s.pending

/-- `t` is `s` but for the parts of the list. -/
def State.Within (l : List Part) (s t : State) : Prop := ∀ p, p ∉ l → p.same s t

theorem State.Within.refl (l : List Part) (s : State) : State.Within l s s := by
  intro p _; cases p <;> rfl

theorem State.Within.widen {l m : List Part} {s t : State} (h : State.Within l s t) (k : l ⊆ m) :
    State.Within m s t := fun p hp => h p (fun hl => hp (k hl))

/-- A list of parts as a mask, so that one list can be compared with another by arithmetic. -/
def Part.mask : List Part → Nat
  | [] => 0
  | p :: ps => 2 ^ p.ctorIdx ||| Part.mask ps

theorem Part.testBit_mask (p : Part) (l : List Part) : (Part.mask l).testBit p.ctorIdx = decide (p ∈ l) := by
  induction l with
  | nil => simp [Part.mask]
  | cons q qs ih =>
    have hq : (q.ctorIdx = p.ctorIdx) = (p = q) := by
      apply propext
      constructor
      · intro h; revert h; cases p <;> cases q <;> decide
      · rintro rfl; rfl
    simp [Part.mask, ih, Nat.testBit_two_pow, hq]

theorem State.Within.mono {l m : List Part} {s t : State} (h : State.Within l s t)
    (k : Part.mask l ||| Part.mask m = Part.mask m) : State.Within m s t := by
  refine fun p hp => h p (fun hl => hp ?_)
  have h1 := congrArg (fun n => n.testBit p.ctorIdx) k
  simpa [Part.testBit_mask, hl] using h1

theorem State.Within.trans {l m : List Part} {s t u : State} (h : State.Within l s t) (k : State.Within m t u) :
    State.Within (l ++ m) s u := by
  intro p hp
  have h1 := h p (fun x => hp (List.mem_append_left m x))
  have h2 := k p (fun x => hp (List.mem_append_right l x))
  cases p <;> exact Eq.trans h2 h1

/-! ## The blocks and the shared operations -/

/-- What an output may touch. -/
def outputParts : List Part := [.outputs, .outputClaims, .linkClears, .removals, .attention]
/-- What the press tracker may touch. -/
def trackerParts : List Part := [.tracker, .holdEnded, .sticky, .pressStarts]
/-- What an input may touch. -/
def inputParts : List Part := [.inputs, .lookupClaims, .attention]
/-- What the marking of faults and damage may touch. -/
def markParts : List Part := [.entries, .groups, .bins, .cells, .path, .attention]
/-- What the host port may touch. -/
def hostParts : List Part := [.engine, .portBits, .hostClaim]
/-- What the return of cells may touch. -/
def returnParts : List Part := [.cells, .freeList, .attention]
/-- What a host table step may touch beside its own effect. -/
def stepParts : List Part := [.engine, .portBits, .hostClaim, .last]

theorem State.OutputOnly.within {o : OutputId} {s t : State} (h : State.OutputOnly o s t) :
    State.Within outputParts s t := by
  obtain ⟨x, c, l, r, a, rfl⟩ := h
  intro p hp; cases p <;> first | rfl | exact absurd (by decide) hp

theorem State.TrackerOnly.within {s t : State} (h : s.TrackerOnly t) : State.Within trackerParts s t := by
  obtain ⟨x, a, b, c, rfl⟩ := h
  intro p hp; cases p <;> first | rfl | exact absurd (by decide) hp

theorem State.InputOnly.within {i : InputId} {s t : State} (h : State.InputOnly i s t) :
    State.Within inputParts s t := by
  obtain ⟨x, c, a, rfl⟩ := h
  intro p hp; cases p <;> first | rfl | exact absurd (by decide) hp

theorem State.Marked.within {s t : State} (h : s.Marked t) : State.Within markParts s t := by
  rw [h.frame]
  intro p hp; cases p <;> first | rfl | exact absurd (by decide) hp

theorem State.advanceTo_within (s : State) (t : Time) : State.Within [.timebase, .outputs] s (s.advanceTo t) := by
  intro p hp; cases p <;> first | rfl | exact absurd (by decide) hp

theorem State.served_within (s : State) (x : Position) :
    State.Within [.lookupClaims, .outputClaims, .hostClaim, .last] s (s.served x) := by
  obtain ⟨c, h⟩ := s.served_frame x
  rw [h]
  intro p hp; cases p <;> first | rfl | exact absurd (by decide) hp

theorem State.servedHost_within (s : State) : State.Within [.hostClaim, .last] s (s.served .host) := by
  intro p hp; cases p <;> first | rfl | exact absurd (by decide) hp

theorem Pool.returnCells_frame (p : Pool) (chain : List CellNo) :
    ∃ cells free, p.returnCells chain = { p with cells := cells, freeList := free } := by
  unfold Pool.returnCells
  induction chain generalizing p with
  | nil => exact ⟨p.cells, p.freeList, rfl⟩
  | cons c cs ih =>
    obtain ⟨cells, free, h⟩ := ih (p.returnCell c)
    rw [List.foldl_cons, h]
    unfold Pool.returnCell Pool.modifyCell
    split <;> exact ⟨_, _, rfl⟩

theorem State.returnCells_within (s : State) (chain : List CellNo) :
    State.Within returnParts s (s.returnCells chain) := by
  rw [s.returnCells_frame]
  obtain ⟨cells, free, h⟩ := s.pool.returnCells_frame chain
  rw [h]
  intro p hp; cases p <;> first | rfl | exact absurd (by decide) hp

theorem State.returnReservation_within (s : State) :
    State.Within [.cells, .freeList, .attention, .reservation] s s.returnReservation := by
  rw [s.returnReservation_frame]
  obtain ⟨cells, free, h⟩ := Pool.returnCells_frame { s.pool with reservation := [] } s.pool.reservation
  rw [h]
  intro p hp; cases p <;> first | rfl | exact absurd (by decide) hp

theorem State.finish_within (s : State) (task : Task) (held : Bool) (outcome : HostOutcome) (results : List Word) :
    State.Within [.engine, .portBits] s (s.finish task held outcome results) := by
  unfold State.finish
  split
  · intro p hp; cases p <;> first | rfl | exact absurd (by decide) hp
  · split <;> (intro p hp; cases p <;> first | rfl | exact absurd (by decide) hp)

theorem State.endTask_within (s : State) (task : Task) (cut : Bool) (outcome : HostOutcome) :
    State.Within [.engine, .portBits] s (s.endTask task cut outcome) := by
  intro p hp; cases p <;> first | rfl | exact absurd (by decide) hp

theorem State.stepPassed_within (s : State) (task : Task) (held : Bool) :
    State.Within hostParts s (s.stepPassed task held) := by
  obtain ⟨e, h, hs, _⟩ := s.stepPassed_frame task held
  rw [hs]
  intro p hp; cases p <;> first | rfl | exact absurd (by decide) hp

theorem State.stepFailed_within (s : State) (task : Task) (outcome : HostOutcome) :
    State.Within hostParts s (s.stepFailed task outcome) := (s.endTask_within task false outcome).mono (by decide)

/-- A host table step touches what its body touches, and the host port and claim. -/
theorem State.hostStep_within (s : State) (h : HostStep) (body : Task → Bool → State → State) (l : List Part)
    (hb : ∀ task held u, State.Within l u (body task held u)) :
    State.Within ([.hostClaim, .last] ++ l) s (s.hostStep h body) := by
  rcases s.hostStep_cases h body with he | ⟨task, held, he, _⟩ <;> rw [he]
  · exact .refl _ s
  · exact s.servedHost_within.trans (hb task held _)

/-- A request touches what its work touches. -/
theorem State.hostCommand_within (s : State) (c : HostCommand) (part : HostPart) (work : Task → Bool → State → State)
    (l : List Part) (hw : ∀ task held u, State.Within l u (work task held u)) :
    State.Within (hostParts ++ l) s (s.hostCommand c part work) := by
  cases part with
  | commandWrite arg =>
    obtain ⟨p, h, he, ha⟩ := s.commandWrite_frame c.code arg
    show State.Within _ s (s.commandWrite c.code arg)
    rw [he]
    intro p hp
    cases p <;> first | rfl | exact absurd (List.mem_append_left l (by decide)) hp | exact congrArg Prod.fst ha | exact congrArg Prod.snd ha
  | request =>
    rcases s.blockRequest_cases c work with he | ⟨task, held, he, _⟩ <;> (show State.Within _ s (s.blockRequest c work); rw [he])
    · exact .refl _ s
    · exact (hw task held s).widen (List.subset_append_right _ _)

/-! ## Command by command -/

/-- The parts of the state a command may touch. -/
def touches : Instr → List Part
  | .hardwareReset => [.timebase, .memoryTest, .entries, .groups, .bins, .lookupClaims, .outputClaims, .hostClaim,
      .last, .working, .cells, .freeList, .returnList, .reservation, .inputs, .tracker, .relays, .outputs, .ready,
      .engine, .portBits, .attention, .path, .inputChanges, .linkRequests, .linkClears, .pressStarts, .retires,
      .holdEnded, .sticky, .releases, .removals]
  | .memoryTestEnd _ _ => [.timebase, .outputs, .memoryTest, .cells, .freeList, .returnList, .reservation,
      .attention, .inputs, .lookupClaims, .ready, .engine, .portBits]
  | .flagsRead | .ignoredLocationWrite _ _ => [.portBits]
  | .transferRead => [.engine, .portBits]
  | .transferWrite _ | .capture _ => [.engine, .portBits, .hostClaim, .cells]
  | .transferTimeout _ => [.timebase, .outputs, .engine, .portBits, .hostClaim]
  | .abort _ | .interruptEnableWrite _ | .badCommand _ _ | .initializeCommand _ | .tableStatus _ | .groupDefine _
  | .groupEdit _ | .groupRemove _ | .groupRead _ | .entryInstall _ | .entryEdit _ | .entrySuspend _
  | .entryResume _ | .entryRetire _ | .entryRead _ | .entryFind _ | .entryList _ => hostParts
  | .inputConfigure _ => hostParts ++ (inputParts ++ [.inputChanges])
  | .inputStatus _ => hostParts ++ inputParts
  | .report _ | .pressRead _ | .pressEnd _ => hostParts ++ trackerParts
  | .relaySet _ | .relayClear _ | .relayRead _ => hostParts ++ [.relays]
  | .outputConfigure _ | .outputStatus _ | .send _ | .holdStart _ | .holdEnd _ | .outputFlush _ =>
    hostParts ++ outputParts
  | .lookup _ => [.inputs, .lookupClaims, .last, .working, .sticky] ++ markParts
  | .frameGrant _ => [.last, .cells] ++ outputParts
  | .damageNotice _ => [.last, .outputClaims] ++ markParts
  | .installParameterStep => stepParts ++ [.entries, .cells, .freeList, .reservation]
  | .parameterPhaseCleanUp => stepParts ++ [.entries, .cells, .freeList, .reservation, .attention]
  | .installFinalStep => stepParts ++ ([.freeList, .reservation] ++ markParts)
  | .groupParameterStep => stepParts ++ [.cells, .freeList, .reservation]
  | .groupDefineFinalStep => stepParts ++ ([.freeList, .reservation, .outputs] ++ markParts)
  | .groupEditFinalStep => stepParts ++ ([.freeList, .reservation, .releases] ++ markParts)
  | .groupRemoveStep => stepParts ++ [.groups, .bins, .releases, .outputs]
  | .entryEditStep | .entryReadStep | .groupReadStep => stepParts ++ markParts
  | .suspend => stepParts ++ [.entries, .bins, .path]
  | .resume => stepParts ++ [.entries, .bins]
  | .retire => stepParts ++ [.entries, .groups, .bins, .path, .retires, .releases]
  | .entryFindStep | .entryListStep => stepParts
  | .tableStatusStep => stepParts ++ [.attention]
  | .handleCheck _ => stepParts ++ ([.relays] ++ outputParts)
  | .initializeTableStep => [.memoryTest, .entries, .groups, .bins, .lookupClaims, .outputClaims, .hostClaim, .last,
      .working, .cells, .freeList, .returnList, .reservation, .inputs, .tracker, .relays, .outputs, .attention, .path,
      .inputChanges, .linkRequests, .linkClears, .pressStarts, .retires, .holdEnded, .sticky, .releases, .removals]
  | .chainRelease => [.releases, .returnList] ++ returnParts
  | .referenceRemoval _ => [.removals, .returnList] ++ returnParts
  | .lineTransition _ _ | .carrierGap _ _ | .glitchFloorReached _ _ | .stuck _ _ | .endGap _ _
  | .discardingEndGap _ _ => [.timebase, .outputs] ++ inputParts
  | .blankingAsserted _ _ | .blankingReleased _ => inputParts
  | .stickySetRequest _ _ => .sticky :: inputParts
  | .matchResult | .entryRetiredNotice | .entrySuspendedNotice | .entryDamagedNotice | .groupChangedNotice =>
    .path :: trackerParts
  | .releaseExpiry _ _ | .pressLimitExpiry _ _ => [.timebase, .outputs] ++ trackerParts
  | .inputChangeNotice => .inputChanges :: trackerParts
  | .linkRequest => .linkRequests :: trackerParts
  | .linkClear _ => .linkClears :: trackerParts
  | .pressStart => [.pressStarts, .relays, .linkRequests] ++ outputParts
  | .relayRetireNotice => [.retires, .relays]
  | .holdEnded _ => .holdEnded :: outputParts
  | .frameEnd _ _ | .intervalEnd _ _ | .holdLimit _ _ | .spaceEnd _ _ => .timebase :: outputParts
  | .frameParityFault _ _ => [.timebase, .cells] ++ outputParts

/-! ### The host port -/

theorem State.frameEnd_within (s : State) (address : BitVec 8) (w : Word) :
    State.Within [.portBits] s (s.frameEnd address w).2 := by
  rcases s.frameEnd_cases address w with h | ⟨x, h⟩ | h <;> rw [h] <;>
    (intro p hp; cases p <;> first | rfl | exact absurd (by decide) hp)

theorem execFlagsRead_within (s : State) : ∀ t, execFlagsRead s = .next t → State.Within [.portBits] s t := by
  intro t h
  cases h
  have h := s.frameEnd_within (addressByte true 0) 0
  unfold State.flagsRead
  split <;> rename_i hs <;> rw [hs] at h
  · exact (h.trans (m := [.portBits]) (by intro p hp; cases p <;> first | rfl | exact absurd (by decide) hp)).mono (by decide)
  · exact h

theorem execTransferRead_within (s : State) :
    ∀ t, execTransferRead s = .next t → State.Within [.engine, .portBits] s t := by
  intro t h
  cases h
  have h := s.frameEnd_within (addressByte true 1) 0
  unfold State.transferRead
  split <;> rename_i s' hs <;> rw [hs] at h
  · obtain ⟨p, he, ha⟩ := State.takeResult_frame s'
    refine (h.trans (m := [.engine, .portBits]) ?_).mono (by decide)
    rw [he]
    intro p hp
    cases p <;> first | rfl | exact absurd (by decide) hp | exact congrArg Prod.fst ha | exact congrArg Prod.snd ha
  · exact (h.trans (m := [.portBits]) (by intro p hp; cases p <;> first | rfl | exact absurd (by decide) hp)).mono (by decide)
  · exact h.mono (by decide)

theorem State.writeFrame_within (s : State) (address : BitVec 8) (w : Word) (effect : State → State) (l : List Part)
    (h : ∀ u, State.Within l u (effect u)) : State.Within (.portBits :: l) s (s.writeFrame address w effect) := by
  obtain ⟨spi, miso, he | he⟩ := s.writeFrame_frame address w effect <;> rw [he]
  · exact State.Within.trans (l := [.portBits]) (by intro p hp; cases p <;> first | rfl | exact absurd (by decide) hp) (h _)
  · exact State.Within.widen (l := [.portBits]) (by intro p hp; cases p <;> first | rfl | exact absurd (by decide) hp) (by simp)

theorem State.takeWord_within (s : State) (task : Task) (w : Word) :
    State.Within [.engine, .portBits, .hostClaim, .cells] s (s.takeWord task w) := by
  obtain ⟨p, h, cells, he, ha⟩ := s.takeWord_frame task w
  rw [he]
  intro p hp
  cases p <;> first | rfl | exact absurd (by decide) hp | exact congrArg Prod.fst ha | exact congrArg Prod.snd ha

theorem execTransferWrite_within (w : Word) (s : State) :
    ∀ t, execTransferWrite w s = .next t → State.Within [.engine, .portBits, .hostClaim, .cells] s t := by
  intro t h
  cases h
  refine (s.writeFrame_within _ _ _ [.engine, .portBits, .hostClaim, .cells] (fun u => ?_)).mono (by decide)
  split
  · exact u.takeWord_within _ w
  all_goals exact State.Within.mono (l := [.portBits]) (by intro p hp; cases p <;> first | rfl | exact absurd (by decide) hp) (by decide)

theorem State.commandWrite_within (s : State) (code arg : BitVec 8) :
    State.Within hostParts s (s.commandWrite code arg) := by
  obtain ⟨p, h, he, ha⟩ := s.commandWrite_frame code arg
  rw [he]
  intro p hp
  cases p <;> first | rfl | exact absurd (by decide) hp | exact congrArg Prod.fst ha | exact congrArg Prod.snd ha

theorem State.controlWrite_within (s : State) (w : Word) : State.Within hostParts s (s.controlWrite w) := by
  obtain ⟨p, h, he, ha⟩ := s.controlWrite_frame w
  rw [he]
  intro p hp
  cases p <;> first | rfl | exact absurd (by decide) hp | exact congrArg Prod.fst ha | exact congrArg Prod.snd ha

theorem State.endOrCleanUp_within (s : State) (task : Task) (outcome : HostOutcome) :
    State.Within hostParts s (s.endOrCleanUp task outcome) := by
  obtain ⟨p, h, he, ha, _⟩ := s.endOrCleanUp_frame task outcome
  rw [he]
  intro p hp
  cases p <;> first | rfl | exact absurd (by decide) hp | exact congrArg Prod.fst ha | exact congrArg Prod.snd ha

theorem State.transferExpiry_within (s : State) : State.Within hostParts s s.transferExpiry := by
  unfold State.transferExpiry
  split
  · split
    · exact s.endOrCleanUp_within _ _
    · exact .refl _ s
  · split
    · exact (s.endTask_within _ true _).mono (by decide)
    · exact .refl _ s
  all_goals exact .refl _ s

/-! ### The requests of commands to the blocks -/

theorem State.configureInput_within (s : State) (i : InputId) (c : InputConfig) :
    State.Within (inputParts ++ [.inputChanges]) s (s.configureInput i c) := by
  have h1 : State.Within inputParts s ((s.setInput i { s.inputs[i] with held := none }).withdrawLookup i) := (by intro p hp; cases p <;> first | rfl | exact absurd (by decide) hp)
  have h2 : ∀ u : State, State.Within [.inputChanges] u (u.sendInputChange i) := fun u => (by intro p hp; cases p <;> first | rfl | exact absurd (by decide) hp)
  have h3 : ∀ u : State, State.Within inputParts u (u.clearSticky i) := fun u => (by intro p hp; cases p <;> first | rfl | exact absurd (by decide) hp)
  have h4 : ∀ (u : State) x, State.Within inputParts u (u.setInput i x) := fun u x => (u.setInput_only i x).within
  exact ((((h1.trans (h2 _)).trans (h3 _)).trans (h4 _ _)).trans (State.placeInput_only _ i).within).mono (by decide)

theorem inputConfigureWork_within (task : Task) (held : Bool) (s : State) :
    State.Within ([.engine, .portBits] ++ (inputParts ++ [.inputChanges])) s (inputConfigureWork task held s) :=
  ((s.configureInput_within _ _).trans (State.finish_within _ task held .ok [])).mono (by decide)

theorem reportWork_within (task : Task) (held : Bool) (s : State) :
    State.Within (trackerParts ++ [.engine, .portBits]) s (reportWork task held s) :=
  s.collectReport_only.within.trans (State.finish_within _ task held .ok _)

theorem pressEndWork_within (task : Task) (held : Bool) (s : State) :
    State.Within (trackerParts ++ [.engine, .portBits]) s (pressEndWork task held s) := by
  unfold pressEndWork
  simp only
  split
  · exact (s.endPress_only _ _).within.trans (State.finish_within _ task held .ok [])
  · exact (s.finish_within task held _ []).mono (by decide)

theorem relaySetWork_within (task : Task) (held : Bool) (s : State) :
    State.Within [.relays, .engine, .portBits] s (relaySetWork task held s) := by
  unfold relaySetWork
  split
  · rename_i a b _ _
    obtain ⟨m, h⟩ := s.relayWrite_frame (relayRecordOf a b (task.word 2))
    have hw : State.Within [.relays] s (s.relayWrite (relayRecordOf a b (task.word 2))).1 := by
      rw [h]; exact (by intro p hp; cases p <;> first | rfl | exact absurd (by decide) hp)
    split <;> rename_i hs <;> rw [hs] at hw
    · exact (hw.trans (State.finish_within _ task held _ _)).mono (by decide)
    · exact (hw.trans (State.finish_within _ task held _ _)).mono (by decide)
  · exact (s.finish_within task held _ []).mono (by decide)

theorem afterRetires_within (work : Task → Bool → State → State) (l : List Part)
    (h : ∀ task held u, State.Within l u (work task held u)) (task : Task) (held : Bool) (s : State) :
    State.Within l s (afterRetires work task held s) := by
  unfold afterRetires
  split
  · exact h task held s
  · exact .refl _ s

theorem relayClearWork_within (task : Task) (held : Bool) (s : State) :
    State.Within [.relays, .engine, .portBits] s (relayClearWork task held s) := by
  unfold relayClearWork
  split
  · exact (State.Within.trans (l := [.relays]) (by intro p hp; cases p <;> first | rfl | exact absurd (by decide) hp) (State.finish_within _ task held _ _)).mono (by decide)
  · exact (s.finish_within task held _ []).mono (by decide)

theorem hostOffer_within (form : ItemForm) (tag : BitVec 8) (task : Task) (held : Bool) (s : State) :
    State.Within (outputParts ++ [.engine, .portBits]) s (hostOffer form tag task held s) := by
  unfold hostOffer
  split
  · exact (s.finish_within task held _ []).mono (by decide)
  · exact (s.offer_only _ _).within.trans (State.finish_within _ task held _ [])

theorem outputConfigureWork_within (task : Task) (held : Bool) (s : State) :
    State.Within (outputParts ++ [.engine, .portBits]) s (outputConfigureWork task held s) :=
  (s.configureOutput_only _ _).within.trans (State.finish_within _ task held .ok [])

theorem outputStatusWork_within (task : Task) (held : Bool) (s : State) :
    State.Within (outputParts ++ [.engine, .portBits]) s (outputStatusWork task held s) :=
  ((s.setOutput_only _ _).trans (State.setOutputAttention_only _ _ false)).within.trans
    (State.finish_within _ task held .ok _)

theorem holdEndWork_within (task : Task) (held : Bool) (s : State) :
    State.Within (outputParts ++ [.engine, .portBits]) s (holdEndWork task held s) := by
  unfold holdEndWork
  have h := (s.setHoldEnded_only (argOutput task.arg) (isHostHold (lowByte (task.word 0)))).within
  split <;> rename_i hs <;> rw [hs] at h <;> exact h.trans (State.finish_within _ task held _ [])

theorem outputFlushWork_within (task : Task) (held : Bool) (s : State) :
    State.Within (outputParts ++ [.engine, .portBits]) s (outputFlushWork task held s) :=
  (s.flush_only _).within.trans (State.finish_within _ task held .ok [])

/-! ### The table steps -/

theorem Pool.modifyChain_frame (p : Pool) (chain : List CellNo) (f : Cell → Cell) :
    ∃ cells, p.modifyChain chain f = { p with cells := cells } := by
  unfold Pool.modifyChain
  induction chain generalizing p with
  | nil => exact ⟨p.cells, rfl⟩
  | cons c cs ih => obtain ⟨cells, h⟩ := ih (p.modifyCell c f); exact ⟨cells, h⟩

theorem Pool.ownReservation_frame (p : Pool) :
    ∃ cells, p.ownReservation = { p with cells := cells, reservation := [] } := by
  obtain ⟨cells, h⟩ := p.modifyChain_frame p.reservation (fun cell => { cell with condition := .owned })
  unfold Pool.ownReservation
  rw [h]; exact ⟨cells, rfl⟩

theorem State.ownReservation_within (s : State) :
    State.Within [.cells, .reservation] s (s.setPool s.pool.ownReservation) := by
  obtain ⟨cells, h⟩ := s.pool.ownReservation_frame
  rw [h]; exact (by intro p hp; cases p <;> first | rfl | exact absurd (by decide) hp)

theorem Pool.reserve_frame (p q : Pool) (n : Nat) (h : p.reserve n = some q) :
    ∃ cells, q = { p with cells := cells, freeList := p.freeList.drop n, reservation := p.freeList.take n } := by
  unfold Pool.reserve at h
  split at h
  · cases h
  · obtain ⟨cells, hc⟩ := p.modifyChain_frame (p.freeList.take n)
      (fun cell => { cell with condition := .reserved, fault := false, refs := 0 })
    simp only [hc, Option.some.injEq] at h
    exact ⟨cells, h.symm⟩

theorem State.reserve_within (s : State) (q : Pool) (n : Nat) (h : s.pool.reserve n = some q) :
    State.Within [.cells, .freeList, .reservation] s (s.setPool q) := by
  obtain ⟨cells, rfl⟩ := Pool.reserve_frame _ _ _ h
  exact (by intro p hp; cases p <;> first | rfl | exact absurd (by decide) hp)

theorem installParameterBody_within (task : Task) (held : Bool) (s : State) :
    State.Within (hostParts ++ [.entries, .cells, .freeList, .reservation]) s (installParameterBody task held s) := by
  have hf : ∀ outcome, State.Within (hostParts ++ [.entries, .cells, .freeList, .reservation]) s
      (s.stepFailed task outcome) := fun outcome => (s.stepFailed_within task outcome).mono (by decide)
  unfold installParameterBody
  simp only
  split
  · exact hf _
  · split
    · exact hf _
    · split
      · exact hf _
      · split
        · exact hf _
        · split
          · exact hf _
          · rename_i slot _ _ q hq
            have h1 : State.Within [.entries] s (s.setLoading slot task.loading) := (by intro p hp; cases p <;> first | rfl | exact absurd (by decide) hp)
            exact ((h1.trans (State.reserve_within _ q _ hq)).trans (State.stepPassed_within _ task held)).mono
              (by decide)

theorem State.freeLoading_within (s : State) : State.Within [.entries] s s.freeLoading := by
  unfold State.freeLoading
  split
  · exact (by intro p hp; cases p <;> first | rfl | exact absurd (by decide) hp)
  · exact .refl _ s

theorem State.cleanUp_within (s : State) :
    State.Within (stepParts ++ [.entries, .cells, .freeList, .reservation, .attention]) s s.cleanUp := by
  unfold State.cleanUp
  split
  · split
    · exact (((s.servedHost_within.trans (State.freeLoading_within _)).trans
        (State.returnReservation_within _)).trans (State.endTask_within _ _ false _)).mono (by decide)
    all_goals exact .refl _ s
  · exact .refl _ s

theorem groupParameterBody_within (task : Task) (held : Bool) (s : State) :
    State.Within (hostParts ++ [.cells, .freeList, .reservation]) s (groupParameterBody task held s) := by
  have hf : ∀ outcome, State.Within (hostParts ++ [.cells, .freeList, .reservation]) s
      (s.stepFailed task outcome) := fun outcome => (s.stepFailed_within task outcome).mono (by decide)
  unfold groupParameterBody
  simp only
  split
  · exact hf _
  · split
    · exact hf _
    · split
      · exact hf _
      · rename_i q hq
        exact ((State.reserve_within _ q _ hq).trans (State.stepPassed_within _ task held)).mono (by decide)

theorem State.freeSlot_within (s : State) (slot : SlotNo) : State.Within [.entries] s (s.freeSlot slot) := (by intro p hp; cases p <;> first | rfl | exact absurd (by decide) hp)

theorem State.joinBin_within (s : State) (n : Nat) (r : PatternRef) : State.Within [.bins] s (s.joinBin n r) := by
  obtain ⟨b, h⟩ := s.joinBin_frame n r
  rw [h]; exact (by intro p hp; cases p <;> first | rfl | exact absurd (by decide) hp)

theorem State.leaveBin_within (s : State) (n : Nat) (r : PatternRef) : State.Within [.bins] s (s.leaveBin n r) := by
  obtain ⟨b, h⟩ := s.leaveBin_frame n r
  rw [h]; exact (by intro p hp; cases p <;> first | rfl | exact absurd (by decide) hp)

theorem State.joinFrames_within (s : State) (slot : SlotNo) (e : Installed) :
    State.Within [.bins] s (s.joinFrames slot e) := by
  obtain ⟨b, h⟩ := s.joinFrames_frame slot e
  rw [h]; exact (by intro p hp; cases p <;> first | rfl | exact absurd (by decide) hp)

theorem State.leaveFrames_within (s : State) (slot : SlotNo) (e : Installed) :
    State.Within [.bins] s (s.leaveFrames slot e) := by
  obtain ⟨b, h⟩ := s.leaveFrames_frame slot e
  rw [h]; exact (by intro p hp; cases p <;> first | rfl | exact absurd (by decide) hp)

theorem State.changeCount_within (s : State) (g : GroupNo) (f : Nat → Nat) :
    State.Within [.groups] s (s.changeCount g f) := by
  unfold State.changeCount
  split
  · exact (by intro p hp; cases p <;> first | rfl | exact absurd (by decide) hp)
  · exact .refl _ s

theorem State.completeInstall_within (s : State) (slot : SlotNo) (l : Loading) :
    State.Within [.entries, .cells, .reservation, .bins, .groups] s (s.completeInstall slot l).1 := by
  unfold State.completeInstall
  simp only
  have h1 : ∀ x, State.Within [.entries] s (s.setEntry slot x) := fun x => (by intro p hp; cases p <;> first | rfl | exact absurd (by decide) hp)
  exact ((((h1 _).trans (State.ownReservation_within _)).trans (State.joinFrames_within _ _ _)).trans
    (State.changeCount_within _ _ _)).mono (by decide)

theorem installFinalBody_within (task : Task) (held : Bool) (s : State) :
    State.Within ([.engine, .portBits] ++ ([.freeList, .reservation] ++ markParts)) s (installFinalBody task held s) := by
  unfold installFinalBody
  split
  · exact .refl _ s
  · rename_i slot l _
    have hm := (conflictCheck_marked (s.installUnderTest l) (s.conflictSet (fun _ => false)) s).within
    split <;> rename_i hs <;> rw [hs] at hm
    · exact (((hm.trans (State.freeSlot_within _ slot)).trans (State.returnReservation_within _)).trans
        (State.finish_within _ task held _ _)).mono (by decide)
    · exact (((hm.trans (State.freeSlot_within _ slot)).trans (State.returnReservation_within _)).trans
        (State.finish_within _ task held _ _)).mono (by decide)
    · rename_i u
      have h2 := u.completeInstall_within slot l
      split
      rename_i hc
      rw [hc] at h2
      exact ((hm.trans h2).trans (State.finish_within _ task held _ _)).mono (by decide)

theorem State.clearToggle_within (s : State) (g : GroupNo) : State.Within [.outputs] s (s.clearToggle g) := (by intro p hp; cases p <;> first | rfl | exact absurd (by decide) hp)

theorem State.defineGroup_within (s : State) (g : GroupNo) (settings : GroupSettings) (p : Option Pattern) :
    State.Within [.groups, .cells, .reservation, .bins, .outputs] s (s.defineGroup g settings p) := by
  unfold State.defineGroup
  have h1 : ∀ x, State.Within [.groups] s (s.setGroup g x) := fun x => (by intro p hp; cases p <;> first | rfl | exact absurd (by decide) hp)
  simp only
  split
  · exact ((((h1 _).trans (State.ownReservation_within _)).trans (State.joinBin_within _ _ _)).trans
      (State.clearToggle_within _ g)).mono (by decide)
  · exact ((h1 _).trans (State.clearToggle_within _ g)).mono (by decide)

theorem groupDefineFinalBody_within (task : Task) (held : Bool) (s : State) :
    State.Within ([.engine, .portBits] ++ ([.freeList, .reservation, .outputs] ++ markParts)) s
      (groupDefineFinalBody task held s) := by
  unfold groupDefineFinalBody
  simp only
  split
  · have hm := (conflictCheck_marked [reservedRepeatContender task (s.newRepeat task)]
      (s.conflictSet (fun _ => false)) s).within
    split <;> rename_i hs <;> rw [hs] at hm
    · exact ((hm.trans (State.returnReservation_within _)).trans (State.finish_within _ task held _ _)).mono (by decide)
    · exact ((hm.trans (State.returnReservation_within _)).trans (State.finish_within _ task held _ _)).mono (by decide)
    · exact ((hm.trans (State.defineGroup_within _ _ _ _)).trans (State.finish_within _ task held _ _)).mono (by decide)
  · split
    · exact (s.finish_within task held _ []).mono (by decide)
    · exact ((s.defineGroup_within _ _ none).trans (State.finish_within _ task held _ _)).mono (by decide)

theorem State.sendNotice_within (s : State) (n : Notice) : State.Within [.path] s (s.sendNotice n) := (by intro p hp; cases p <;> first | rfl | exact absurd (by decide) hp)

theorem State.releaseRepeat_within (s : State) (g : GroupNo) (p : Option Pattern) :
    State.Within [.bins, .releases] s (s.releaseRepeat g p) := by
  unfold State.releaseRepeat
  split
  · exact (s.leaveBin_within _ _).trans (m := [.releases]) (by intro p hp; cases p <;> first | rfl | exact absurd (by decide) hp)
  · exact .refl _ s

theorem State.editGroup_within (s : State) (g : GroupNo) (task : Task) (group : Group) :
    State.Within [.groups, .bins, .releases, .cells, .reservation, .path] s (s.editGroup g task group) := by
  unfold State.editGroup
  have h1 : ∀ x, State.Within [.groups] s (s.setGroup g x) := fun x => (by intro p hp; cases p <;> first | rfl | exact absurd (by decide) hp)
  simp only
  split
  · exact ((h1 _).trans (State.sendNotice_within _ _)).mono (by decide)
  · exact (((((h1 _).trans (State.releaseRepeat_within _ g _)).trans (State.ownReservation_within _)).trans
      (State.joinBin_within _ _ _)).trans (State.sendNotice_within _ _)).mono (by decide)
  · exact (((h1 _).trans (State.releaseRepeat_within _ g _)).trans (State.sendNotice_within _ _)).mono (by decide)

theorem groupEditFinalBody_within (task : Task) (held : Bool) (s : State) :
    State.Within ([.engine, .portBits] ++ ([.freeList, .reservation, .releases] ++ markParts)) s
      (groupEditFinalBody task held s) := by
  unfold groupEditFinalBody
  simp only
  split
  · exact (s.finish_within task held _ []).mono (by decide)
  · have hm := (conflictCheck_marked (s.editUnderTest (argGroup task.arg) task)
      (s.conflictSet (s.belongsTo (argGroup task.arg))) s).within
    split <;> rename_i hs <;> rw [hs] at hm
    · exact ((hm.trans (State.returnReservation_within _)).trans (State.finish_within _ task held _ _)).mono (by decide)
    · exact ((hm.trans (State.returnReservation_within _)).trans (State.finish_within _ task held _ _)).mono (by decide)
    · split
      · exact ((hm.trans (State.editGroup_within _ _ _ _)).trans (State.finish_within _ task held _ _)).mono (by decide)
      · exact (hm.trans (State.finish_within _ task held _ _)).mono (by decide)

theorem groupRemoveBody_within (task : Task) (held : Bool) (s : State) :
    State.Within ([.engine, .portBits] ++ [.groups, .bins, .releases, .outputs]) s (groupRemoveBody task held s) := by
  unfold groupRemoveBody
  simp only
  split
  · exact (s.finish_within task held _ []).mono (by decide)
  · split
    · exact (s.finish_within task held _ []).mono (by decide)
    · have h1 : ∀ (u : State) g x, State.Within [.groups] u (u.setGroup g x) := fun u g x => (by intro p hp; cases p <;> first | rfl | exact absurd (by decide) hp)
      exact ((((s.releaseRepeat_within _ _).trans (h1 _ _ none)).trans (State.clearToggle_within _ _)).trans
        (State.finish_within _ task held _ _)).mono (by decide)

theorem State.writeEdit_within (s : State) (task : Task) (held : Bool) (slot : SlotNo) :
    State.Within [.entries, .engine, .portBits] s (s.writeEdit task held slot) := by
  unfold State.writeEdit
  split
  · exact (s.finish_within task held _ []).mono (by decide)
  · split
    · exact (s.finish_within task held _ []).mono (by decide)
    · have h1 : ∀ x, State.Within [.entries] s (s.setInstalled slot x) := fun x => (by intro p hp; cases p <;> first | rfl | exact absurd (by decide) hp)
      exact (h1 _).trans (State.finish_within _ task held _ _)

theorem entryEditBody_within (task : Task) (held : Bool) (s : State) :
    State.Within ([.engine, .portBits] ++ markParts) s (entryEditBody task held s) := by
  unfold entryEditBody
  split
  · exact (s.finish_within task held _ []).mono (by decide)
  · split
    · exact (s.finish_within task held _ []).mono (by decide)
    · split
      · exact (s.finish_within task held _ []).mono (by decide)
      · rename_i h e _ _ _
        have hm : State.Within markParts s (s.editCheck h.slot e (editTolerance task e)).1 := by
          unfold State.editCheck
          split
          · exact .refl _ s
          · exact (conflictCheck_marked _ _ s).within
        split <;> rename_i hs <;> rw [hs] at hm
        · exact (hm.trans (State.finish_within _ task held _ _)).mono (by decide)
        · exact (hm.trans (State.writeEdit_within _ task held _)).mono (by decide)
        · exact (hm.trans (State.writeEdit_within _ task held _)).mono (by decide)

theorem suspendBody_within (task : Task) (held : Bool) (s : State) :
    State.Within ([.engine, .portBits] ++ [.entries, .bins, .path]) s (suspendBody task held s) := by
  unfold suspendBody
  split
  · exact (s.finish_within task held _ []).mono (by decide)
  · split
    · exact (s.finish_within task held _ []).mono (by decide)
    · exact (s.finish_within task held _ []).mono (by decide)
    · have h1 : ∀ (u : State) slot x, State.Within [.entries] u (u.setInstalled slot x) := fun u slot x => (by intro p hp; cases p <;> first | rfl | exact absurd (by decide) hp)
      exact ((((s.leaveFrames_within _ _).trans (h1 _ _ _)).trans (State.sendNotice_within _ _)).trans
        (State.finish_within _ task held _ _)).mono (by decide)

theorem resumeBody_within (task : Task) (held : Bool) (s : State) :
    State.Within ([.engine, .portBits] ++ [.entries, .bins]) s (resumeBody task held s) := by
  unfold resumeBody
  split
  · exact (s.finish_within task held _ []).mono (by decide)
  · split
    · exact (s.finish_within task held _ []).mono (by decide)
    · exact (s.finish_within task held _ []).mono (by decide)
    · have h1 : ∀ (u : State) slot x, State.Within [.entries] u (u.setInstalled slot x) := fun u slot x => (by intro p hp; cases p <;> first | rfl | exact absurd (by decide) hp)
      exact (((h1 s _ _).trans (State.joinFrames_within _ _ _)).trans (State.finish_within _ task held _ _)).mono
        (by decide)

theorem State.releaseFrames_within (s : State) (e : Installed) : State.Within [.releases] s (s.releaseFrames e) := by
  unfold State.releaseFrames
  simp only
  split <;> exact (by intro p hp; cases p <;> first | rfl | exact absurd (by decide) hp)

theorem State.retireEntry_within (s : State) (h : Handle) (e : Installed) :
    State.Within [.entries, .groups, .bins, .path, .retires, .releases] s (s.retireEntry h e) := by
  unfold State.retireEntry
  simp only
  have h0 : State.Within [.bins] s (match e.status with
      | .active => s.leaveFrames h.slot e
      | .suspended | .damaged => s) := by
    split
    · exact s.leaveFrames_within _ _
    all_goals exact .refl _ s
  have h5 : ∀ u : State, State.Within [.retires] u (u.sendRetire h) := fun u => (by intro p hp; cases p <;> first | rfl | exact absurd (by decide) hp)
  exact (((((h0.trans (State.releaseFrames_within _ e)).trans (State.freeSlot_within _ _)).trans
    (State.changeCount_within _ _ _)).trans (State.sendNotice_within _ _)).trans (h5 _)).mono (by decide)

theorem retireBody_within (task : Task) (held : Bool) (s : State) :
    State.Within ([.engine, .portBits] ++ [.entries, .groups, .bins, .path, .retires, .releases]) s
      (retireBody task held s) := by
  unfold retireBody
  split
  · exact (s.finish_within task held _ []).mono (by decide)
  · exact ((s.retireEntry_within _ _).trans (State.finish_within _ task held _ _)).mono (by decide)

theorem entryReadBody_within (task : Task) (held : Bool) (s : State) :
    State.Within ([.engine, .portBits] ++ markParts) s (entryReadBody task held s) := by
  unfold entryReadBody
  split
  · exact (s.finish_within task held _ []).mono (by decide)
  · rename_i h e _
    have hm := (s.readFrames_marked h.slot e).within
    split
    rename_i hs
    rw [hs] at hm
    exact (hm.trans (State.finish_within _ task held _ _)).mono (by decide)

theorem groupReadBody_within (task : Task) (held : Bool) (s : State) :
    State.Within ([.engine, .portBits] ++ markParts) s (groupReadBody task held s) := by
  unfold groupReadBody
  simp only
  split
  · exact (s.finish_within task held _ []).mono (by decide)
  · rename_i group _
    have hm := (s.readRepeat_marked (argGroup task.arg) group.repeatPattern).within
    exact (hm.trans (State.finish_within _ task held _ _)).mono (by decide)

theorem entryFindBody_within (task : Task) (held : Bool) (s : State) :
    State.Within [.engine, .portBits] s (entryFindBody task held s) := by
  unfold entryFindBody
  simp only
  split
  · exact s.finish_within task held _ _
  · split <;> exact s.finish_within task held _ _

theorem entryListBody_within (task : Task) (held : Bool) (s : State) :
    State.Within [.engine, .portBits] s (entryListBody task held s) := by
  unfold entryListBody
  simp only
  split <;> exact s.finish_within task held _ _

theorem tableStatusBody_within (task : Task) (held : Bool) (s : State) :
    State.Within [.attention, .engine, .portBits] s (tableStatusBody task held s) :=
  State.Within.trans (l := [.attention]) (by intro p hp; cases p <;> first | rfl | exact absurd (by decide) hp) (State.finish_within _ task held _ _)

theorem handleCheckBody_within (later : Bool) (task : Task) (held : Bool) (s : State) :
    State.Within ([.engine, .portBits] ++ ([.relays] ++ outputParts)) s (handleCheckBody later task held s) := by
  unfold handleCheckBody
  split
  · exact (s.finish_within task held _ []).mono (by decide)
  · split
    · exact .refl _ s
    · unfold handleRequest
      split
      · exact (afterRetires_within _ _ (fun task held u => relaySetWork_within task held u) task held s).mono (by decide)
      · exact (hostOffer_within _ _ task held s).mono (by decide)
      · exact (hostOffer_within _ _ task held s).mono (by decide)
      · exact .refl _ s

theorem State.initializeTable_within (s : State) :
    State.Within (touches .initializeTableStep) s s.initializeTable := (by intro p hp; cases p <;> first | rfl | exact absurd (by decide) hp)

/-! ### Lookups, grants, damage, the pool -/

theorem State.endLookup_within (s : State) (b : Burst) (f : Found) :
    State.Within [.path, .sticky, .working] s (s.endLookup b f) := by
  unfold State.endLookup
  simp only
  split <;> exact (by intro p hp; cases p <;> first | rfl | exact absurd (by decide) hp)

theorem execLookup_within (i : InputId) (s : State) :
    ∀ t, execLookup i s = .next t →
      State.Within ([.inputs, .lookupClaims, .last, .working, .sticky] ++ markParts) s t := by
  intro t h
  cases h
  split
  · rename_i b _ _
    have h1 : State.Within [.inputs, .lookupClaims, .last, .working] s (s.beginLookup i b) := (by intro p hp; cases p <;> first | rfl | exact absurd (by decide) hp)
    unfold State.runLookup
    split
    · exact h1.mono (by decide)
    · rename_i b' _
      have hm := (State.visits_marked b' ((s.beginLookup i b).binList b'.runs.length) (s.beginLookup i b, .none)).within
      simp only
      exact ((h1.trans hm).trans (State.endLookup_within _ _ _)).mono (by decide)
  · exact .refl _ s

theorem State.startFrame_within (s : State) (o : OutputId) (f : Frame) :
    State.Within [.cells, .outputs] s (s.startFrame o f) := by
  unfold State.startFrame Pool.addReference
  obtain ⟨cells, h⟩ := s.pool.modifyChain_frame f.chain (fun cell => { cell with refs := OutputMask.insert cell.refs o })
  simp only [h]
  exact (by intro p hp; cases p <;> first | rfl | exact absurd (by decide) hp)

theorem State.answerGrant_within (s : State) (o : OutputId) :
    State.Within (.cells :: outputParts) s (s.answerGrant o) := by
  unfold State.answerGrant
  split
  · exact .refl _ s
  · split
    · exact (s.endActive_only o _ _).within.mono (by decide)
    · split
      · exact (s.endActive_only o _ _).within.mono (by decide)
      · split
        · exact (s.endActive_only o _ _).within.mono (by decide)
        · exact (s.startFrame_within o _).mono (by decide)

theorem State.servedOutput_within (s : State) (o : OutputId) :
    State.Within [.outputClaims, .last] s (s.served (.output o)) := (by intro p hp; cases p <;> first | rfl | exact absurd (by decide) hp)

theorem State.takeDamage_within (s : State) (d : DamageReport) : State.Within markParts s (s.takeDamage d) := by
  unfold State.takeDamage
  split
  · split
    · exact (s.damagePattern_marked _).within
    · exact State.Within.mono (l := [.attention]) (by intro p hp; cases p <;> first | rfl | exact absurd (by decide) hp) (by decide)
  · exact State.Within.mono (l := [.attention]) (by intro p hp; cases p <;> first | rfl | exact absurd (by decide) hp) (by decide)

theorem State.raiseGrant_within (s : State) (o : OutputId) : State.Within [.outputClaims] s (s.raiseGrant o) := by
  obtain ⟨x, h⟩ := s.raiseGrant_frame o
  rw [h]; exact (by intro p hp; cases p <;> first | rfl | exact absurd (by decide) hp)

theorem State.raiseDeferred_within (s : State) (o : OutputId) : State.Within [.outputClaims] s (s.raiseDeferred o) := by
  unfold State.raiseDeferred
  split
  · exact s.raiseGrant_within o
  all_goals exact .refl _ s

theorem State.takeRelease_within (s : State) (chain : List CellNo) :
    State.Within (.returnList :: returnParts) s (s.takeRelease chain) := by
  unfold State.takeRelease
  simp only
  split
  · exact (s.returnCells_within chain).mono (by decide)
  · obtain ⟨cells, h⟩ := s.pool.modifyChain_frame chain (fun cell => { cell with condition := .returning })
    rw [h]; exact (by intro p hp; cases p <;> first | rfl | exact absurd (by decide) hp)

theorem State.takeRemoval_within (s : State) (o : OutputId) (chain : List CellNo) :
    State.Within (.returnList :: returnParts) s (s.takeRemoval o chain) := by
  unfold State.takeRemoval Pool.dropReference
  obtain ⟨cells, h⟩ := s.pool.modifyChain_frame chain (fun cell => { cell with refs := OutputMask.remove cell.refs o })
  simp only [h]
  split
  · exact (by intro p hp; cases p <;> first | rfl | exact absurd (by decide) hp)
  · split
    · exact (State.Within.trans (l := [.cells, .returnList]) (by intro p hp; cases p <;> first | rfl | exact absurd (by decide) hp) (State.returnCells_within _ chain)).mono (by decide)
    · exact (by intro p hp; cases p <;> first | rfl | exact absurd (by decide) hp)

/-! ### The events of the blocks -/

theorem State.inputEvent_within (s : State) (i : InputId) (t : Time) (event : State → State)
    (h : ∀ u, State.InputOnly i u (event u)) :
    State.Within ([.timebase, .outputs] ++ inputParts) s (s.inputEvent i t event) := by
  unfold State.inputEvent
  simp only
  split
  · exact (s.advanceTo_within t).trans (h _).within
  · exact (s.advanceTo_within t).mono (by decide)

theorem State.takeNotice_within (s : State) (want : Notice → Option (State → State))
    (h : ∀ n act, want n = some act → ∀ u : State, u.TrackerOnly (act u)) :
    State.Within (.path :: trackerParts) s (s.takeNotice want) := by
  unfold State.takeNotice
  split
  · exact .refl _ s
  · split
    · exact State.Within.trans (l := [.path]) (by intro p hp; cases p <;> first | rfl | exact absurd (by decide) hp) (h _ _ ‹_› _).within
    · exact .refl _ s

theorem State.relayPress_within (s : State) (n : RelayNo) (r : RelayRecord) (p : PressStart) :
    State.Within ([.relays, .linkRequests] ++ outputParts) s (s.relayPress n r p) := by
  have hr : ∀ (u : State) x, State.Within [.relays] u (u.setRelay n x) := fun u x => (by intro p hp; cases p <;> first | rfl | exact absurd (by decide) hp)
  unfold State.relayPress
  split
  · exact .refl _ s
  · split
    · exact (hr s _).mono (by decide)
    · split
      · exact (hr s _).mono (by decide)
      · split
        · exact (hr s _).mono (by decide)
        · have h0 := (State.relayOffer_only r p.press (s, .queued, []) 0).within
          have h1 := (State.relayOffer_only r p.press (State.relayOffer r p.press (s, .queued, []) 0) 1).within
          simp only [List.foldl_cons, List.foldl_nil]
          have h2 := (h0.trans h1).trans (hr _ (some { r with
            lastOutcome := (State.relayOffer r p.press (State.relayOffer r p.press (s, .queued, []) 0) 1).2.1 }))
          obtain ⟨q, hq⟩ := State.sendLinkRequests_frame p.press
            (State.relayOffer r p.press (State.relayOffer r p.press (s, .queued, []) 0) 1).2.2
            ((State.relayOffer r p.press (State.relayOffer r p.press (s, .queued, []) 0) 1).1.setRelay n (some { r with
              lastOutcome := (State.relayOffer r p.press (State.relayOffer r p.press (s, .queued, []) 0) 1).2.1 }))
          rw [hq]
          exact (h2.trans (m := [.linkRequests]) (by intro p hp; cases p <;> first | rfl | exact absurd (by decide) hp)).mono (by decide)

theorem State.takePressStart_within (s : State) (p : PressStart) :
    State.Within ([.relays, .linkRequests] ++ outputParts) s (s.takePressStart p) := by
  unfold State.takePressStart
  split
  · exact .refl _ s
  · exact s.relayPress_within _ _ p

theorem State.endFrame_within (s : State) (o : OutputId) (f : Frame) :
    State.Within outputParts s (s.endFrame o f) := by
  unfold State.endFrame
  split
  · exact .refl _ s
  · simp only
    split
    · exact ((s.setOutput_only o _).trans (State.endActive_only _ o _ _)).within
    · exact (((s.setOutput_only o _).trans (State.sendRemoval_only _ o _)).trans (State.setOutput_only _ o _)).within

theorem State.cutFrame_within (s : State) (o : OutputId) (f : Frame) (c : CellNo) :
    State.Within (.cells :: outputParts) s (s.cutFrame o f c) := by
  unfold State.cutFrame
  split
  · exact .refl _ s
  · have h1 : State.Within [.cells] s (s.recordFault c) := (by intro p hp; cases p <;> first | rfl | exact absurd (by decide) hp)
    have h2 : ∀ (u : State) x, State.Within [.outputClaims] u (u.setOutputClaim o x) := fun u x => (by intro p hp; cases p <;> first | rfl | exact absurd (by decide) hp)
    have h3 : ∀ u : State, State.Within outputParts u (u.setDamageSeen o) := fun u =>
      ((u.setOutput_only o _).trans (State.setOutputAttention_only _ o true)).within
    exact (((h1.trans (State.endActive_only _ o _ _).within).trans (h2 _ _)).trans (h3 _)).mono (by decide)

theorem State.endMemoryTest_within (s : State) (failing : List CellNo) :
    State.Within [.memoryTest, .cells, .freeList, .returnList, .reservation, .attention, .inputs, .lookupClaims,
      .ready, .engine, .portBits] s (s.endMemoryTest failing) := by
  unfold State.endMemoryTest State.afterTest
  simp only
  rw [State.raiseTable_frame]
  generalize hu : ({ s with memoryTest := none, pool := testedPool failing, port := { s.port with
    attention := { s.port.attention with table := s.port.attention.table || !failing.isEmpty } } } : State) = u
  have h0 : State.Within [.memoryTest, .cells, .freeList, .returnList, .reservation, .attention] s u := by
    rw [← hu]; intro p hp; cases p <;> first | exact absurd (by decide) hp | rfl
  have hp : ∀ (l : List (Fin 4)) (v : State), State.Within inputParts v (l.foldl (fun s i => s.placeInput i) v) := by
    intro l
    induction l with
    | nil => intro v; exact .refl _ v
    | cons i is ih => intro v; exact ((v.placeInput_only i).within.trans (ih _)).mono (by decide)
  have ht : ∀ v : State, State.Within [.ready, .engine, .portBits] v v.testEnded := by
    intro v
    unfold State.testEnded
    split
    · exact (by intro p hp; cases p <;> first | rfl | exact absurd (by decide) hp)
    · exact (v.endTask_within _ false _).mono (by decide)
    all_goals exact .refl _ v
  exact ((h0.trans (hp _ u)).trans (ht _)).mono (by decide)

/-! ## All commands at once -/

theorem within_hardwareReset (s t : State)
    (h : exec .hardwareReset s = .next t) : State.Within (touches .hardwareReset) s t := by
  simp only [touches]
  cases h; intro p hp; cases p <;> first | rfl | exact absurd (by decide) hp

theorem within_memoryTestEnd (failing time : _) (s t : State)
    (h : exec (.memoryTestEnd failing time) s = .next t) : State.Within (touches (.memoryTestEnd failing time)) s t := by
  simp only [touches]
  cases h
  split
  · exact ((s.advanceTo_within time).trans (State.endMemoryTest_within _ failing)).mono (by decide)
  · exact (s.advanceTo_within time).mono (by decide)

theorem within_flagsRead (s t : State)
    (h : exec .flagsRead s = .next t) : State.Within (touches .flagsRead) s t := by
  simp only [touches]
  exact execFlagsRead_within s t h

theorem within_transferWrite (w : _) (s t : State)
    (h : exec (.transferWrite w) s = .next t) : State.Within (touches (.transferWrite w)) s t := by
  simp only [touches]
  exact execTransferWrite_within w s t h

theorem within_transferRead (s t : State)
    (h : exec .transferRead s = .next t) : State.Within (touches .transferRead) s t := by
  simp only [touches]
  exact execTransferRead_within s t h

theorem within_abort (w : _) (s t : State)
    (h : exec (.abort w) s = .next t) : State.Within (touches (.abort w)) s t := by
  simp only [touches]
  cases h; exact s.controlWrite_within w

theorem within_interruptEnableWrite (w : _) (s t : State)
    (h : exec (.interruptEnableWrite w) s = .next t) : State.Within (touches (.interruptEnableWrite w)) s t := by
  simp only [touches]
  cases h; exact s.controlWrite_within w

theorem within_ignoredLocationWrite (location w : _) (s t : State)
    (h : exec (.ignoredLocationWrite location w) s = .next t) : State.Within (touches (.ignoredLocationWrite location w)) s t := by
  simp only [touches]
  cases h; exact (s.writeFrame_within _ _ id [] (fun u => .refl _ u)).mono (by decide)

theorem within_transferTimeout (time : _) (s t : State)
    (h : exec (.transferTimeout time) s = .next t) : State.Within (touches (.transferTimeout time)) s t := by
  simp only [touches]
  cases h; exact ((s.advanceTo_within time).trans (State.transferExpiry_within _)).mono (by decide)

theorem within_badCommand (a0 a1 : _) (s t : State)
    (h : exec (.badCommand a0 a1) s = .next t) : State.Within (touches (.badCommand a0 a1)) s t := by
  simp only [touches]
  cases h; exact s.commandWrite_within _ _

theorem within_initializeCommand (a0 : _) (s t : State)
    (h : exec (.initializeCommand a0) s = .next t) : State.Within (touches (.initializeCommand a0)) s t := by
  simp only [touches]
  cases h; exact s.commandWrite_within _ _

theorem within_tableStatus (a0 : _) (s t : State)
    (h : exec (.tableStatus a0) s = .next t) : State.Within (touches (.tableStatus a0)) s t := by
  simp only [touches]
  cases h; exact s.commandWrite_within _ _

theorem within_groupDefine (a0 : _) (s t : State)
    (h : exec (.groupDefine a0) s = .next t) : State.Within (touches (.groupDefine a0)) s t := by
  simp only [touches]
  cases h; exact s.commandWrite_within _ _

theorem within_groupEdit (a0 : _) (s t : State)
    (h : exec (.groupEdit a0) s = .next t) : State.Within (touches (.groupEdit a0)) s t := by
  simp only [touches]
  cases h; exact s.commandWrite_within _ _

theorem within_groupRemove (a0 : _) (s t : State)
    (h : exec (.groupRemove a0) s = .next t) : State.Within (touches (.groupRemove a0)) s t := by
  simp only [touches]
  cases h; exact s.commandWrite_within _ _

theorem within_groupRead (a0 : _) (s t : State)
    (h : exec (.groupRead a0) s = .next t) : State.Within (touches (.groupRead a0)) s t := by
  simp only [touches]
  cases h; exact s.commandWrite_within _ _

theorem within_entryInstall (a0 : _) (s t : State)
    (h : exec (.entryInstall a0) s = .next t) : State.Within (touches (.entryInstall a0)) s t := by
  simp only [touches]
  cases h; exact s.commandWrite_within _ _

theorem within_entryEdit (a0 : _) (s t : State)
    (h : exec (.entryEdit a0) s = .next t) : State.Within (touches (.entryEdit a0)) s t := by
  simp only [touches]
  cases h; exact s.commandWrite_within _ _

theorem within_entrySuspend (a0 : _) (s t : State)
    (h : exec (.entrySuspend a0) s = .next t) : State.Within (touches (.entrySuspend a0)) s t := by
  simp only [touches]
  cases h; exact s.commandWrite_within _ _

theorem within_entryResume (a0 : _) (s t : State)
    (h : exec (.entryResume a0) s = .next t) : State.Within (touches (.entryResume a0)) s t := by
  simp only [touches]
  cases h; exact s.commandWrite_within _ _

theorem within_entryRetire (a0 : _) (s t : State)
    (h : exec (.entryRetire a0) s = .next t) : State.Within (touches (.entryRetire a0)) s t := by
  simp only [touches]
  cases h; exact s.commandWrite_within _ _

theorem within_entryRead (a0 : _) (s t : State)
    (h : exec (.entryRead a0) s = .next t) : State.Within (touches (.entryRead a0)) s t := by
  simp only [touches]
  cases h; exact s.commandWrite_within _ _

theorem within_entryFind (a0 : _) (s t : State)
    (h : exec (.entryFind a0) s = .next t) : State.Within (touches (.entryFind a0)) s t := by
  simp only [touches]
  cases h; exact s.commandWrite_within _ _

theorem within_entryList (a0 : _) (s t : State)
    (h : exec (.entryList a0) s = .next t) : State.Within (touches (.entryList a0)) s t := by
  simp only [touches]
  cases h; exact s.commandWrite_within _ _

theorem within_inputConfigure (part : _) (s t : State)
    (h : exec (.inputConfigure part) s = .next t) : State.Within (touches (.inputConfigure part)) s t := by
  simp only [touches]
  cases h; exact (s.hostCommand_within _ part _ _ inputConfigureWork_within).mono (by decide)

theorem within_inputStatus (part : _) (s t : State)
    (h : exec (.inputStatus part) s = .next t) : State.Within (touches (.inputStatus part)) s t := by
  simp only [touches]
  cases h
  refine (s.hostCommand_within _ part _ (inputParts ++ [.engine, .portBits]) (fun task held u => ?_)).mono (by decide)
  exact ((u.setInput_only _ _).within.trans (m := inputParts) (by
    intro p hp; cases p <;> first | rfl | exact absurd (by decide) hp)).mono (by decide) |>.trans
      (State.finish_within _ task held .ok _)

theorem within_report (part : _) (s t : State)
    (h : exec (.report part) s = .next t) : State.Within (touches (.report part)) s t := by
  simp only [touches]
  cases h; exact (s.hostCommand_within _ part _ _ reportWork_within).mono (by decide)

theorem within_pressRead (part : _) (s t : State)
    (h : exec (.pressRead part) s = .next t) : State.Within (touches (.pressRead part)) s t := by
  simp only [touches]
  cases h
  refine (s.hostCommand_within _ part _ [.engine, .portBits] (fun task held u => ?_)).mono (by decide)
  unfold pressReadWork
  simp only
  split <;> exact u.finish_within task held _ _

theorem within_pressEnd (part : _) (s t : State)
    (h : exec (.pressEnd part) s = .next t) : State.Within (touches (.pressEnd part)) s t := by
  simp only [touches]
  cases h; exact (s.hostCommand_within _ part _ _ pressEndWork_within).mono (by decide)

theorem within_relaySet (part : _) (s t : State)
    (h : exec (.relaySet part) s = .next t) : State.Within (touches (.relaySet part)) s t := by
  simp only [touches]
  cases h
  exact (s.hostCommand_within _ part _ _ (afterRetires_within _ _ relaySetWork_within)).mono (by decide)

theorem within_relayClear (part : _) (s t : State)
    (h : exec (.relayClear part) s = .next t) : State.Within (touches (.relayClear part)) s t := by
  simp only [touches]
  cases h
  exact (s.hostCommand_within _ part _ _ (afterRetires_within _ _ relayClearWork_within)).mono (by decide)

theorem within_relayRead (part : _) (s t : State)
    (h : exec (.relayRead part) s = .next t) : State.Within (touches (.relayRead part)) s t := by
  simp only [touches]
  cases h
  exact (s.hostCommand_within _ part _ [.engine, .portBits]
    (afterRetires_within _ _ (fun task held u => u.finish_within task held _ _))).mono (by decide)

theorem within_outputConfigure (part : _) (s t : State)
    (h : exec (.outputConfigure part) s = .next t) : State.Within (touches (.outputConfigure part)) s t := by
  simp only [touches]
  cases h; exact (s.hostCommand_within _ part _ _ outputConfigureWork_within).mono (by decide)

theorem within_outputStatus (part : _) (s t : State)
    (h : exec (.outputStatus part) s = .next t) : State.Within (touches (.outputStatus part)) s t := by
  simp only [touches]
  cases h; exact (s.hostCommand_within _ part _ _ outputStatusWork_within).mono (by decide)

theorem within_send (part : _) (s t : State)
    (h : exec (.send part) s = .next t) : State.Within (touches (.send part)) s t := by
  simp only [touches]
  cases h; exact (s.hostCommand_within _ part _ _ (fun task held u => hostOffer_within _ _ task held u)).mono (by decide)

theorem within_holdStart (part : _) (s t : State)
    (h : exec (.holdStart part) s = .next t) : State.Within (touches (.holdStart part)) s t := by
  simp only [touches]
  cases h; exact (s.hostCommand_within _ part _ _ (fun task held u => hostOffer_within _ _ task held u)).mono (by decide)

theorem within_holdEnd (part : _) (s t : State)
    (h : exec (.holdEnd part) s = .next t) : State.Within (touches (.holdEnd part)) s t := by
  simp only [touches]
  cases h; exact (s.hostCommand_within _ part _ _ holdEndWork_within).mono (by decide)

theorem within_outputFlush (part : _) (s t : State)
    (h : exec (.outputFlush part) s = .next t) : State.Within (touches (.outputFlush part)) s t := by
  simp only [touches]
  cases h; exact (s.hostCommand_within _ part _ _ outputFlushWork_within).mono (by decide)

theorem within_lookup (i : _) (s t : State)
    (h : exec (.lookup i) s = .next t) : State.Within (touches (.lookup i)) s t := by
  simp only [touches]
  exact execLookup_within i s t h

theorem within_frameGrant (o : _) (s t : State)
    (h : exec (.frameGrant o) s = .next t) : State.Within (touches (.frameGrant o)) s t := by
  simp only [touches]
  cases h
  split
  · exact ((s.servedOutput_within o).trans (State.answerGrant_within _ o)).mono (by decide)
  · exact .refl _ s

theorem within_damageNotice (o : _) (s t : State)
    (h : exec (.damageNotice o) s = .next t) : State.Within (touches (.damageNotice o)) s t := by
  simp only [touches]
  cases h
  split
  · exact (((s.servedOutput_within o).trans (State.takeDamage_within _ _)).trans
      (State.raiseDeferred_within _ o)).mono (by decide)
  · exact .refl _ s

theorem within_installParameterStep (s t : State)
    (h : exec .installParameterStep s = .next t) : State.Within (touches .installParameterStep) s t := by
  simp only [touches]
  cases h; exact (s.hostStep_within _ _ _ installParameterBody_within).mono (by decide)

theorem within_parameterPhaseCleanUp (s t : State)
    (h : exec .parameterPhaseCleanUp s = .next t) : State.Within (touches .parameterPhaseCleanUp) s t := by
  simp only [touches]
  cases h; exact s.cleanUp_within

theorem within_installFinalStep (s t : State)
    (h : exec .installFinalStep s = .next t) : State.Within (touches .installFinalStep) s t := by
  simp only [touches]
  cases h; exact (s.hostStep_within _ _ _ installFinalBody_within).mono (by decide)

theorem within_groupParameterStep (s t : State)
    (h : exec .groupParameterStep s = .next t) : State.Within (touches .groupParameterStep) s t := by
  simp only [touches]
  cases h; exact (s.hostStep_within _ _ _ groupParameterBody_within).mono (by decide)

theorem within_groupDefineFinalStep (s t : State)
    (h : exec .groupDefineFinalStep s = .next t) : State.Within (touches .groupDefineFinalStep) s t := by
  simp only [touches]
  cases h; exact (s.hostStep_within _ _ _ groupDefineFinalBody_within).mono (by decide)

theorem within_groupEditFinalStep (s t : State)
    (h : exec .groupEditFinalStep s = .next t) : State.Within (touches .groupEditFinalStep) s t := by
  simp only [touches]
  cases h; exact (s.hostStep_within _ _ _ groupEditFinalBody_within).mono (by decide)

theorem within_groupRemoveStep (s t : State)
    (h : exec .groupRemoveStep s = .next t) : State.Within (touches .groupRemoveStep) s t := by
  simp only [touches]
  cases h; exact (s.hostStep_within _ _ _ groupRemoveBody_within).mono (by decide)

theorem within_entryEditStep (s t : State)
    (h : exec .entryEditStep s = .next t) : State.Within (touches .entryEditStep) s t := by
  simp only [touches]
  cases h; exact (s.hostStep_within _ _ _ entryEditBody_within).mono (by decide)

theorem within_suspend (s t : State)
    (h : exec .suspend s = .next t) : State.Within (touches .suspend) s t := by
  simp only [touches]
  cases h; exact (s.hostStep_within _ _ _ suspendBody_within).mono (by decide)

theorem within_resume (s t : State)
    (h : exec .resume s = .next t) : State.Within (touches .resume) s t := by
  simp only [touches]
  cases h; exact (s.hostStep_within _ _ _ resumeBody_within).mono (by decide)

theorem within_retire (s t : State)
    (h : exec .retire s = .next t) : State.Within (touches .retire) s t := by
  simp only [touches]
  cases h; exact (s.hostStep_within _ _ _ retireBody_within).mono (by decide)

theorem within_entryReadStep (s t : State)
    (h : exec .entryReadStep s = .next t) : State.Within (touches .entryReadStep) s t := by
  simp only [touches]
  cases h; exact (s.hostStep_within _ _ _ entryReadBody_within).mono (by decide)

theorem within_groupReadStep (s t : State)
    (h : exec .groupReadStep s = .next t) : State.Within (touches .groupReadStep) s t := by
  simp only [touches]
  cases h; exact (s.hostStep_within _ _ _ groupReadBody_within).mono (by decide)

theorem within_entryFindStep (s t : State)
    (h : exec .entryFindStep s = .next t) : State.Within (touches .entryFindStep) s t := by
  simp only [touches]
  cases h; exact (s.hostStep_within _ _ _ entryFindBody_within).mono (by decide)

theorem within_entryListStep (s t : State)
    (h : exec .entryListStep s = .next t) : State.Within (touches .entryListStep) s t := by
  simp only [touches]
  cases h; exact (s.hostStep_within _ _ _ entryListBody_within).mono (by decide)

theorem within_tableStatusStep (s t : State)
    (h : exec .tableStatusStep s = .next t) : State.Within (touches .tableStatusStep) s t := by
  simp only [touches]
  cases h; exact (s.hostStep_within _ _ _ tableStatusBody_within).mono (by decide)

theorem within_handleCheck (later : _) (s t : State)
    (h : exec (.handleCheck later) s = .next t) : State.Within (touches (.handleCheck later)) s t := by
  simp only [touches]
  cases h; exact (s.hostStep_within _ _ _ (handleCheckBody_within later)).mono (by decide)

theorem within_initializeTableStep (s t : State)
    (h : exec .initializeTableStep s = .next t) : State.Within (touches .initializeTableStep) s t := by
  simp only [touches]
  cases h
  exact (s.hostStep_within _ _ _ (fun _ _ u => u.initializeTable_within)).mono (by decide)

theorem within_chainRelease (s t : State)
    (h : exec .chainRelease s = .next t) : State.Within (touches .chainRelease) s t := by
  simp only [touches]
  cases h
  split
  · exact .refl _ s
  · exact (State.Within.trans (l := [.releases]) (by
      intro p hp; cases p <;> first | rfl | exact absurd (by decide) hp) (State.takeRelease_within _ _)).mono (by decide)

theorem within_referenceRemoval (o : _) (s t : State)
    (h : exec (.referenceRemoval o) s = .next t) : State.Within (touches (.referenceRemoval o)) s t := by
  simp only [touches]
  cases h
  split
  · exact .refl _ s
  · exact (State.Within.trans (l := [.removals]) (by
      intro p hp; cases p <;> first | rfl | exact absurd (by decide) hp) (State.takeRemoval_within _ o _)).mono (by decide)

theorem within_lineTransition (i time : _) (s t : State)
    (h : exec (.lineTransition i time) s = .next t) : State.Within (touches (.lineTransition i time)) s t := by
  simp only [touches]
  cases h; exact (s.advanceTo_within time).trans (State.inputTransition_only _ i).within

theorem within_carrierGap (i time : _) (s t : State)
    (h : exec (.carrierGap i time) s = .next t) : State.Within (touches (.carrierGap i time)) s t := by
  simp only [touches]
  cases h; exact s.inputEvent_within i time _ (fun u => u.inputGap_only i)

theorem within_glitchFloorReached (i time : _) (s t : State)
    (h : exec (.glitchFloorReached i time) s = .next t) : State.Within (touches (.glitchFloorReached i time)) s t := by
  simp only [touches]
  cases h; exact s.inputEvent_within i time _ (fun u => u.inputFloor_only i)

theorem within_stuck (i time : _) (s t : State)
    (h : exec (.stuck i time) s = .next t) : State.Within (touches (.stuck i time)) s t := by
  simp only [touches]
  cases h; exact s.inputEvent_within i time _ (fun u => u.inputStuck_only i)

theorem within_endGap (i time : _) (s t : State)
    (h : exec (.endGap i time) s = .next t) : State.Within (touches (.endGap i time)) s t := by
  simp only [touches]
  cases h; exact s.inputEvent_within i time _ (fun u => u.inputEndGap_only i)

theorem within_discardingEndGap (i time : _) (s t : State)
    (h : exec (.discardingEndGap i time) s = .next t) : State.Within (touches (.discardingEndGap i time)) s t := by
  simp only [touches]
  cases h; exact s.inputEvent_within i time _ (fun u => u.inputDiscardGap_only i)

theorem within_blankingAsserted (i o : _) (s t : State)
    (h : exec (.blankingAsserted i o) s = .next t) : State.Within (touches (.blankingAsserted i o)) s t := by
  simp only [touches]
  cases h
  split
  · exact (s.enterBlanked_only i).within
  · exact .refl _ s

theorem within_blankingReleased (i : _) (s t : State)
    (h : exec (.blankingReleased i) s = .next t) : State.Within (touches (.blankingReleased i)) s t := by
  simp only [touches]
  cases h
  split
  · exact (s.setInput_only i _).within
  · exact .refl _ s

theorem within_stickySetRequest (i bit : _) (s t : State)
    (h : exec (.stickySetRequest i bit) s = .next t) : State.Within (touches (.stickySetRequest i bit)) s t := by
  simp only [touches]
  cases h
  split
  · exact State.Within.trans (l := [.sticky]) (by
      intro p hp; cases p <;> first | rfl | exact absurd (by decide) hp) (State.setSticky_only _ i _).within
  · exact .refl _ s

theorem within_matchResult (s t : State)
    (h : exec .matchResult s = .next t) : State.Within (touches .matchResult) s t := by
  simp only [touches]
  cases h
  refine s.takeNotice_within _ (fun n act ha u => ?_)
  cases n <;> simp only [reduceCtorEq, Option.some.injEq] at ha
  subst ha
  exact u.takeMatch_only _

theorem within_entryRetiredNotice (s t : State)
    (h : exec .entryRetiredNotice s = .next t) : State.Within (touches .entryRetiredNotice) s t := by
  simp only [touches]
  cases h
  refine s.takeNotice_within _ (fun n act ha u => ?_)
  cases n <;> simp only [reduceCtorEq, Option.some.injEq] at ha
  subst ha
  exact u.endPresses_only _ _

theorem within_entrySuspendedNotice (s t : State)
    (h : exec .entrySuspendedNotice s = .next t) : State.Within (touches .entrySuspendedNotice) s t := by
  simp only [touches]
  cases h
  refine s.takeNotice_within _ (fun n act ha u => ?_)
  cases n <;> simp only [reduceCtorEq, Option.some.injEq] at ha
  subst ha
  exact u.endPresses_only _ _

theorem within_entryDamagedNotice (s t : State)
    (h : exec .entryDamagedNotice s = .next t) : State.Within (touches .entryDamagedNotice) s t := by
  simp only [touches]
  cases h
  refine s.takeNotice_within _ (fun n act ha u => ?_)
  cases n <;> simp only [reduceCtorEq, Option.some.injEq] at ha
  subst ha
  exact u.endPresses_only _ _

theorem within_groupChangedNotice (s t : State)
    (h : exec .groupChangedNotice s = .next t) : State.Within (touches .groupChangedNotice) s t := by
  simp only [touches]
  cases h
  refine s.takeNotice_within _ (fun n act ha u => ?_)
  cases n <;> simp only [reduceCtorEq, Option.some.injEq] at ha
  subst ha
  exact u.endPresses_only _ _

theorem within_releaseExpiry (r time : _) (s t : State)
    (h : exec (.releaseExpiry r time) s = .next t) : State.Within (touches (.releaseExpiry r time)) s t := by
  simp only [touches]
  cases h
  split
  · exact (s.advanceTo_within time).trans (State.endPress_only _ r _).within
  · exact (s.advanceTo_within time).mono (by decide)

theorem within_pressLimitExpiry (r time : _) (s t : State)
    (h : exec (.pressLimitExpiry r time) s = .next t) : State.Within (touches (.pressLimitExpiry r time)) s t := by
  simp only [touches]
  cases h
  split
  · exact (s.advanceTo_within time).trans (State.endPress_only _ r _).within
  · exact (s.advanceTo_within time).mono (by decide)

theorem within_inputChangeNotice (s t : State)
    (h : exec .inputChangeNotice s = .next t) : State.Within (touches .inputChangeNotice) s t := by
  simp only [touches]
  cases h
  split
  · exact .refl _ s
  · exact State.Within.trans (l := [.inputChanges]) (by
      intro p hp; cases p <;> first | rfl | exact absurd (by decide) hp) (State.endPresses_only _ _ _).within

theorem within_linkRequest (s t : State)
    (h : exec .linkRequest s = .next t) : State.Within (touches .linkRequest) s t := by
  simp only [touches]
  cases h
  split
  · exact .refl _ s
  · exact State.Within.trans (l := [.linkRequests]) (by
      intro p hp; cases p <;> first | rfl | exact absurd (by decide) hp) (State.takeLinkRequest_only _ _).within

theorem within_linkClear (o : _) (s t : State)
    (h : exec (.linkClear o) s = .next t) : State.Within (touches (.linkClear o)) s t := by
  simp only [touches]
  cases h
  split
  · exact .refl _ s
  · exact State.Within.trans (l := [.linkClears]) (by
      intro p hp; cases p <;> first | rfl | exact absurd (by decide) hp) (State.takeLinkClear_only _ o _).within

theorem within_pressStart (s t : State)
    (h : exec .pressStart s = .next t) : State.Within (touches .pressStart) s t := by
  simp only [touches]
  cases h
  split
  · exact .refl _ s
  · exact State.Within.trans (l := [.pressStarts]) (by
      intro p hp; cases p <;> first | rfl | exact absurd (by decide) hp) (State.takePressStart_within _ _)

theorem within_relayRetireNotice (s t : State)
    (h : exec .relayRetireNotice s = .next t) : State.Within (touches .relayRetireNotice) s t := by
  simp only [touches]
  cases h
  split
  · exact .refl _ s
  · intro p hp; cases p <;> first | rfl | exact absurd (by decide) hp

theorem within_holdEnded (o : _) (s t : State)
    (h : exec (.holdEnded o) s = .next t) : State.Within (touches (.holdEnded o)) s t := by
  simp only [touches]
  cases h
  split
  · exact .refl _ s
  · exact State.Within.trans (l := [.holdEnded]) (by
      intro p hp; cases p <;> first | rfl | exact absurd (by decide) hp) (State.setHoldEnded_only _ o _).within

theorem within_frameEnd (o time : _) (s t : State)
    (h : exec (.frameEnd o time) s = .next t) : State.Within (touches (.frameEnd o time)) s t := by
  simp only [touches]
  cases h
  split
  · exact ((s.advanceTo_within time).trans (State.endFrame_within _ o _)).mono (by decide)
  · exact (s.advanceTo_within time).mono (by decide)

theorem within_intervalEnd (o time : _) (s t : State)
    (h : exec (.intervalEnd o time) s = .next t) : State.Within (touches (.intervalEnd o time)) s t := by
  simp only [touches]
  cases h
  split
  · exact (((s.advanceTo_within time).trans (State.setOutput_only _ o _).within).trans
      (State.raiseGrant_within _ o)).mono (by decide)
  · exact (s.advanceTo_within time).mono (by decide)

theorem within_holdLimit (o time : _) (s t : State)
    (h : exec (.holdLimit o time) s = .next t) : State.Within (touches (.holdLimit o time)) s t := by
  simp only [touches]
  cases h
  split
  · exact ((s.advanceTo_within time).trans (State.endingCause_only _ o _).within).mono (by decide)
  · exact (s.advanceTo_within time).mono (by decide)

theorem within_spaceEnd (o time : _) (s t : State)
    (h : exec (.spaceEnd o time) s = .next t) : State.Within (touches (.spaceEnd o time)) s t := by
  simp only [touches]
  cases h
  split
  · exact ((s.advanceTo_within time).trans (State.startHead_only _ o).within).mono (by decide)
  · exact (s.advanceTo_within time).mono (by decide)

theorem within_frameParityFault (o time : _) (s t : State)
    (h : exec (.frameParityFault o time) s = .next t) : State.Within (touches (.frameParityFault o time)) s t := by
  simp only [touches]
  cases h
  split
  · exact ((s.advanceTo_within time).trans (State.cutFrame_within _ o _ _)).mono (by decide)
  · exact (s.advanceTo_within time).mono (by decide)

/-- A row that `decodeFrame` reads from a frame is one of the rows of the host port, not CAPTURE, and its frame end is
what the row does (R159 to R161). -/
theorem exec_rowFrameEnd (s : State) {address : BitVec 8} {data : Word} {i : Instr}
    (h : decodeFrame address data = some i) :
    exec i s = .next (s.rowFrameEnd i) ∧ ∀ e, i ≠ .capture e := by
  unfold decodeFrame at h
  split at h
  · cases h
  · split at h
    · cases h; exact ⟨rfl, fun _ => by simp⟩
    · cases h; exact ⟨rfl, fun _ => by simp⟩
    · cases h
    · cases h
      unfold decodeCommandWord
      simp only
      split
      · rename_i c hc
        have hw : commandWordOf (c.writeRow (data.extractLsb' 0 8)) = some (commandWord c (data.extractLsb' 0 8)) := by
          cases c <;> rfl
        have hx : (commandWord c (data.extractLsb' 0 8)).extractLsb' 8 8 = c.code ∧
            (commandWord c (data.extractLsb' 0 8)).extractLsb' 0 8 = data.extractLsb' 0 8 := by
          unfold commandWord
          constructor
          · rw [BitVec.extractLsb'_append_eq_of_le (by decide)]; simp
          · rw [BitVec.extractLsb'_append_eq_of_add_le (by decide)]; simp
        refine ⟨?_, by cases c <;> (intro e; simp [HostCommand.writeRow])⟩
        have : exec (c.writeRow (data.extractLsb' 0 8)) s = .next (s.commandWrite c.code (data.extractLsb' 0 8)) := by
          cases c <;> rfl
        rw [this]
        unfold State.rowFrameEnd
        cases c <;> simp only [HostCommand.writeRow] at hw ⊢ <;> rw [hw] <;> simp only [hx]
      · refine ⟨?_, fun _ => by simp⟩
        have : ((data.extractLsb' 8 8 ++ data.extractLsb' 0 8 : Word)).extractLsb' 8 8 = data.extractLsb' 8 8 ∧
            ((data.extractLsb' 8 8 ++ data.extractLsb' 0 8 : Word)).extractLsb' 0 8 = data.extractLsb' 0 8 := by
          constructor
          · rw [BitVec.extractLsb'_append_eq_of_le (by decide)]; simp
          · rw [BitVec.extractLsb'_append_eq_of_add_le (by decide)]; simp
        simp only [State.rowFrameEnd, commandWordOf, this]
        rfl
    · cases h; exact ⟨rfl, fun _ => by simp⟩
    · cases h; split <;> exact ⟨rfl, fun _ => by simp⟩
    · cases h; exact ⟨rfl, fun _ => by simp⟩

/-- What CAPTURE does: it changes nothing but the frame and the captured word, or it is the frame end of a row that the
24 bits of the frame spell (R159, R160). -/
theorem exec_capture_cases (event : SpiEvent) (s : State) :
    (∃ spi miso, exec (.capture event) s = .next { s with port := { s.port with spi := spi, miso := miso } }) ∨
      ∃ i, (∀ e, i ≠ .capture e) ∧ (∃ address data, decodeFrame address data = some i) ∧
        exec (.capture event) s = exec i s := by
  have hcap : ∀ f, ∃ spi miso, s.captureShift f = { s with port := { s.port with spi := spi, miso := miso } } := by
    intro f
    unfold State.captureShift
    split
    · exact ⟨_, s.port.miso, rfl⟩
    · exact ⟨_, _, rfl⟩
  cases event with
  | selectFalls =>
    refine .inl ?_
    show ∃ spi miso, Host.Outcome.next s.selectFalls = _
    unfold State.selectFalls
    split <;> exact ⟨_, s.port.miso, rfl⟩
  | clock mosi =>
    refine .inl ?_
    show ∃ spi miso, Host.Outcome.next (s.spiClock mosi) = _
    unfold State.spiClock
    split
    · exact ⟨_, s.port.miso, rfl⟩
    · split
      · obtain ⟨a, b, h⟩ := hcap ((‹SpiShift›).shift mosi)
        exact ⟨a, b, congrArg _ h⟩
      · exact ⟨_, s.port.miso, rfl⟩
  | addressByte address =>
    obtain ⟨a, b, h⟩ := hcap (s.port.spi.completed address)
    exact .inl ⟨a, b, congrArg _ h⟩
  | selectRises =>
    show (∃ spi miso, Host.Outcome.next s.selectRises = _) ∨ ∃ i, _ ∧ _ ∧ Host.Outcome.next s.selectRises = _
    unfold State.selectRises
    split
    · exact .inl ⟨_, s.port.miso, rfl⟩
    · split
      · split
        · rename_i i hi
          obtain ⟨h1, h2⟩ := exec_rowFrameEnd s hi
          exact .inr ⟨i, h2, ⟨_, _, hi⟩, h1.symm⟩
        · exact .inl ⟨_, s.port.miso, rfl⟩
      · exact .inl ⟨_, s.port.miso, rfl⟩

/-- The frame end of a row touches no more than a TRANSFER write does. -/
theorem State.rowFrameEnd_within (s : State) (i : Instr) :
    State.Within [.engine, .portBits, .hostClaim, .cells] s (s.rowFrameEnd i) := by
  unfold State.rowFrameEnd
  split
  · exact (execFlagsRead_within s _ rfl).mono (by decide)
  · exact (execTransferRead_within s _ rfl).mono (by decide)
  · exact execTransferWrite_within _ s _ rfl
  · exact (s.controlWrite_within _).mono (by decide)
  · exact (s.controlWrite_within _).mono (by decide)
  · exact (s.writeFrame_within _ _ id [] (fun u => .refl _ u)).mono (by decide)
  · split
    · exact (s.commandWrite_within _ _).mono (by decide)
    · exact .refl _ s

theorem within_capture (event : _) (s t : State)
    (h : exec (.capture event) s = .next t) : State.Within (touches (.capture event)) s t := by
  rcases exec_capture_cases event s with ⟨spi, miso, he⟩ | ⟨i, -, ⟨a, d, hd⟩, he⟩
  · rw [he] at h
    simp only [touches]
    cases h; intro p hp; cases p <;> first | rfl | exact absurd (by decide) hp
  · rw [he, (exec_rowFrameEnd s hd).1] at h
    cases h
    exact s.rowFrameEnd_within i

/-- A command touches nothing but the parts of its footprint. -/
theorem exec_within (c : Instr) (s t : State) (h : exec c s = .next t) : State.Within (touches c) s t := by
  cases c
  case hardwareReset => exact within_hardwareReset s t h
  case memoryTestEnd failing time => exact within_memoryTestEnd failing time s t h
  case flagsRead => exact within_flagsRead s t h
  case transferWrite w => exact within_transferWrite w s t h
  case transferRead => exact within_transferRead s t h
  case abort w => exact within_abort w s t h
  case interruptEnableWrite w => exact within_interruptEnableWrite w s t h
  case ignoredLocationWrite location w => exact within_ignoredLocationWrite location w s t h
  case transferTimeout time => exact within_transferTimeout time s t h
  case badCommand a0 a1 => exact within_badCommand a0 a1 s t h
  case initializeCommand a0 => exact within_initializeCommand a0 s t h
  case tableStatus a0 => exact within_tableStatus a0 s t h
  case groupDefine a0 => exact within_groupDefine a0 s t h
  case groupEdit a0 => exact within_groupEdit a0 s t h
  case groupRemove a0 => exact within_groupRemove a0 s t h
  case groupRead a0 => exact within_groupRead a0 s t h
  case entryInstall a0 => exact within_entryInstall a0 s t h
  case entryEdit a0 => exact within_entryEdit a0 s t h
  case entrySuspend a0 => exact within_entrySuspend a0 s t h
  case entryResume a0 => exact within_entryResume a0 s t h
  case entryRetire a0 => exact within_entryRetire a0 s t h
  case entryRead a0 => exact within_entryRead a0 s t h
  case entryFind a0 => exact within_entryFind a0 s t h
  case entryList a0 => exact within_entryList a0 s t h
  case inputConfigure part => exact within_inputConfigure part s t h
  case inputStatus part => exact within_inputStatus part s t h
  case report part => exact within_report part s t h
  case pressRead part => exact within_pressRead part s t h
  case pressEnd part => exact within_pressEnd part s t h
  case relaySet part => exact within_relaySet part s t h
  case relayClear part => exact within_relayClear part s t h
  case relayRead part => exact within_relayRead part s t h
  case outputConfigure part => exact within_outputConfigure part s t h
  case outputStatus part => exact within_outputStatus part s t h
  case send part => exact within_send part s t h
  case holdStart part => exact within_holdStart part s t h
  case holdEnd part => exact within_holdEnd part s t h
  case outputFlush part => exact within_outputFlush part s t h
  case lookup i => exact within_lookup i s t h
  case frameGrant o => exact within_frameGrant o s t h
  case damageNotice o => exact within_damageNotice o s t h
  case installParameterStep => exact within_installParameterStep s t h
  case parameterPhaseCleanUp => exact within_parameterPhaseCleanUp s t h
  case installFinalStep => exact within_installFinalStep s t h
  case groupParameterStep => exact within_groupParameterStep s t h
  case groupDefineFinalStep => exact within_groupDefineFinalStep s t h
  case groupEditFinalStep => exact within_groupEditFinalStep s t h
  case groupRemoveStep => exact within_groupRemoveStep s t h
  case entryEditStep => exact within_entryEditStep s t h
  case suspend => exact within_suspend s t h
  case resume => exact within_resume s t h
  case retire => exact within_retire s t h
  case entryReadStep => exact within_entryReadStep s t h
  case groupReadStep => exact within_groupReadStep s t h
  case entryFindStep => exact within_entryFindStep s t h
  case entryListStep => exact within_entryListStep s t h
  case tableStatusStep => exact within_tableStatusStep s t h
  case handleCheck later => exact within_handleCheck later s t h
  case initializeTableStep => exact within_initializeTableStep s t h
  case chainRelease => exact within_chainRelease s t h
  case referenceRemoval o => exact within_referenceRemoval o s t h
  case lineTransition i time => exact within_lineTransition i time s t h
  case carrierGap i time => exact within_carrierGap i time s t h
  case glitchFloorReached i time => exact within_glitchFloorReached i time s t h
  case stuck i time => exact within_stuck i time s t h
  case endGap i time => exact within_endGap i time s t h
  case discardingEndGap i time => exact within_discardingEndGap i time s t h
  case blankingAsserted i o => exact within_blankingAsserted i o s t h
  case blankingReleased i => exact within_blankingReleased i s t h
  case stickySetRequest i bit => exact within_stickySetRequest i bit s t h
  case matchResult => exact within_matchResult s t h
  case entryRetiredNotice => exact within_entryRetiredNotice s t h
  case entrySuspendedNotice => exact within_entrySuspendedNotice s t h
  case entryDamagedNotice => exact within_entryDamagedNotice s t h
  case groupChangedNotice => exact within_groupChangedNotice s t h
  case releaseExpiry r time => exact within_releaseExpiry r time s t h
  case pressLimitExpiry r time => exact within_pressLimitExpiry r time s t h
  case inputChangeNotice => exact within_inputChangeNotice s t h
  case linkRequest => exact within_linkRequest s t h
  case linkClear o => exact within_linkClear o s t h
  case pressStart => exact within_pressStart s t h
  case relayRetireNotice => exact within_relayRetireNotice s t h
  case holdEnded o => exact within_holdEnded o s t h
  case frameEnd o time => exact within_frameEnd o time s t h
  case intervalEnd o time => exact within_intervalEnd o time s t h
  case holdLimit o time => exact within_holdLimit o time s t h
  case spaceEnd o time => exact within_spaceEnd o time s t h
  case frameParityFault o time => exact within_frameParityFault o time s t h
  case capture event => exact within_capture event s t h

end Sys2Proof.Machine
end

