-- ==== Sys2Proof/Laws/Pool.lean ====
section
/-! SUPPORT. The cell pool after each of its operations (chapter 3): which cells change, how, and the lists. -/

namespace Sys2Proof.Machine

/-- One cell changed (R47). -/
theorem Pool.modifyCell_cells (p : Pool) (c d : CellNo) (f : Cell → Cell) :
    (p.modifyCell c f).cells[d] = if c = d then f p.cells[d] else p.cells[d] := by
  simp only [Pool.modifyCell, Fin.getElem_fin]
  by_cases h : c = d
  · subst h; simp
  · rw [Vector.getElem_set_ne _ _ (fun hv => h (Fin.ext hv)), if_neg h]

/-- The cells of a chain changed by a change that adds nothing a second time (R47). -/
theorem Pool.modifyChain_cells (p : Pool) (chain : List CellNo) (f : Cell → Cell) (hf : ∀ x, f (f x) = f x)
    (d : CellNo) : (p.modifyChain chain f).cells[d] = if d ∈ chain then f p.cells[d] else p.cells[d] := by
  unfold Pool.modifyChain
  induction chain generalizing p with
  | nil => simp
  | cons c cs ih =>
    rw [List.foldl_cons, ih, Pool.modifyCell_cells]
    by_cases h : c = d
    · subst h; simp [hf]
    · have h' : ¬d = c := fun e => h e.symm
      simp [h, h']

/-- Changing the cells of a chain changes no list of the pool (R47). -/
theorem Pool.modifyChain_lists (p : Pool) (chain : List CellNo) (f : Cell → Cell) :
    (p.modifyChain chain f).freeList = p.freeList ∧ (p.modifyChain chain f).returnList = p.returnList ∧
      (p.modifyChain chain f).reservation = p.reservation := by
  unfold Pool.modifyChain
  induction chain generalizing p with
  | nil => exact ⟨rfl, rfl, rfl⟩
  | cons c cs ih => exact ih (p.modifyCell c f)

/-- A pool is its four parts. -/
theorem Pool.ext_parts {p q : Pool} (h : p.cells = q.cells) (k : p.freeList = q.freeList)
    (l : p.returnList = q.returnList) (m : p.reservation = q.reservation) : p = q := by
  cases p; cases q; simp_all

/-- A reservation: the first cells of the free list leave it and become RESERVED, or there are too few (R50). -/
theorem Pool.reserve_spec (p : Pool) (n : Nat) :
    (p.freeList.length < n → p.reserve n = none) ∧
    (n ≤ p.freeList.length → ∃ q, p.reserve n = some q ∧
      q = { p with cells := q.cells, freeList := p.freeList.drop n, reservation := p.freeList.take n } ∧
      ∀ c : CellNo, q.cells[c] = if c ∈ p.freeList.take n then
          { p.cells[c] with condition := .reserved, fault := false, refs := 0 }
        else p.cells[c]) := by
  unfold Pool.reserve
  refine ⟨fun h => by simp [h], fun h => ?_⟩
  rw [if_neg (Nat.not_lt.2 h)]
  have hl := p.modifyChain_lists (p.freeList.take n)
    (fun cell => { cell with condition := .reserved, fault := false, refs := 0 })
  refine ⟨_, rfl, ?_, fun c => ?_⟩
  · have h1 := hl.1
    have h2 := hl.2.1
    apply Pool.ext_parts
    · rfl
    · show List.drop n (Pool.freeList _) = _
      rw [h1]
    · exact h2
    · rfl
  · exact p.modifyChain_cells (p.freeList.take n)
      (fun cell => { cell with condition := .reserved, fault := false, refs := 0 }) (fun _ => rfl) c

/-- A cell that comes back: FREE at the tail of the free list, or WITHHELD (R49, R58). -/
theorem Pool.returnCell_cells (p : Pool) (c d : CellNo) :
    (p.returnCell c).cells[d] = if c = d then
        { p.cells[d] with
          condition := if p.cells[d].fault then .withheld else .free, fault := false, refs := 0 }
      else p.cells[d] := by
  unfold Pool.returnCell
  split <;> rename_i hf
  · rw [Pool.modifyCell_cells]
    by_cases h : c = d
    · subst h; simp only [Fin.getElem_fin] at hf; simp [hf]
    · simp [h]
  · simp only [Pool.modifyCell_cells]
    by_cases h : c = d
    · subst h; simp only [Fin.getElem_fin, Bool.not_eq_true] at hf; simp [hf]
    · simp [h]

/-- The cells of a chain that comes back (R49, R52, R54, R55, R58). -/
theorem Pool.returnCells_cells (p : Pool) (chain : List CellNo) (hn : chain.Nodup) (d : CellNo) :
    (p.returnCells chain).cells[d] = if d ∈ chain then
        { p.cells[d] with
          condition := if p.cells[d].fault then .withheld else .free, fault := false, refs := 0 }
      else p.cells[d] := by
  unfold Pool.returnCells
  induction chain generalizing p with
  | nil => simp
  | cons c cs ih =>
    have hc := List.nodup_cons.1 hn
    rw [List.foldl_cons, ih _ hc.2, Pool.returnCell_cells]
    by_cases h : c = d
    · subst h; simp [hc.1]
    · have h' : ¬d = c := fun e => h e.symm
      simp [h, h']

/-- The lists of the pool after a chain has come back (R49). -/
theorem Pool.returnCells_lists (p : Pool) (chain : List CellNo) (hn : chain.Nodup) :
    (p.returnCells chain).freeList = p.freeList ++ chain.filter (fun c => !p.cells[c].fault) ∧
      (p.returnCells chain).returnList = p.returnList ∧ (p.returnCells chain).reservation = p.reservation := by
  unfold Pool.returnCells
  induction chain generalizing p with
  | nil => simp
  | cons c cs ih =>
    have hc := List.nodup_cons.1 hn
    have hfree : ∀ d ∈ cs, (p.returnCell c).cells[d].fault = p.cells[d].fault := by
      intro d hd
      have h : ¬c = d := fun e => hc.1 (e ▸ hd)
      rw [Pool.returnCell_cells, if_neg h]
    obtain ⟨h1, h2, h3⟩ := ih (p.returnCell c) hc.2
    have hfilter : cs.filter (fun d => !(p.returnCell c).cells[d].fault) = cs.filter (fun d => !p.cells[d].fault) :=
      List.filter_congr (fun d hd => by rw [hfree d hd])
    rw [List.foldl_cons, h1, h2, h3, hfilter]
    unfold Pool.returnCell
    split <;> rename_i hf
    · simp only [Fin.getElem_fin] at hf; simp [hf, Pool.modifyCell]
    · simp only [Fin.getElem_fin, Bool.not_eq_true] at hf; simp [hf, Pool.modifyCell]

/-- The reservation owned (R51). -/
theorem Pool.ownReservation_spec (p : Pool) :
    p.ownReservation = { p with cells := p.ownReservation.cells, reservation := [] } ∧
    ∀ c : CellNo, p.ownReservation.cells[c] = if c ∈ p.reservation then { p.cells[c] with condition := .owned }
      else p.cells[c] := by
  have hl := p.modifyChain_lists p.reservation (fun cell => { cell with condition := .owned })
  refine ⟨?_, fun c => ?_⟩
  · apply Pool.ext_parts <;> first | rfl | exact hl.1 | exact hl.2.1
  · exact p.modifyChain_cells p.reservation (fun cell => { cell with condition := .owned }) (fun _ => rfl) c

/-- An output's reference added to the cells of a chain (R53). -/
theorem Pool.addReference_cells (p : Pool) (chain : List CellNo) (o : OutputId) (c : CellNo) :
    (p.addReference chain o).cells[c] = { p.cells[c] with
      refs := if c ∈ chain then OutputMask.insert p.cells[c].refs o else p.cells[c].refs } := by
  unfold Pool.addReference
  rw [p.modifyChain_cells _ _ (fun x => by simp [OutputMask.insert, BitVec.or_assoc]) c]
  split <;> rfl

/-- An output's reference removed from the cells of a chain (R54). -/
theorem Pool.dropReference_cells (p : Pool) (chain : List CellNo) (o : OutputId) (c : CellNo) :
    (p.dropReference chain o).cells[c] = { p.cells[c] with
      refs := if c ∈ chain then OutputMask.remove p.cells[c].refs o else p.cells[c].refs } := by
  unfold Pool.dropReference
  rw [p.modifyChain_cells _ _ (fun x => by simp [OutputMask.remove, BitVec.and_assoc]) c]
  split <;> rfl

/-- A reference added, or a condition changed, leaves every run as it reads (R48). -/
theorem Pool.readRun_congr (p q : Pool) (h : ∀ c : CellNo, q.cells[c].runs = p.cells[c].runs ∧
    q.cells[c].fault = p.cells[c].fault) (chain : List CellNo) (k : Nat) : q.readRun chain k = p.readRun chain k := by
  unfold Pool.readRun
  split
  · rfl
  · rename_i c pos _
    simp only [(h c).1, (h c).2]

/-- The pool after a memory test (R59, R60). -/
theorem testedPool_spec (failing : List CellNo) :
    (∀ c : CellNo, (testedPool failing).cells[c] = testedCell failing c) ∧
    (testedPool failing).freeList = (List.finRange 768).filter (fun c => !failing.contains c) ∧
    (testedPool failing).returnList = [] ∧ (testedPool failing).reservation = [] := by
  refine ⟨fun c => ?_, ?_, ?_, ?_⟩ <;> delta testedPool <;> dsimp only
  exact Vector.getElem_ofFn _

end Sys2Proof.Machine
end

