-- ==== Sys2Proof/Laws/Places.lean ====
section
/-! SUPPORT. The place of every cell (R47 to R62): how each operation of the pool and of the table moves cells between
the free list, the reservation, the stored patterns, the releases and the return list. -/

namespace Sys2Proof.Machine

set_option Elab.async false

/-- Cells that stand in one place stand in it still where their conditions are as they were. -/
theorem State.CellsIn.congr {s t : State} {cells : List CellNo} {k : CellCondition} (h : s.CellsIn cells k)
    (hc : ∀ c ∈ cells, t.pool.cells[c].condition = s.pool.cells[c].condition) : t.CellsIn cells k :=
  ⟨h.1, fun c hm => (hc c hm).trans (h.2 c hm)⟩

/-- Cells in two conditions are not the same cells. -/
theorem State.CellsIn.apart {s : State} {a b : List CellNo} {k l : CellCondition} (ha : s.CellsIn a k)
    (hb : s.CellsIn b l) (hk : k ≠ l) {c : CellNo} (h : c ∈ a) : c ∉ b :=
  fun h' => hk ((ha.2 c h).symm.trans (hb.2 c h'))

/-- The places of the cells, where none of the lists and the conditions changes. -/
theorem State.PlaceLaw.congr {s t : State} (h : s.PlaceLaw) (hm : t.memoryTest = s.memoryTest)
    (hs : ∀ ref, t.storedChain ref = s.storedChain ref)
    (hc : ∀ c : CellNo, t.pool.cells[c].condition = s.pool.cells[c].condition)
    (hf : t.pool.freeList = s.pool.freeList) (hr : t.pool.reservation = s.pool.reservation)
    (hl : t.pool.returnList = s.pool.returnList) (hx : t.mail.releases = s.mail.releases) : t.PlaceLaw where
  free := by rw [hf]; exact h.free.congr (fun c _ => hc c)
  reserved := by rw [hr]; exact h.reserved.congr (fun c _ => hc c)
  returning := by rw [hl]; exact h.returning.congr (fun c _ => hc c)
  released := by rw [hx]; exact h.released.congr (fun c _ => hc c)
  stored ref chain he := (h.stored ref chain (hs ref ▸ he)).congr (fun c _ => hc c)
  apart ref ref' chain chain' c he he' := h.apart ref ref' chain chain' c (hs ref ▸ he) (hs ref' ▸ he')
  kept ref chain he c hm := by rw [hx]; exact h.kept ref chain (hs ref ▸ he) c hm
  testing ht c := (hc c).trans (h.testing (hm ▸ ht) c)

/-- The chains of the stored patterns are those of the table records. -/
theorem State.storedChain_congr {s t : State} (he : t.entries = s.entries) (hg : t.groups = s.groups)
    (ref : PatternRef) : t.storedChain ref = s.storedChain ref := by
  cases ref with
  | frame slot v => simp only [State.storedChain, State.installedAt, he]
  | ofGroup g => simp only [State.storedChain, hg]

/-- The places of the cells are told by the table records, the pool, the releases and the memory test. -/
theorem State.PlaceLaw.of_eq {s t : State} (h : s.PlaceLaw) (hm : t.memoryTest = s.memoryTest)
    (he : t.entries = s.entries) (hg : t.groups = s.groups) (hp : t.pool = s.pool)
    (hx : t.mail.releases = s.mail.releases) : t.PlaceLaw :=
  h.congr hm (State.storedChain_congr he hg) (by simp [hp]) (by rw [hp]) (by rw [hp]) (by rw [hp]) hx

/-- Marks of damage move no pattern (R39, R40). -/
theorem State.Marked.storedChain {s t : State} (h : s.Marked t) (ref : PatternRef) :
    t.storedChain ref = s.storedChain ref := by
  cases ref with
  | frame slot v =>
    simp only [State.storedChain, State.installedAt]
    rcases h.entry slot with h | ⟨e, m, a, he, h⟩
    · rw [h]
    · rw [h, he]; cases v <;> rfl
  | ofGroup g =>
    simp only [State.storedChain]
    rcases h.group g with h | ⟨x, hx, h⟩
    · rw [h]
    · rw [h, hx]; rfl

/-- Marks of faults and damage move no cell (R39, R40, R57). -/
theorem State.Marked.placeLaw {s t : State} (h : s.Marked t) (hp : s.PlaceLaw) : t.PlaceLaw := by
  have hf := h.frame
  refine hp.congr ?_ h.storedChain (fun c => (h.condition c).1) ?_ ?_ ?_ ?_ <;> rw [hf]

/-! ## Cells that come back (R49, R52, R54, R55) -/

/-- The cells of a chain that stands in no place any more come back. -/
theorem State.PlaceLaw.returnCells {s : State} (h : s.PlaceLaw) {chain : List CellNo} (hn : chain.Nodup)
    (ht : s.memoryTest.isSome = true → chain = [])
    (hout : ∀ c ∈ chain, c ∉ s.pool.freeList ∧ c ∉ s.pool.reservation ∧
      c ∉ s.pool.returnList.flatMap ReturningChain.chain ∧ c ∉ s.mail.releases.flatten ∧
      ∀ ref k, s.storedChain ref = some k → c ∉ k) : (s.returnCells chain).PlaceLaw := by
  obtain ⟨l1, l2, l3⟩ := s.pool.returnCells_lists chain hn
  have hcells := s.pool.returnCells_cells chain hn
  rw [s.returnCells_frame]
  have hc : ∀ c : CellNo, c ∉ chain → (s.pool.returnCells chain).cells[c] = s.pool.cells[c] :=
    fun c hm => by rw [hcells, if_neg hm]
  constructor
  case free =>
    show State.CellsIn _ (s.pool.returnCells chain).freeList .free
    rw [l1]
    refine ⟨List.nodup_append.2 ⟨h.free.1, hn.filter _, fun a ha b hb hab => ?_⟩, fun c hm => ?_⟩
    · subst hab; exact (hout a (List.mem_filter.1 hb).1).1 ha
    · show (s.pool.returnCells chain).cells[c].condition = _
      rcases List.mem_append.1 hm with hm | hm
      · rw [hc c (fun hx => (hout c hx).1 hm)]; exact h.free.2 c hm
      · obtain ⟨h1, h2⟩ := List.mem_filter.1 hm
        rw [hcells, if_pos h1]
        rw [Bool.not_eq_true'] at h2
        rw [h2]; rfl
  case reserved =>
    show State.CellsIn _ (s.pool.returnCells chain).reservation .reserved
    rw [l3]
    exact h.reserved.congr (fun c hm => congrArg Cell.condition (hc c (fun hx => (hout c hx).2.1 hm)))
  case returning =>
    show State.CellsIn _ ((s.pool.returnCells chain).returnList.flatMap ReturningChain.chain) .returning
    rw [l2]
    exact h.returning.congr (fun c hm => congrArg Cell.condition (hc c (fun hx => (hout c hx).2.2.1 hm)))
  case released =>
    exact h.released.congr (fun c hm => congrArg Cell.condition (hc c (fun hx => (hout c hx).2.2.2.1 hm)))
  case stored =>
    intro ref k he
    have he : s.storedChain ref = some k := he
    exact (h.stored ref k he).congr
      (fun c hm => congrArg Cell.condition (hc c (fun hx => (hout c hx).2.2.2.2 ref k he hm)))
  case apart => exact h.apart
  case kept => exact h.kept
  case testing =>
    intro hm c
    have hm : s.memoryTest.isSome = true := hm
    have := ht hm
    subst this
    exact (congrArg Cell.condition (hc c (by simp))).trans (h.testing hm c)

/-- The reservation comes back (R52). -/
theorem State.PlaceLaw.returnReservation {s : State} (h : s.PlaceLaw) : s.returnReservation.PlaceLaw := by
  have h' : State.PlaceLaw (s.setPool { s.pool with reservation := [] }) :=
    { free := h.free.congr (fun _ _ => rfl)
      reserved := ⟨List.nodup_nil, by simp [State.setPool]⟩
      returning := h.returning.congr (fun _ _ => rfl)
      released := h.released.congr (fun _ _ => rfl)
      stored := fun ref k he => (h.stored ref k he).congr (fun _ _ => rfl)
      apart := h.apart
      kept := h.kept
      testing := h.testing }
  refine h'.returnCells h.reserved.1 (fun ht => ?_) (fun c hm => ⟨?_, by simp [State.setPool], ?_, ?_, fun ref k he => ?_⟩)
  · refine List.eq_nil_iff_forall_not_mem.2 (fun c hm => ?_)
    have h1 := h.reserved.2 c hm
    rw [h.testing ht c] at h1
    cases h1
  · exact h.reserved.apart h.free (by decide) hm
  · exact h.reserved.apart h.returning (by decide) hm
  · exact h.reserved.apart h.released (by decide) hm
  · exact h.reserved.apart (h.stored ref k he) (by decide) hm

/-! ## Cells that are reserved and owned (R50, R51) -/

/-- Cells taken from the head of the free list are RESERVED (R50). -/
theorem State.PlaceLaw.reserve {s : State} (h : s.PlaceLaw) {n : Nat} {p : Pool} (hr : s.pool.reserve n = some p) :
    (s.setPool p).PlaceLaw := by
  obtain ⟨h1, h2⟩ := s.pool.reserve_spec n
  by_cases hn : s.pool.freeList.length < n
  · rw [h1 hn] at hr; cases hr
  obtain ⟨q, hq, hqe, hqc⟩ := h2 (by omega)
  rw [hr] at hq; cases hq
  have hsub : ∀ c ∈ s.pool.freeList.take n, c ∈ s.pool.freeList := fun c hm => List.mem_of_mem_take hm
  have hfree : p.freeList = s.pool.freeList.drop n := by rw [hqe]
  have hres : p.reservation = s.pool.freeList.take n := by rw [hqe]
  have hret : p.returnList = s.pool.returnList := by rw [hqe]
  have hc : ∀ c : CellNo, c ∉ s.pool.freeList → p.cells[c] = s.pool.cells[c] :=
    fun c hm => by rw [hqc, if_neg (fun hx => hm (hsub c hx))]
  have hnd := h.free.1
  rw [← List.take_append_drop n s.pool.freeList] at hnd
  obtain ⟨d1, d2, d3⟩ := List.nodup_append.1 hnd
  constructor
  case free =>
    show State.CellsIn _ p.freeList .free
    rw [hfree]
    refine ⟨d2, fun c hm => ?_⟩
    show p.cells[c].condition = _
    rw [hqc, if_neg (fun hx => d3 c hx c hm rfl)]
    exact h.free.2 c (List.mem_of_mem_drop hm)
  case reserved =>
    show State.CellsIn _ p.reservation .reserved
    rw [hres]
    refine ⟨d1, fun c hm => ?_⟩
    show p.cells[c].condition = _
    rw [hqc, if_pos hm]
  case returning =>
    show State.CellsIn _ (p.returnList.flatMap ReturningChain.chain) .returning
    rw [hret]
    exact h.returning.congr (fun c hm =>
      congrArg Cell.condition (hc c (h.returning.apart h.free (by decide) hm)))
  case released =>
    exact h.released.congr (fun c hm => congrArg Cell.condition (hc c (h.released.apart h.free (by decide) hm)))
  case stored =>
    intro ref k he
    have hs := h.stored ref k he
    exact hs.congr (fun c hm => congrArg Cell.condition (hc c (hs.apart h.free (by decide) hm)))
  case apart => exact h.apart
  case kept => exact h.kept
  case testing =>
    intro hm c
    refine (congrArg Cell.condition (hc c (fun hx => ?_))).trans (h.testing hm c)
    have := h.free.2 c hx
    rw [h.testing hm c] at this
    cases this

/-- The reserved cells become OWNED by patterns that were not stored before (R51). -/
theorem State.PlaceLaw.own {s t : State} (h : s.PlaceLaw) (hm : t.memoryTest = s.memoryTest)
    (hf : t.pool.freeList = s.pool.freeList) (hl : t.pool.returnList = s.pool.returnList)
    (hx : t.mail.releases = s.mail.releases) (hr : t.pool.reservation = [])
    (hc : ∀ c : CellNo, t.pool.cells[c].condition =
      if c ∈ s.pool.reservation then .owned else s.pool.cells[c].condition)
    (hs : ∀ ref chain, t.storedChain ref = some chain →
      s.storedChain ref = some chain ∨ chain.Nodup ∧ ∀ c ∈ chain, c ∈ s.pool.reservation)
    (ha : ∀ ref ref' chain chain' c, t.storedChain ref = some chain → t.storedChain ref' = some chain' →
      c ∈ chain → c ∈ chain' → c ∈ s.pool.reservation → ref = ref') : t.PlaceLaw := by
  have hcn : ∀ c : CellNo, c ∉ s.pool.reservation → t.pool.cells[c].condition = s.pool.cells[c].condition :=
    fun c hn => by rw [hc, if_neg hn]
  constructor
  case free =>
    rw [hf]; exact h.free.congr (fun c hm => hcn c (h.free.apart h.reserved (by decide) hm))
  case reserved => rw [hr]; exact ⟨List.nodup_nil, by simp⟩
  case returning =>
    rw [hl]; exact h.returning.congr (fun c hm => hcn c (h.returning.apart h.reserved (by decide) hm))
  case released =>
    rw [hx]; exact h.released.congr (fun c hm => hcn c (h.released.apart h.reserved (by decide) hm))
  case stored =>
    intro ref chain he
    rcases hs ref chain he with he | ⟨h1, h2⟩
    · have := h.stored ref chain he
      exact this.congr (fun c hm => hcn c (this.apart h.reserved (by decide) hm))
    · exact ⟨h1, fun c hm => by rw [hc, if_pos (h2 c hm)]⟩
  case apart =>
    intro ref ref' chain chain' c he he' hm hm'
    by_cases hcr : c ∈ s.pool.reservation
    · exact ha ref ref' chain chain' c he he' hm hm' hcr
    · have h1 : s.storedChain ref = some chain := (hs ref chain he).resolve_right (fun hn => hcr (hn.2 c hm))
      have h2 : s.storedChain ref' = some chain' := (hs ref' chain' he').resolve_right (fun hn => hcr (hn.2 c hm'))
      exact h.apart ref ref' chain chain' c h1 h2 hm hm'
  case kept =>
    intro ref chain he c hm
    rw [hx]
    rcases hs ref chain he with he | ⟨_, h2⟩
    · exact h.kept ref chain he c hm
    · exact h.reserved.apart h.released (by decide) (h2 c hm)
  case testing =>
    intro hmt c
    rw [hm] at hmt
    rw [hcn c (fun hx => ?_)]
    · exact h.testing hmt c
    · have := h.reserved.2 c hx
      rw [h.testing hmt c] at this
      cases this

/-! ## Cells that are released (R55) -/

/-- Patterns leave the table and the cells of their chains wait for the pool (R34, R37, R38, R55). -/
theorem State.PlaceLaw.release {s t : State} (h : s.PlaceLaw) (chains : List (List CellNo))
    (hm : t.memoryTest = s.memoryTest) (hp : t.pool = s.pool)
    (hx : t.mail.releases = s.mail.releases ++ chains)
    (hn : chains.flatten.Nodup)
    (hs : ∀ ref chain, t.storedChain ref = some chain →
      s.storedChain ref = some chain ∧ ∀ c ∈ chain, c ∉ chains.flatten)
    (hold : ∀ c ∈ chains.flatten, ∃ ref chain, s.storedChain ref = some chain ∧ c ∈ chain) : t.PlaceLaw where
  free := by rw [hp]; exact h.free.congr (fun c _ => by rw [hp])
  reserved := by rw [hp]; exact h.reserved.congr (fun c _ => by rw [hp])
  returning := by rw [hp]; exact h.returning.congr (fun c _ => by rw [hp])
  released := by
    rw [hx, List.flatten_append]
    refine ⟨List.nodup_append.2 ⟨h.released.1, hn, fun a ha b hb hab => ?_⟩, fun c hm => ?_⟩
    · subst hab
      obtain ⟨ref, chain, he, hc⟩ := hold a hb
      exact h.kept ref chain he a hc ha
    · rw [hp]
      rcases List.mem_append.1 hm with hm | hm
      · exact h.released.2 c hm
      · obtain ⟨ref, chain, he, hc⟩ := hold c hm
        exact (h.stored ref chain he).2 c hc
  stored ref chain he := (h.stored ref chain (hs ref chain he).1).congr (fun c _ => by rw [hp])
  apart ref ref' chain chain' c he he' := h.apart ref ref' chain chain' c (hs ref chain he).1 (hs ref' chain' he').1
  kept ref chain he c hm := by
    rw [hx, List.flatten_append]
    intro hmem
    rcases List.mem_append.1 hmem with hmem | hmem
    · exact h.kept ref chain (hs ref chain he).1 c hm hmem
    · exact (hs ref chain he).2 c hm hmem
  testing ht c := by rw [hp]; exact h.testing (hm ▸ ht) c

/-- During a memory test no cell stands in another condition, so that a chain of such cells is empty. -/
theorem State.PlaceLaw.no_cells {s : State} (h : s.PlaceLaw) (ht : s.memoryTest.isSome = true) {chain : List CellNo}
    {k : CellCondition} (hk : k ≠ .testing) (hc : ∀ c ∈ chain, s.pool.cells[c].condition = k) : chain = [] :=
  List.eq_nil_iff_forall_not_mem.2 (fun c hm => hk ((hc c hm).symm.trans (h.testing ht c)))

/-- The pool takes a released chain (R55, R56). -/
theorem State.PlaceLaw.takeRelease {s : State} (h : s.PlaceLaw) {chain : List CellNo} {rest : List (List CellNo)}
    (hr : s.mail.releases = chain :: rest) :
    ((s.setMail { s.mail with releases := rest }).takeRelease chain).PlaceLaw := by
  have hrel := h.released
  rw [hr, List.flatten_cons] at hrel
  obtain ⟨n1, n2, n3⟩ := List.nodup_append.1 hrel.1
  have howned : ∀ c ∈ chain, s.pool.cells[c].condition = .owned := fun c hm => hrel.2 c (List.mem_append_left _ hm)
  have hchain : s.CellsIn chain .owned := ⟨n1, howned⟩
  have h' : State.PlaceLaw (s.setMail { s.mail with releases := rest }) :=
    { free := h.free.congr (fun _ _ => rfl)
      reserved := h.reserved.congr (fun _ _ => rfl)
      returning := h.returning.congr (fun _ _ => rfl)
      released := ⟨n2, fun c hm => hrel.2 c (List.mem_append_right _ hm)⟩
      stored := fun ref k he => (h.stored ref k he).congr (fun _ _ => rfl)
      apart := h.apart
      kept := fun ref k he c hm hx => h.kept ref k he c hm (by
        rw [hr, List.flatten_cons]; exact List.mem_append_right _ hx)
      testing := h.testing }
  have hout : ∀ c ∈ chain, c ∉ s.pool.freeList ∧ c ∉ s.pool.reservation ∧
      c ∉ s.pool.returnList.flatMap ReturningChain.chain ∧ c ∉ rest.flatten ∧
      ∀ ref k, s.storedChain ref = some k → c ∉ k := fun c hm =>
    ⟨hchain.apart h.free (by decide) hm, hchain.apart h.reserved (by decide) hm,
      hchain.apart h.returning (by decide) hm, fun hx => n3 c hm c hx rfl,
      fun ref k he hk => h.kept ref k he c hk (by rw [hr, List.flatten_cons]; exact List.mem_append_left _ hm)⟩
  unfold State.takeRelease
  simp only
  split
  · exact h'.returnCells n1 (fun ht => h.no_cells ht (by decide) howned) hout
  · have hl := s.pool.modifyChain_lists chain (fun cell => { cell with condition := .returning })
    have hcells := s.pool.modifyChain_cells chain (fun cell => { cell with condition := .returning }) (fun _ => rfl)
    have hc : ∀ c : CellNo, c ∉ chain →
        (s.pool.modifyChain chain (fun cell => { cell with condition := .returning })).cells[c] = s.pool.cells[c] :=
      fun c hm => by rw [hcells, if_neg hm]
    constructor
    case free =>
      show State.CellsIn _ (s.pool.modifyChain chain _).freeList .free
      rw [hl.1]
      exact h.free.congr (fun c hm => congrArg Cell.condition (hc c (fun hx => (hout c hx).1 hm)))
    case reserved =>
      show State.CellsIn _ (s.pool.modifyChain chain _).reservation .reserved
      rw [hl.2.2]
      exact h.reserved.congr (fun c hm => congrArg Cell.condition (hc c (fun hx => (hout c hx).2.1 hm)))
    case returning =>
      show State.CellsIn _ (((s.pool.modifyChain chain _).returnList ++ [_]).flatMap ReturningChain.chain) .returning
      rw [hl.2.1, List.flatMap_append]
      refine ⟨List.nodup_append.2 ⟨h.returning.1, by simpa using n1, fun a ha b hb hab => ?_⟩, fun c hm => ?_⟩
      · subst hab
        exact (hout a (by simpa using hb)).2.2.1 ha
      · show (s.pool.modifyChain chain _).cells[c].condition = _
        by_cases hx : c ∈ chain
        · rw [hcells, if_pos hx]
        · rw [hc c hx]
          exact h.returning.2 c ((List.mem_append.1 hm).resolve_right (fun hy => hx (by simpa using hy)))
    case released =>
      exact h'.released.congr (fun c hm => congrArg Cell.condition (hc c (fun hx => (hout c hx).2.2.2.1 hm)))
    case stored =>
      intro ref k he
      exact (h.stored ref k he).congr
        (fun c hm => congrArg Cell.condition (hc c (fun hx => (hout c hx).2.2.2.2 ref k he hm)))
    case apart => exact h.apart
    case kept => exact h'.kept
    case testing =>
      intro ht c
      have := h.no_cells ht (by decide) howned
      subst this
      exact (congrArg Cell.condition (hc c (by simp))).trans (h.testing ht c)

/-- The pool takes the removal of an output's references (R54). -/
theorem State.PlaceLaw.takeRemoval {s : State} (h : s.PlaceLaw) (o : OutputId) (chain : List CellNo) :
    (s.takeRemoval o chain).PlaceLaw := by
  have hl : (s.pool.dropReference chain o).freeList = s.pool.freeList ∧
      (s.pool.dropReference chain o).returnList = s.pool.returnList ∧
      (s.pool.dropReference chain o).reservation = s.pool.reservation := s.pool.modifyChain_lists _ _
  have hc : ∀ c : CellNo, (s.pool.dropReference chain o).cells[c].condition = s.pool.cells[c].condition := by
    intro c; rw [Pool.dropReference_cells]
  have h' : ∀ l : List ReturningChain, s.CellsIn (l.flatMap ReturningChain.chain) .returning →
      State.PlaceLaw (s.setPool { s.pool.dropReference chain o with returnList := l }) := fun l hlist =>
    { free := by
        show State.CellsIn _ (s.pool.dropReference chain o).freeList .free
        rw [hl.1]; exact h.free.congr (fun c _ => hc c)
      reserved := by
        show State.CellsIn _ (s.pool.dropReference chain o).reservation .reserved
        rw [hl.2.2]; exact h.reserved.congr (fun c _ => hc c)
      returning := hlist.congr (fun c _ => hc c)
      released := h.released.congr (fun c _ => hc c)
      stored := fun ref k he => (h.stored ref k he).congr (fun c _ => hc c)
      apart := h.apart
      kept := h.kept
      testing := fun ht c => (hc c).trans (h.testing ht c) }
  unfold State.takeRemoval
  simp only
  split
  · refine h.congr rfl (fun _ => rfl) hc hl.1 hl.2.2 hl.2.1 rfl
  · rename_i r hfind
    rw [hl.2.1] at hfind
    have hmem := List.mem_of_find?_eq_some hfind
    have hrc : r.chain = chain := by simpa using List.find?_some hfind
    obtain ⟨p1, p2⟩ := List.nodup_flatMap.1 h.returning.1
    have hret : ∀ c ∈ chain, s.pool.cells[c].condition = .returning := fun c hm =>
      h.returning.2 c (List.mem_flatMap.2 ⟨r, hmem, by rw [hrc]; exact hm⟩)
    have hchain : s.CellsIn chain .returning := ⟨hrc ▸ p1 r hmem, hret⟩
    split
    · have hsub : (s.pool.returnList.filter (fun r => decide (r.chain ≠ chain))).Sublist s.pool.returnList :=
        List.filter_sublist
      have hlist : s.CellsIn ((s.pool.returnList.filter (fun r => decide (r.chain ≠ chain))).flatMap
          ReturningChain.chain) .returning :=
        ⟨List.nodup_flatMap.2 ⟨fun x hx => p1 x (hsub.subset hx), p2.sublist hsub⟩, fun c hm => by
          obtain ⟨x, hx, hcx⟩ := List.mem_flatMap.1 hm
          exact h.returning.2 c (List.mem_flatMap.2 ⟨x, hsub.subset hx, hcx⟩)⟩
      have h2 := h' _ hlist
      rw [hl.2.1]
      refine h2.returnCells hchain.1 (fun ht => h.no_cells ht (by decide) hret) (fun c hm => ⟨?_, ?_, ?_, ?_, ?_⟩)
      · show c ∉ (s.pool.dropReference chain o).freeList
        rw [hl.1]; exact hchain.apart h.free (by decide) hm
      · show c ∉ (s.pool.dropReference chain o).reservation
        rw [hl.2.2]; exact hchain.apart h.reserved (by decide) hm
      · intro hx
        obtain ⟨x, hx1, hx2⟩ := List.mem_flatMap.1 hx
        obtain ⟨hx3, hx4⟩ := List.mem_filter.1 hx1
        have hne : x ≠ r := fun he => by rw [he, hrc] at hx4; simp at hx4
        have : Std.Symm (Function.onFun List.Disjoint ReturningChain.chain) := ⟨fun _ _ h => List.Disjoint.symm h⟩
        have hd := p2.forall hx3 hmem hne
        exact hd hx2 (by rw [hrc]; exact hm)
      · exact hchain.apart h.released (by decide) hm
      · exact fun ref k he => hchain.apart (h.stored ref k he) (by decide) hm
    · have hmap : (s.pool.returnList.map (ReturningChain.drop chain o)).flatMap ReturningChain.chain =
          s.pool.returnList.flatMap ReturningChain.chain := by
        rw [List.flatMap_map]
        congr 1
        funext x
        unfold ReturningChain.drop
        split <;> rfl
      rw [hl.2.1]
      exact h' _ (by rw [hmap]; exact h.returning)

end Sys2Proof.Machine
end

