-- ==== Sys2Proof/Laws/Placement.lean ====
section
/-! SUPPORT. The places of the cells after each step of the table controller: every operation on the table leaves every
cell in the one place its condition names. -/

namespace Sys2Proof.Machine

/-! ## Steps that touch no place -/

/-- The places of the cells are told by these parts of the state. -/
theorem State.PlaceLaw.within {s t : State} {l : List Part} (h : s.PlaceLaw) (hw : State.Within l s t)
    (hl : Part.mask l &&& Part.mask [.memoryTest, .entries, .groups, .cells, .freeList, .returnList, .reservation,
        .releases] = 0) :
    t.PlaceLaw := by
  have hn : ∀ p, p ∈ ([.memoryTest, .entries, .groups, .cells, .freeList, .returnList, .reservation, .releases] :
      List Part) →
      p.same s t := fun p hp => hw p (fun hpl => by
    have h1 := congrArg (fun n => n.testBit p.ctorIdx) hl
    simp only [Nat.testBit_and, Part.testBit_mask, hpl, hp, decide_true, Bool.and_true, Nat.zero_testBit] at h1
    cases h1)
  have hm : t.memoryTest = s.memoryTest := hn .memoryTest (by simp)
  have he : t.entries = s.entries := hn .entries (by simp)
  have hg : t.groups = s.groups := hn .groups (by simp)
  have hc : t.pool.cells = s.pool.cells := hn .cells (by simp)
  refine h.congr hm (State.storedChain_congr he hg) (fun c => by rw [hc]) (hn .freeList (by simp)) (hn .reservation
      (by simp)) (hn .returnList (by simp)) (hn .releases (by simp))

theorem State.PlaceLaw.served {s : State} (h : s.PlaceLaw) (p : Position) : (s.served p).PlaceLaw :=
  h.within (s.served_within p) (by cases p <;> decide)

theorem State.PlaceLaw.finish {s : State} (h : s.PlaceLaw) (task : Task) (held : Bool) (outcome : HostOutcome)
    (results : List Word) : (s.finish task held outcome results).PlaceLaw :=
  h.within (s.finish_within task held outcome results) (by decide)

theorem State.PlaceLaw.stepFailed {s : State} (h : s.PlaceLaw) (task : Task) (outcome : HostOutcome) :
    (s.stepFailed task outcome).PlaceLaw := h.within (s.stepFailed_within task outcome) (by decide)
theorem State.PlaceLaw.stepPassed {s : State} (h : s.PlaceLaw) (task : Task) (held : Bool) :
    (s.stepPassed task held).PlaceLaw := h.within (s.stepPassed_within task held) (by decide)
theorem State.PlaceLaw.endTask {s : State} (h : s.PlaceLaw) (task : Task) (held : Bool) (outcome : HostOutcome) :
    (s.endTask task held outcome).PlaceLaw := h.within (s.endTask_within task held outcome) (by decide)

/-- Entries that give up or keep their patterns in place. -/
theorem State.PlaceLaw.fewer {s t : State} (h : s.PlaceLaw) (hm : t.memoryTest = s.memoryTest)
    (hs : ∀ ref chain, t.storedChain ref = some chain → s.storedChain ref = some chain)
    (hc : ∀ c : CellNo, t.pool.cells[c].condition = s.pool.cells[c].condition)
    (hf : t.pool.freeList = s.pool.freeList) (hr : t.pool.reservation = s.pool.reservation)
    (hl : t.pool.returnList = s.pool.returnList) (hx : t.mail.releases = s.mail.releases) : t.PlaceLaw where
  free := by rw [hf]; exact h.free.congr (fun c _ => hc c)
  reserved := by rw [hr]; exact h.reserved.congr (fun c _ => hc c)
  returning := by rw [hl]; exact h.returning.congr (fun c _ => hc c)
  released := by rw [hx]; exact h.released.congr (fun c _ => hc c)
  stored ref chain he := (h.stored ref chain (hs ref chain he)).congr (fun c _ => hc c)
  apart ref ref' chain chain' c he he' := h.apart ref ref' chain chain' c (hs _ _ he) (hs _ _ he')
  kept ref chain he c hm := by rw [hx]; exact h.kept ref chain (hs _ _ he) c hm
  testing ht c := (hc c).trans (h.testing (hm ▸ ht) c)

theorem State.installedAt_setEntry (s : State) (slot other : SlotNo) (x : Entry) :
    (s.setEntry slot x).installedAt other = if slot = other then
      (match x.occupant with | .installed e => some e | .free | .loading _ => none) else s.installedAt other := by
  unfold State.installedAt State.setEntry
  by_cases h : slot = other
  · subst h
    cases hx : x.occupant <;> simp [hx]
  · have : (s.entries.set slot x)[other] = s.entries[other] :=
      Vector.getElem_set_ne _ _ (fun hv => h (Fin.ext hv))
    simp only [this, if_neg h]

theorem State.PlaceLaw.setLoading {s : State} (h : s.PlaceLaw) (slot : SlotNo) (l : Loading) : (s.setLoading slot
    l).PlaceLaw := by
  refine h.fewer rfl (fun ref chain he => ?_) (fun _ => rfl) rfl rfl rfl rfl
  cases ref with
  | frame x v =>
    simp only [State.storedChain, State.setLoading, State.installedAt_setEntry] at he ⊢
    split at he
    · cases he
    · exact he
  | ofGroup g => exact he

theorem State.PlaceLaw.freeSlot {s : State} (h : s.PlaceLaw) (slot : SlotNo) : (s.freeSlot slot).PlaceLaw := by
  refine h.fewer rfl (fun ref chain he => ?_) (fun _ => rfl) rfl rfl rfl rfl
  cases ref with
  | frame x v =>
    simp only [State.storedChain, State.freeSlot, State.installedAt_setEntry] at he ⊢
    split at he
    · cases he
    · exact he
  | ofGroup g => exact he

theorem State.PlaceLaw.freeLoading {s : State} (h : s.PlaceLaw) : s.freeLoading.PlaceLaw := by
  unfold State.freeLoading
  split
  · exact h.freeSlot _
  · exact h

theorem State.PlaceLaw.cleanUp {s : State} (h : s.PlaceLaw) : s.cleanUp.PlaceLaw := by
  unfold State.cleanUp
  split
  · split
    · exact ((h.served .host).freeLoading.returnReservation).endTask _ _ _
    all_goals exact h
  · exact h

theorem State.PlaceLaw.installParameterBody {s : State} (h : s.PlaceLaw) (task : Task) (held : Bool) :
    (installParameterBody task held s).PlaceLaw := by
  unfold Machine.installParameterBody
  simp only
  split
  · exact h.stepFailed _ _
  split
  · exact h.stepFailed _ _
  split
  · exact h.stepFailed _ _
  split
  · exact h.stepFailed _ _
  split
  · exact h.stepFailed _ _
  · rename_i slot _ _ p hp
    exact ((h.setLoading slot task.loading).reserve (s := s.setLoading slot task.loading) hp).stepPassed task held

theorem State.PlaceLaw.groupParameterBody {s : State} (h : s.PlaceLaw) (task : Task) (held : Bool) :
    (groupParameterBody task held s).PlaceLaw := by
  unfold Machine.groupParameterBody
  simp only
  split
  · exact h.stepFailed _ _
  split
  · exact h.stepFailed _ _
  split
  · exact h.stepFailed _ _
  · rename_i p hp
    exact (h.reserve hp).stepPassed task held

theorem reservationParts_disjoint (n : Nat) {r : List CellNo} (h : r.Nodup) :
    (reservationParts n r).1.Nodup ∧ (reservationParts n r).2.Nodup ∧
    (∀ c ∈ (reservationParts n r).1, c ∈ r) ∧ (∀ c ∈ (reservationParts n r).2, c ∈ r) ∧
    ∀ c ∈ (reservationParts n r).1, c ∉ (reservationParts n r).2 := by
  unfold reservationParts
  have h' := h
  rw [← List.take_append_drop (cellsFor n) r] at h'
  obtain ⟨d1, d2, d3⟩ := List.nodup_append.1 h'
  exact ⟨d1, d2, fun c hc => List.mem_of_mem_take hc, fun c hc => List.mem_of_mem_drop hc, fun c hc hc' => d3 c hc c
      hc' rfl⟩

theorem State.PlaceLaw.joinFrames {s : State} (h : s.PlaceLaw) (slot e) : (s.joinFrames slot e).PlaceLaw :=
  h.within (s.joinFrames_within slot e) (by decide)
theorem State.PlaceLaw.leaveFrames {s : State} (h : s.PlaceLaw) (slot e) : (s.leaveFrames slot e).PlaceLaw :=
  h.within (s.leaveFrames_within slot e) (by decide)
theorem State.PlaceLaw.joinBin {s : State} (h : s.PlaceLaw) (n r) : (s.joinBin n r).PlaceLaw :=
  h.within (s.joinBin_within n r) (by decide)
theorem State.PlaceLaw.sendNotice {s : State} (h : s.PlaceLaw) (n) : (s.sendNotice n).PlaceLaw :=
  h.within (s.sendNotice_within n) (by decide)
theorem State.PlaceLaw.clearToggle {s : State} (h : s.PlaceLaw) (g) : (s.clearToggle g).PlaceLaw :=
  h.within (s.clearToggle_within g) (by decide)

/-- A group's entry count changes no pattern. -/
theorem State.storedChain_changeCount (s : State) (g : GroupNo) (f : Nat → Nat) (ref : PatternRef) :
    (s.changeCount g f).storedChain ref = s.storedChain ref := by
  unfold State.changeCount
  split
  · rename_i x hx
    cases ref with
    | frame slot v => rfl
    | ofGroup k =>
      simp only [State.storedChain, State.setGroup]
      by_cases hk : g = k
      · subst hk; rw [hx]; simp
      · have : (s.groups.set g (some { x with entryCount := f x.entryCount }))[k] = s.groups[k] :=
          Vector.getElem_set_ne _ _ (fun hv => hk (Fin.ext hv))
        rw [this]
  · rfl

theorem State.PlaceLaw.changeCount {s : State} (h : s.PlaceLaw) (g f) : (s.changeCount g f).PlaceLaw := by
  have hs := s.storedChain_changeCount g f
  have hw := s.changeCount_within g f
  have hp : (s.changeCount g f).pool = s.pool := by
    unfold State.changeCount; split <;> rfl
  exact h.congr (hw .memoryTest (by decide)) hs (fun c => by rw [hp]) (by rw [hp]) (by rw [hp]) (by rw [hp]) (hw
      .releases (by decide))

theorem State.storedChain_setEntry (s : State) (slot : SlotNo) (x : Entry) (ref : PatternRef) :
    (s.setEntry slot x).storedChain ref = match ref with
      | .frame other v => if slot = other then
          (match x.occupant with | .installed e => e.chainOf v | .free | .loading _ => none) else s.storedChain
              (.frame other v)
      | .ofGroup g => s.storedChain (.ofGroup g) := by
  cases ref with
  | frame other v =>
    simp only [State.storedChain, State.installedAt_setEntry]
    split
    · cases x.occupant <;> rfl
    · rfl
  | ofGroup g => rfl

theorem State.PlaceLaw.completeInstall {s : State} (h : s.PlaceLaw) (slot : SlotNo) (l : Loading) :
    (s.completeInstall slot l).1.PlaceLaw := by
  unfold State.completeInstall
  simp only
  refine State.PlaceLaw.changeCount (State.PlaceLaw.joinFrames ?_ _ _) _ _
  obtain ⟨o1, o2⟩ := s.pool.ownReservation_spec
  obtain ⟨d1, d2, d3, d4, d5⟩ := reservationParts_disjoint l.runCount h.reserved.1
  let new : Entry := {
    generation := nextGeneration s.entries[slot].generation, occupant := .installed (l.install s.pool.reservation) }
  have hst : ∀ ref chain, ((s.setEntry slot new).setPool s.pool.ownReservation).storedChain ref = some chain →
      (s.storedChain ref = some chain ∧ ∀ v, ref ≠ .frame slot v) ∨
        (ref = .frame slot .main ∧ chain = (reservationParts l.runCount s.pool.reservation).1) ∨
        (ref = .frame slot .alternate ∧ chain = (reservationParts l.runCount s.pool.reservation).2) := by
    intro ref chain he
    have hx := (s.storedChain_setEntry slot new ref).symm.trans he
    clear he
    cases ref with
    | frame x v =>
      dsimp only [new] at hx
      split at hx
      · rename_i hs
        subst hs
        cases v with
        | main => obtain rfl := Option.some.inj hx; exact .inr (.inl ⟨rfl, rfl⟩)
        | alternate =>
          simp only [Loading.install, Installed.chainOf] at hx
          split at hx
          · obtain rfl := Option.some.inj hx; exact .inr (.inr ⟨rfl, rfl⟩)
          · cases hx
      · rename_i hs
        exact .inl ⟨hx, fun w hw => hs (by cases hw; rfl)⟩
    | ofGroup g => exact .inl ⟨hx, fun w hw => by cases hw⟩
  refine h.own rfl ?_ ?_ rfl ?_ ?_ ?_ ?_
  · show s.pool.ownReservation.freeList = _; rw [o1]
  · show s.pool.ownReservation.returnList = _; rw [o1]
  · show s.pool.ownReservation.reservation = _; rw [o1]
  · intro c
    show s.pool.ownReservation.cells[c].condition = _
    rw [o2]; split <;> rfl
  · intro ref chain he
    rcases hst ref chain he with ⟨h1, _⟩ | ⟨_, rfl⟩ | ⟨_, rfl⟩
    · exact .inl h1
    · exact .inr ⟨d1, d3⟩
    · exact .inr ⟨d2, d4⟩
  · intro ref ref' chain chain' c he he' hm hm' hr
    have hno : ∀ ref chain, s.storedChain ref = some chain → c ∈ chain → False := fun ref chain hs hm =>
      h.reserved.apart (h.stored ref chain hs) (by decide) hr hm
    rcases hst ref chain he with ⟨h1, _⟩ | ⟨rfl, rfl⟩ | ⟨rfl, rfl⟩
    · exact (hno _ _ h1 hm).elim
    all_goals
      rcases hst ref' chain' he' with ⟨h1, _⟩ | ⟨rfl, rfl⟩ | ⟨rfl, rfl⟩
      · exact (hno _ _ h1 hm').elim
      all_goals first | rfl | exact (d5 c hm hm').elim | exact (d5 c hm' hm).elim

theorem State.PlaceLaw.installFinalBody {s : State} (h : s.PlaceLaw) (task : Task) (held : Bool) :
    (installFinalBody task held s).PlaceLaw := by
  unfold Machine.installFinalBody
  split
  · exact h
  · rename_i slot l _
    have hm := (conflictCheck_marked (s.installUnderTest l) (s.conflictSet (fun _ => false)) s).placeLaw h
    split <;> rename_i hs <;> rw [hs] at hm
    · exact (hm.freeSlot slot).returnReservation.finish _ _ _ _
    · exact (hm.freeSlot slot).returnReservation.finish _ _ _ _
    · rename_i u
      have h2 := hm.completeInstall slot l
      split
      rename_i hc
      rw [hc] at h2
      exact h2.finish _ _ _ _

/-! ## Groups -/

theorem State.storedChain_setGroup (s : State) (g : GroupNo) (x : Option Group) (ref : PatternRef) :
    (s.setGroup g x).storedChain ref = match ref with
      | .frame slot v => s.storedChain (.frame slot v)
      | .ofGroup k => if g = k then x.bind (fun group => group.repeatPattern.map Pattern.chain)
          else s.storedChain (.ofGroup k) := by
  cases ref with
  | frame slot v => rfl
  | ofGroup k =>
    simp only [State.storedChain, State.setGroup]
    by_cases hk : g = k
    · subst hk; simp
    · have : (s.groups.set g x)[k] = s.groups[k] := Vector.getElem_set_ne _ _ (fun hv => hk (Fin.ext hv))
      rw [this, if_neg hk]

/-- A group whose repeat pattern is the one it had, or none. -/
theorem State.PlaceLaw.setGroup {s : State} (h : s.PlaceLaw) (g : GroupNo) (x : Option Group)
    (hx : ∀ group p, x = some group → group.repeatPattern = some p →
      s.storedChain (.ofGroup g) = some p.chain) : (s.setGroup g x).PlaceLaw := by
  refine h.fewer rfl (fun ref chain he => ?_) (fun _ => rfl) rfl rfl rfl rfl
  rw [State.storedChain_setGroup] at he
  cases ref with
  | frame slot v => exact he
  | ofGroup k =>
    dsimp only at he
    split at he
    · subst k
      cases hg : x with
      | none => rw [hg] at he; cases he
      | some group =>
        rw [hg] at he
        simp only [Option.bind_some, Option.map_eq_some_iff] at he
        obtain ⟨p, hp, rfl⟩ := he
        exact hx group p hg hp
    · exact he

/-- The reserved cells become the repeat pattern of a group. -/
theorem State.PlaceLaw.ownRepeat {s : State} (h : s.PlaceLaw) (g : GroupNo) (group : Group) (n : Nat)
    (hp : group.repeatPattern = some ⟨n, s.pool.reservation⟩) :
    State.PlaceLaw ((s.setGroup g (some group)).setPool s.pool.ownReservation) := by
  obtain ⟨o1, o2⟩ := s.pool.ownReservation_spec
  have hst : ∀ ref chain, State.storedChain ((s.setGroup g (some group)).setPool s.pool.ownReservation) ref = some
      chain →
      s.storedChain ref = some chain ∨ (ref = .ofGroup g ∧ chain = s.pool.reservation) := by
    intro ref chain he
    have hx := (s.storedChain_setGroup g (some group) ref).symm.trans he
    clear he
    cases ref with
    | frame x v => exact .inl hx
    | ofGroup k =>
      dsimp only at hx
      split at hx
      · subst k; rw [Option.bind_some, hp] at hx; obtain rfl := Option.some.inj hx; exact .inr ⟨rfl, rfl⟩
      · exact .inl hx
  refine h.own rfl ?_ ?_ rfl ?_ ?_ ?_ ?_
  · show s.pool.ownReservation.freeList = _; rw [o1]
  · show s.pool.ownReservation.returnList = _; rw [o1]
  · show s.pool.ownReservation.reservation = _; rw [o1]
  · intro c
    show s.pool.ownReservation.cells[c].condition = _
    rw [o2]; split <;> rfl
  · intro ref chain he
    rcases hst ref chain he with h1 | ⟨_, rfl⟩
    · exact .inl h1
    · exact .inr ⟨h.reserved.1, fun _ hm => hm⟩
  · intro ref ref' chain chain' c he he' hm hm' hr
    have hno : ∀ ref chain, s.storedChain ref = some chain → c ∈ chain → False := fun ref chain hs hm =>
      h.reserved.apart (h.stored ref chain hs) (by decide) hr hm
    rcases hst ref chain he with h1 | ⟨rfl, rfl⟩
    · exact (hno _ _ h1 hm).elim
    rcases hst ref' chain' he' with h1 | ⟨rfl, rfl⟩
    · exact (hno _ _ h1 hm').elim
    rfl

theorem State.PlaceLaw.defineGroup {s : State} (h : s.PlaceLaw) (g : GroupNo) (settings : GroupSettings) (n : Nat) :
    (s.defineGroup g settings (some ⟨n, s.pool.reservation⟩)).PlaceLaw ∧ (s.defineGroup g settings none).PlaceLaw := by
  constructor
  · exact ((h.ownRepeat g _ n rfl).joinBin _ _).clearToggle g
  · exact (h.setGroup g _ (fun group p hg hp => by cases hg; cases hp)).clearToggle g

theorem State.PlaceLaw.groupDefineFinalBody {s : State} (h : s.PlaceLaw) (task : Task) (held : Bool) :
    (groupDefineFinalBody task held s).PlaceLaw := by
  unfold Machine.groupDefineFinalBody
  simp only
  split
  · have hm0 := conflictCheck_marked [reservedRepeatContender task (s.newRepeat task)] (s.conflictSet (fun _ =>
        false)) s
    have hm := hm0.placeLaw h
    have hr : (conflictCheck [reservedRepeatContender task (s.newRepeat task)] (s.conflictSet (fun _ => false))
        s).1.pool.reservation = s.pool.reservation := by
      rw [hm0.frame]
    split <;> rename_i hs <;> rw [hs] at hm hr
    · exact hm.returnReservation.finish _ _ _ _
    · exact hm.returnReservation.finish _ _ _ _
    · rename_i u
      have := (hm.defineGroup (argGroup task.arg) task.settings (task.word 6).toNat).1
      rw [hr] at this
      exact this.finish _ _ _ _
  · split
    · exact h.finish _ _ _ _
    · exact ((h.defineGroup _ _ 0).2).finish _ _ _ _

/-- A pattern of a group leaves the group record and is released. -/
theorem State.PlaceLaw.releaseRepeat {s : State} (h : s.PlaceLaw) (g : GroupNo) (x : Option Group) (old : Group)
    (hg : s.groups[g] = some old) (hx : ∀ group p, x = some group → group.repeatPattern = some p → False) :
    ((s.setGroup g x).releaseRepeat g old.repeatPattern).PlaceLaw := by
  unfold State.releaseRepeat
  have h1 : (s.setGroup g x).PlaceLaw := h.setGroup g x (fun group p h1 h2 => (hx group p h1 h2).elim)
  split
  · rename_i p hp
    obtain ⟨b, hb⟩ := (s.setGroup g x).leaveBin_frame p.runCount (.ofGroup g)
    rw [hb]
    have hold : s.storedChain (.ofGroup g) = some p.chain := by simp only [State.storedChain, hg, Option.bind_some,
        hp, Option.map_some]
    refine h.release [p.chain] rfl rfl rfl (by simpa using (h.stored _ _ hold).1) (fun ref chain he => ?_) (fun c hc
        => ⟨_, _, hold, by simpa using hc⟩)
    have he := (s.storedChain_setGroup g x ref).symm.trans he
    have hs : s.storedChain ref = some chain ∧ ref ≠ .ofGroup g := by
      cases ref with
      | frame slot v => exact ⟨he, by simp⟩
      | ofGroup k =>
        dsimp only at he
        split at he
        · cases hxx : x with
          | none => rw [hxx] at he; cases he
          | some group =>
            rw [hxx] at he
            simp only [Option.bind_some, Option.map_eq_some_iff] at he
            obtain ⟨q, hq, _⟩ := he
            exact (hx group q hxx hq).elim
        · rename_i hk
          exact ⟨he, fun hc => hk (by cases hc; rfl)⟩
    exact ⟨hs.1, fun c hm hc => hs.2 (h.apart ref _ chain p.chain c hs.1 hold hm (by simpa using hc))⟩
  · exact h1

theorem State.PlaceLaw.groupRemoveBody {s : State} (h : s.PlaceLaw) (task : Task) (held : Bool) :
    (groupRemoveBody task held s).PlaceLaw := by
  unfold Machine.groupRemoveBody
  simp only
  split
  · exact h.finish _ _ _ _
  · rename_i group hg
    split
    · exact h.finish _ _ _ _
    · have h1 := h.releaseRepeat (argGroup task.arg) none group hg (fun _ _ h _ => by cases h)
      have hc : (s.releaseRepeat (argGroup task.arg) group.repeatPattern).setGroup (argGroup task.arg) none =
          (s.setGroup (argGroup task.arg) none).releaseRepeat (argGroup task.arg) group.repeatPattern := by
        unfold State.releaseRepeat State.leaveBin State.setBin State.binList
        cases group.repeatPattern with
        | none => rfl
        | some p =>
          dsimp only
          cases binOf p.runCount <;> rfl
      rw [hc]
      exact (h1.clearToggle _).finish _ _ _ _

theorem State.PlaceLaw.editGroup {s : State} (h : s.PlaceLaw) (g : GroupNo) (task : Task) (group : Group)
    (hg : s.groups[g] = some group) : (s.editGroup g task group).PlaceLaw := by
  unfold State.editGroup
  simp only
  refine State.PlaceLaw.sendNotice ?_ _
  split
  · refine h.setGroup g _ (fun group' p hx hp => ?_)
    cases hx
    simp only [State.storedChain, hg, Option.bind_some]
    rw [show group.repeatPattern = some p from hp]
    rfl
  · refine State.PlaceLaw.joinBin ?_ _ _
    let bare : Group := { group with settings := task.settings, repeatPattern := none, repeatDamaged := false }
    let full : Group := { bare with repeatPattern := some (s.newRepeat task) }
    have h1 := h.releaseRepeat g (some bare) group hg (fun _ _ hx hp => by cases hx; cases hp)
    have h2 := h1.ownRepeat g full (task.word 6).toNat (by
      unfold State.releaseRepeat
      split
      · obtain ⟨b, hb⟩ := (s.setGroup g (some bare)).leaveBin_frame ‹Pattern›.runCount (.ofGroup g)
        rw [hb]; rfl
      · rfl)
    refine h2.of_eq ?_ ?_ ?_ ?_ ?_
    all_goals
      unfold State.releaseRepeat State.leaveBin State.setBin State.binList
      cases group.repeatPattern with
      | none => first | rfl | simp [State.setGroup, State.setPool, bare, full]
      | some p =>
        dsimp only
        cases binOf p.runCount <;>
          first | rfl | simp [State.setGroup, State.setPool, State.sendRelease, State.setMail, bare, full]
  · exact h.releaseRepeat g _ group hg (fun _ _ hx hp => by cases hx; cases hp)

theorem State.PlaceLaw.groupEditFinalBody {s : State} (h : s.PlaceLaw) (task : Task) (held : Bool) :
    (groupEditFinalBody task held s).PlaceLaw := by
  unfold Machine.groupEditFinalBody
  simp only
  split
  · exact h.finish _ _ _ _
  · have hm := (conflictCheck_marked (s.editUnderTest (argGroup task.arg) task)
      (s.conflictSet (s.belongsTo (argGroup task.arg))) s).placeLaw h
    split <;> rename_i hs <;> rw [hs] at hm
    · exact hm.returnReservation.finish _ _ _ _
    · exact hm.returnReservation.finish _ _ _ _
    · split
      · rename_i hg
        exact (hm.editGroup _ _ _ hg).finish _ _ _ _
      · exact hm.finish _ _ _ _

/-- An entry that keeps its patterns. -/
theorem State.PlaceLaw.setInstalled {s : State} (h : s.PlaceLaw) (slot : SlotNo) (e e' : Installed)
    (he : s.installedAt slot = some e) (h1 : e'.main = e.main) (h2 : e'.alternate = e.alternate) :
    (s.setInstalled slot e').PlaceLaw := by
  refine h.fewer rfl (fun ref chain hx => ?_) (fun _ => rfl) rfl rfl rfl rfl
  have hy := (s.storedChain_setEntry slot { s.entries[slot] with occupant := .installed e' } ref).symm.trans hx
  cases ref with
  | frame x v =>
    dsimp only at hy
    split at hy
    · rename_i hs; subst hs
      simp only [State.storedChain, he, Option.bind_some]
      have hy : e'.chainOf v = some chain := hy
      cases v
      · exact (congrArg some h1).symm.trans hy
      · exact h2.symm.trans hy
    · exact hy
  | ofGroup g => exact hy

theorem State.PlaceLaw.writeEdit {s : State} (h : s.PlaceLaw) (task held slot) : (s.writeEdit task held
    slot).PlaceLaw := by
  unfold State.writeEdit
  split
  · exact h.finish _ _ _ _
  · rename_i e he
    split
    · exact h.finish _ _ _ _
    · exact (h.setInstalled slot e { e with key := editKey task e, tolerance := editTolerance task e } he rfl
          rfl).finish _ _ _ _

theorem State.editCheck_marked (s : State) (slot e tol) : s.Marked (s.editCheck slot e tol).1 := by
  unfold State.editCheck
  split
  · exact .refl s
  · exact conflictCheck_marked _ _ s

theorem State.PlaceLaw.entryEditBody {s : State} (h : s.PlaceLaw) (task : Task) (held : Bool) :
    (entryEditBody task held s).PlaceLaw := by
  unfold Machine.entryEditBody
  split
  · exact h.finish _ _ _ _
  · rename_i hd e _
    split
    · exact h.finish _ _ _ _
    split
    · exact h.finish _ _ _ _
    · have hm := (s.editCheck_marked hd.slot e (editTolerance task e)).placeLaw h
      split <;> rename_i hs <;> rw [hs] at hm
      · exact hm.finish _ _ _ _
      · exact hm.writeEdit _ _ _
      · exact hm.writeEdit _ _ _

theorem State.installedAt_of_currentWord {s : State} {w : Word} {h : Handle} {e : Installed} (hc : s.currentWord w =
    some (h, e)) :
    s.installedAt h.slot = some e := by
  unfold State.currentWord at hc
  split at hc
  · cases hc
  · simp only [Option.map_eq_some_iff, Prod.mk.injEq] at hc
    obtain ⟨x, hx, rfl, rfl⟩ := hc
    unfold State.currentEntry at hx
    split at hx
    · exact hx
    · cases hx

theorem State.PlaceLaw.suspendBody {s : State} (h : s.PlaceLaw) (task : Task) (held : Bool) :
    (suspendBody task held s).PlaceLaw := by
  unfold Machine.suspendBody
  split
  · exact h.finish _ _ _ _
  · rename_i hd e hc
    have hi := s.installedAt_of_currentWord hc
    split
    · exact h.finish _ _ _ _
    · exact h.finish _ _ _ _
    · refine ((State.PlaceLaw.setInstalled (h.leaveFrames hd.slot e) hd.slot e { e with status := .suspended } ?_ rfl
          rfl).sendNotice _).finish _ _ _ _
      obtain ⟨b, hb⟩ := s.leaveFrames_frame hd.slot e
      rw [hb]; exact hi

theorem State.PlaceLaw.resumeBody {s : State} (h : s.PlaceLaw) (task : Task) (held : Bool) :
    (resumeBody task held s).PlaceLaw := by
  unfold Machine.resumeBody
  split
  · exact h.finish _ _ _ _
  · rename_i hd e hc
    have hi := s.installedAt_of_currentWord hc
    split
    · exact h.finish _ _ _ _
    · exact h.finish _ _ _ _
    · exact ((h.setInstalled hd.slot e { e with status := .active } hi rfl rfl).joinFrames hd.slot e).finish _ _ _ _

theorem State.PlaceLaw.retireEntry {s : State} (h : s.PlaceLaw) (hd : Handle) (e : Installed)
    (hi : s.installedAt hd.slot = some e) : (s.retireEntry hd e).PlaceLaw := by
  unfold State.retireEntry
  simp only
  have key : ∀ u : State, u.PlaceLaw → u.installedAt hd.slot = some e →
      (((((u.releaseFrames e).freeSlot hd.slot).changeCount e.group (· - 1)).sendNotice
        (.entryRetired hd)).sendRetire hd).PlaceLaw := by
    intro u hu hui
    have h1 : ((u.releaseFrames e).freeSlot hd.slot).PlaceLaw := by
      have hmain : u.storedChain (.frame hd.slot .main) = some e.main := by
        simp only [State.storedChain, hui, Option.bind_some]
        rfl
      refine hu.release (e.main :: e.alternate.toList) ?_ ?_ ?_ ?_ ?_ ?_
      · unfold State.releaseFrames; simp only; split <;> rfl
      · unfold State.releaseFrames; simp only; split <;> rfl
      · unfold State.releaseFrames; simp only
        split
        · rename_i hal; rw [hal]; simp [State.sendRelease, State.setMail, State.freeSlot, State.setEntry]
        · rename_i hal; rw [hal]; rfl
      · cases hal : e.alternate with
        | none => simpa using (hu.stored _ _ hmain).1
        | some chain =>
          have halt : u.storedChain (.frame hd.slot .alternate) = some chain := by
            simp only [State.storedChain, hui, Option.bind_some]; exact hal
          simp only [Option.toList, List.flatten_cons, List.flatten_nil, List.append_nil]
          refine List.nodup_append.2 ⟨(hu.stored _ _ hmain).1, (hu.stored _ _ halt).1, fun a ha b hb hab => ?_⟩
          subst hab
          have := hu.apart _ _ _ _ a hmain halt ha hb
          cases this
      · intro ref chain he
        have hs : u.storedChain ref = some chain ∧ ∀ v, ref ≠ .frame hd.slot v := by
          have hx : ((u.releaseFrames e).freeSlot hd.slot).storedChain ref = (u.setEntry hd.slot { u.entries[hd.slot]
              with occupant := .free }).storedChain ref := by
            unfold State.releaseFrames; simp only
            split <;> exact State.storedChain_congr rfl rfl ref
          rw [hx, State.storedChain_setEntry] at he
          cases ref with
          | frame x v =>
            dsimp only at he
            split at he
            · cases he
            · rename_i hn; exact ⟨he, fun w hw => hn (by cases hw; rfl)⟩
          | ofGroup g => exact ⟨he, fun w hw => by cases hw⟩
        refine ⟨hs.1, fun c hm hc => ?_⟩
        rw [List.mem_flatten] at hc
        obtain ⟨k, hk, hck⟩ := hc
        rcases List.mem_cons.1 hk with rfl | hk
        · exact hs.2 _ (hu.apart _ _ _ _ c hs.1 hmain hm hck)
        · have halt : u.storedChain (.frame hd.slot .alternate) = some k := by
            simp only [State.storedChain, hui, Option.bind_some]; exact Option.mem_toList.1 hk
          exact hs.2 _ (hu.apart _ _ _ _ c hs.1 halt hm hck)
      · intro c hc
        rw [List.mem_flatten] at hc
        obtain ⟨k, hk, hck⟩ := hc
        rcases List.mem_cons.1 hk with rfl | hk
        · exact ⟨_, _, hmain, hck⟩
        · refine ⟨.frame hd.slot .alternate, k, ?_, hck⟩
          simp only [State.storedChain, hui, Option.bind_some]; exact Option.mem_toList.1 hk
    exact ((h1.changeCount _ _).sendNotice _).within (l := [.retires]) (by intro p hp; cases p <;> first | rfl |
        exact absurd (by decide) hp) (by decide)
  split
  · refine key _ (h.leaveFrames hd.slot e) ?_
    obtain ⟨b, hb⟩ := s.leaveFrames_frame hd.slot e
    rw [hb]; exact hi
  all_goals exact key s h hi

theorem State.PlaceLaw.retireBody {s : State} (h : s.PlaceLaw) (task : Task) (held : Bool) :
    (retireBody task held s).PlaceLaw := by
  unfold Machine.retireBody
  split
  · exact h.finish _ _ _ _
  · rename_i hd e hc
    exact (h.retireEntry hd e (s.installedAt_of_currentWord hc)).finish _ _ _ _

theorem State.PlaceLaw.entryReadBody {s : State} (h : s.PlaceLaw) (task : Task) (held : Bool) :
    (entryReadBody task held s).PlaceLaw := by
  unfold Machine.entryReadBody
  split
  · exact h.finish _ _ _ _
  · rename_i hd e _
    have hm := (s.readFrames_marked hd.slot e).placeLaw h
    split
    rename_i hs; rw [hs] at hm
    exact hm.finish _ _ _ _

theorem State.PlaceLaw.groupReadBody {s : State} (h : s.PlaceLaw) (task : Task) (held : Bool) :
    (groupReadBody task held s).PlaceLaw := by
  unfold Machine.groupReadBody
  simp only
  split
  · exact h.finish _ _ _ _
  · rename_i group _
    exact ((s.readRepeat_marked (argGroup task.arg) group.repeatPattern).placeLaw h).finish _ _ _ _

theorem State.PlaceLaw.reset_like {t : State} (he : ∀ slot : SlotNo, t.entries[slot].occupant = .free)
    (hg : ∀ g : GroupNo, t.groups[g] = none) (hf : t.pool.freeList = []) (hr : t.pool.reservation = [])
    (hl : t.pool.returnList = []) (hx : t.mail.releases = []) (hc : ∀ c : CellNo, t.pool.cells[c].condition =
        .testing) : t.PlaceLaw := by
  have hst : ∀ ref chain, t.storedChain ref = some chain → False := by
    intro ref chain h
    cases ref with
    | frame slot v =>
      simp only [State.storedChain, State.installedAt, he] at h; cases h
    | ofGroup g => simp only [State.storedChain, hg] at h; cases h
  exact {
    free := by rw [hf]; exact ⟨List.nodup_nil, by simp⟩
    reserved := by rw [hr]; exact ⟨List.nodup_nil, by simp⟩
    returning := by rw [hl]; exact ⟨List.nodup_nil, by simp⟩
    released := by rw [hx]; exact ⟨List.nodup_nil, by simp⟩
    stored := fun ref chain h => (hst _ _ h).elim
    apart := fun _ _ _ _ _ h => (hst _ _ h).elim
    kept := fun _ _ h => (hst _ _ h).elim
    testing := fun _ c => hc c }

theorem State.PlaceLaw.initializeTable (s : State) : s.initializeTable.PlaceLaw :=
  State.PlaceLaw.reset_like (fun slot => by simp [State.initializeTable]) (fun g => by simp [State.initializeTable])
      rfl rfl rfl rfl
    (fun c => by simp [State.initializeTable, Pool.startTest])

theorem State.PlaceLaw.hardwareReset (s : State) : s.hardwareReset.PlaceLaw :=
  State.PlaceLaw.reset_like (fun slot => by simp [State.hardwareReset, State.reset]) (fun g => by simp
      [State.hardwareReset, State.reset]) rfl rfl rfl rfl
    (fun c => by simp [State.hardwareReset, State.reset, Pool.resetValue, Cell.resetValue])

theorem State.PlaceLaw.advanceTo {s : State} (h : s.PlaceLaw) (t : Time) : (s.advanceTo t).PlaceLaw :=
  h.within (s.advanceTo_within t) (by decide)

theorem State.PlaceLaw.endMemoryTest {s : State} (h : s.PlaceLaw) (ht : s.memoryTest.isSome = true) (failing : List
    CellNo) :
    (s.endMemoryTest failing).PlaceLaw := by
  obtain ⟨p1, p2, p3, p4⟩ := testedPool_spec failing
  have h0 : State.PlaceLaw { s with memoryTest := none, pool := testedPool failing } := by
    have hemp : ∀ ref chain, s.storedChain ref = some chain → chain = [] := fun ref chain he =>
      h.no_cells ht (by decide) (h.stored ref chain he).2
    exact {
      free := by
        show State.CellsIn _ (testedPool failing).freeList .free
        rw [p2]
        refine ⟨(List.nodup_finRange 768).filter _, fun c hc => ?_⟩
        have hp := (List.mem_filter.1 hc).2
        rw [Bool.not_eq_true'] at hp
        exact (congrArg Cell.condition (p1 c)).trans (by simp only [testedCell, hp]; rfl)
      reserved := by show State.CellsIn _ (testedPool failing).reservation .reserved; rw [p4]; exact ⟨List.nodup_nil,
          by simp⟩
      returning := by show State.CellsIn _ ((testedPool failing).returnList.flatMap _) .returning; rw [p3]; exact
          ⟨List.nodup_nil, by simp⟩
      released := by
        have : s.mail.releases.flatten = [] := h.no_cells ht (by decide) h.released.2
        show State.CellsIn _ s.mail.releases.flatten .owned
        rw [this]; exact ⟨List.nodup_nil, by simp⟩
      stored := fun ref chain he => by rw [hemp ref chain he]; exact ⟨List.nodup_nil, by simp⟩
      apart := h.apart
      kept := h.kept
      testing := fun hx => by cases hx }
  unfold State.endMemoryTest State.afterTest
  simp only
  rw [State.raiseTable_frame]
  generalize hu : ({ s with memoryTest := none, pool := testedPool failing, port := { s.port with
    attention := { s.port.attention with table := s.port.attention.table || !failing.isEmpty } } } : State) = u
  have hu0 : u.PlaceLaw := by rw [← hu]; exact h0.of_eq rfl rfl rfl rfl rfl
  have hp : ∀ (l : List (Fin 4)) (v : State), State.Within inputParts v (l.foldl (fun s i => s.placeInput i) v) := by
    intro l
    induction l with
    | nil => intro v; exact .refl _ v
    | cons i is ih => intro v; exact ((v.placeInput_only i).within.trans (ih _)).mono (by decide)
  have hq : State.PlaceLaw ((List.finRange 4).foldl (fun s i => s.placeInput i) u) := hu0.within (hp _ u) (by decide)
  revert hq
  generalize (List.finRange 4).foldl (fun s i => s.placeInput i) u = v
  intro hq
  refine hq.within (l := [.ready, .engine, .portBits]) ?_ (by decide)
  unfold State.testEnded
  split
  · exact (by intro p hp; cases p <;> first | rfl | exact absurd (by decide) hp)
  · exact (v.endTask_within _ false _).mono (by decide)
  all_goals exact .refl _ v

end Sys2Proof.Machine
end

