-- ==== Sys2Proof/Laws/State.lean ====
section
/-! SUPPORT. One lemma per field of the state per update, true by `rfl`, so that no proof unfolds a record update. -/

namespace Sys2Proof.Machine

/-! ### `State.setInput` -/

@[simp] theorem State.setInput_timebase (s : State) (i : InputId) (x : Input) :
    (s.setInput i x).timebase = s.timebase := rfl
@[simp] theorem State.setInput_memoryTest (s : State) (i : InputId) (x : Input) :
    (s.setInput i x).memoryTest = s.memoryTest := rfl
@[simp] theorem State.setInput_entries (s : State) (i : InputId) (x : Input) :
    (s.setInput i x).entries = s.entries := rfl
@[simp] theorem State.setInput_groups (s : State) (i : InputId) (x : Input) :
    (s.setInput i x).groups = s.groups := rfl
@[simp] theorem State.setInput_bins (s : State) (i : InputId) (x : Input) :
    (s.setInput i x).bins = s.bins := rfl
@[simp] theorem State.setInput_claims (s : State) (i : InputId) (x : Input) :
    (s.setInput i x).claims = s.claims := rfl
@[simp] theorem State.setInput_working (s : State) (i : InputId) (x : Input) :
    (s.setInput i x).working = s.working := rfl
@[simp] theorem State.setInput_pool (s : State) (i : InputId) (x : Input) :
    (s.setInput i x).pool = s.pool := rfl
@[simp] theorem State.setInput_inputs (s : State) (i : InputId) (x : Input) :
    (s.setInput i x).inputs = s.inputs.set i x := rfl
@[simp] theorem State.setInput_tracker (s : State) (i : InputId) (x : Input) :
    (s.setInput i x).tracker = s.tracker := rfl
@[simp] theorem State.setInput_relays (s : State) (i : InputId) (x : Input) :
    (s.setInput i x).relays = s.relays := rfl
@[simp] theorem State.setInput_outputs (s : State) (i : InputId) (x : Input) :
    (s.setInput i x).outputs = s.outputs := rfl
@[simp] theorem State.setInput_port (s : State) (i : InputId) (x : Input) :
    (s.setInput i x).port = s.port := rfl
@[simp] theorem State.setInput_mail (s : State) (i : InputId) (x : Input) :
    (s.setInput i x).mail = s.mail := rfl
@[simp] theorem State.setInput_pending (s : State) (i : InputId) (x : Input) :
    (s.setInput i x).pending = s.pending := rfl

/-! ### `State.setOutput` -/

@[simp] theorem State.setOutput_timebase (s : State) (o : OutputId) (x : Output) :
    (s.setOutput o x).timebase = s.timebase := rfl
@[simp] theorem State.setOutput_memoryTest (s : State) (o : OutputId) (x : Output) :
    (s.setOutput o x).memoryTest = s.memoryTest := rfl
@[simp] theorem State.setOutput_entries (s : State) (o : OutputId) (x : Output) :
    (s.setOutput o x).entries = s.entries := rfl
@[simp] theorem State.setOutput_groups (s : State) (o : OutputId) (x : Output) :
    (s.setOutput o x).groups = s.groups := rfl
@[simp] theorem State.setOutput_bins (s : State) (o : OutputId) (x : Output) :
    (s.setOutput o x).bins = s.bins := rfl
@[simp] theorem State.setOutput_claims (s : State) (o : OutputId) (x : Output) :
    (s.setOutput o x).claims = s.claims := rfl
@[simp] theorem State.setOutput_working (s : State) (o : OutputId) (x : Output) :
    (s.setOutput o x).working = s.working := rfl
@[simp] theorem State.setOutput_pool (s : State) (o : OutputId) (x : Output) :
    (s.setOutput o x).pool = s.pool := rfl
@[simp] theorem State.setOutput_inputs (s : State) (o : OutputId) (x : Output) :
    (s.setOutput o x).inputs = s.inputs := rfl
@[simp] theorem State.setOutput_tracker (s : State) (o : OutputId) (x : Output) :
    (s.setOutput o x).tracker = s.tracker := rfl
@[simp] theorem State.setOutput_relays (s : State) (o : OutputId) (x : Output) :
    (s.setOutput o x).relays = s.relays := rfl
@[simp] theorem State.setOutput_outputs (s : State) (o : OutputId) (x : Output) :
    (s.setOutput o x).outputs = s.outputs.set o x := rfl
@[simp] theorem State.setOutput_port (s : State) (o : OutputId) (x : Output) :
    (s.setOutput o x).port = s.port := rfl
@[simp] theorem State.setOutput_mail (s : State) (o : OutputId) (x : Output) :
    (s.setOutput o x).mail = s.mail := rfl
@[simp] theorem State.setOutput_pending (s : State) (o : OutputId) (x : Output) :
    (s.setOutput o x).pending = s.pending := rfl

/-! ### `State.setEntry` -/

@[simp] theorem State.setEntry_timebase (s : State) (slot : SlotNo) (e : Entry) :
    (s.setEntry slot e).timebase = s.timebase := rfl
@[simp] theorem State.setEntry_memoryTest (s : State) (slot : SlotNo) (e : Entry) :
    (s.setEntry slot e).memoryTest = s.memoryTest := rfl
@[simp] theorem State.setEntry_entries (s : State) (slot : SlotNo) (e : Entry) :
    (s.setEntry slot e).entries = s.entries.set slot e := rfl
@[simp] theorem State.setEntry_groups (s : State) (slot : SlotNo) (e : Entry) :
    (s.setEntry slot e).groups = s.groups := rfl
@[simp] theorem State.setEntry_bins (s : State) (slot : SlotNo) (e : Entry) :
    (s.setEntry slot e).bins = s.bins := rfl
@[simp] theorem State.setEntry_claims (s : State) (slot : SlotNo) (e : Entry) :
    (s.setEntry slot e).claims = s.claims := rfl
@[simp] theorem State.setEntry_working (s : State) (slot : SlotNo) (e : Entry) :
    (s.setEntry slot e).working = s.working := rfl
@[simp] theorem State.setEntry_pool (s : State) (slot : SlotNo) (e : Entry) :
    (s.setEntry slot e).pool = s.pool := rfl
@[simp] theorem State.setEntry_inputs (s : State) (slot : SlotNo) (e : Entry) :
    (s.setEntry slot e).inputs = s.inputs := rfl
@[simp] theorem State.setEntry_tracker (s : State) (slot : SlotNo) (e : Entry) :
    (s.setEntry slot e).tracker = s.tracker := rfl
@[simp] theorem State.setEntry_relays (s : State) (slot : SlotNo) (e : Entry) :
    (s.setEntry slot e).relays = s.relays := rfl
@[simp] theorem State.setEntry_outputs (s : State) (slot : SlotNo) (e : Entry) :
    (s.setEntry slot e).outputs = s.outputs := rfl
@[simp] theorem State.setEntry_port (s : State) (slot : SlotNo) (e : Entry) :
    (s.setEntry slot e).port = s.port := rfl
@[simp] theorem State.setEntry_mail (s : State) (slot : SlotNo) (e : Entry) :
    (s.setEntry slot e).mail = s.mail := rfl
@[simp] theorem State.setEntry_pending (s : State) (slot : SlotNo) (e : Entry) :
    (s.setEntry slot e).pending = s.pending := rfl

/-! ### `State.setGroup` -/

@[simp] theorem State.setGroup_timebase (s : State) (g : GroupNo) (x : Option Group) :
    (s.setGroup g x).timebase = s.timebase := rfl
@[simp] theorem State.setGroup_memoryTest (s : State) (g : GroupNo) (x : Option Group) :
    (s.setGroup g x).memoryTest = s.memoryTest := rfl
@[simp] theorem State.setGroup_entries (s : State) (g : GroupNo) (x : Option Group) :
    (s.setGroup g x).entries = s.entries := rfl
@[simp] theorem State.setGroup_groups (s : State) (g : GroupNo) (x : Option Group) :
    (s.setGroup g x).groups = s.groups.set g x := rfl
@[simp] theorem State.setGroup_bins (s : State) (g : GroupNo) (x : Option Group) :
    (s.setGroup g x).bins = s.bins := rfl
@[simp] theorem State.setGroup_claims (s : State) (g : GroupNo) (x : Option Group) :
    (s.setGroup g x).claims = s.claims := rfl
@[simp] theorem State.setGroup_working (s : State) (g : GroupNo) (x : Option Group) :
    (s.setGroup g x).working = s.working := rfl
@[simp] theorem State.setGroup_pool (s : State) (g : GroupNo) (x : Option Group) :
    (s.setGroup g x).pool = s.pool := rfl
@[simp] theorem State.setGroup_inputs (s : State) (g : GroupNo) (x : Option Group) :
    (s.setGroup g x).inputs = s.inputs := rfl
@[simp] theorem State.setGroup_tracker (s : State) (g : GroupNo) (x : Option Group) :
    (s.setGroup g x).tracker = s.tracker := rfl
@[simp] theorem State.setGroup_relays (s : State) (g : GroupNo) (x : Option Group) :
    (s.setGroup g x).relays = s.relays := rfl
@[simp] theorem State.setGroup_outputs (s : State) (g : GroupNo) (x : Option Group) :
    (s.setGroup g x).outputs = s.outputs := rfl
@[simp] theorem State.setGroup_port (s : State) (g : GroupNo) (x : Option Group) :
    (s.setGroup g x).port = s.port := rfl
@[simp] theorem State.setGroup_mail (s : State) (g : GroupNo) (x : Option Group) :
    (s.setGroup g x).mail = s.mail := rfl
@[simp] theorem State.setGroup_pending (s : State) (g : GroupNo) (x : Option Group) :
    (s.setGroup g x).pending = s.pending := rfl

/-! ### `State.setPress` -/

@[simp] theorem State.setPress_timebase (s : State) (r : PressNo) (x : Option Press) :
    (s.setPress r x).timebase = s.timebase := rfl
@[simp] theorem State.setPress_memoryTest (s : State) (r : PressNo) (x : Option Press) :
    (s.setPress r x).memoryTest = s.memoryTest := rfl
@[simp] theorem State.setPress_entries (s : State) (r : PressNo) (x : Option Press) :
    (s.setPress r x).entries = s.entries := rfl
@[simp] theorem State.setPress_groups (s : State) (r : PressNo) (x : Option Press) :
    (s.setPress r x).groups = s.groups := rfl
@[simp] theorem State.setPress_bins (s : State) (r : PressNo) (x : Option Press) :
    (s.setPress r x).bins = s.bins := rfl
@[simp] theorem State.setPress_claims (s : State) (r : PressNo) (x : Option Press) :
    (s.setPress r x).claims = s.claims := rfl
@[simp] theorem State.setPress_working (s : State) (r : PressNo) (x : Option Press) :
    (s.setPress r x).working = s.working := rfl
@[simp] theorem State.setPress_pool (s : State) (r : PressNo) (x : Option Press) :
    (s.setPress r x).pool = s.pool := rfl
@[simp] theorem State.setPress_inputs (s : State) (r : PressNo) (x : Option Press) :
    (s.setPress r x).inputs = s.inputs := rfl
@[simp] theorem State.setPress_tracker (s : State) (r : PressNo) (x : Option Press) :
    (s.setPress r x).tracker = { s.tracker with presses := s.tracker.presses.set r x } := rfl
@[simp] theorem State.setPress_relays (s : State) (r : PressNo) (x : Option Press) :
    (s.setPress r x).relays = s.relays := rfl
@[simp] theorem State.setPress_outputs (s : State) (r : PressNo) (x : Option Press) :
    (s.setPress r x).outputs = s.outputs := rfl
@[simp] theorem State.setPress_port (s : State) (r : PressNo) (x : Option Press) :
    (s.setPress r x).port = s.port := rfl
@[simp] theorem State.setPress_mail (s : State) (r : PressNo) (x : Option Press) :
    (s.setPress r x).mail = s.mail := rfl
@[simp] theorem State.setPress_pending (s : State) (r : PressNo) (x : Option Press) :
    (s.setPress r x).pending = s.pending := rfl

/-! ### `State.setRelay` -/

@[simp] theorem State.setRelay_timebase (s : State) (r : RelayNo) (x : Option RelayRecord) :
    (s.setRelay r x).timebase = s.timebase := rfl
@[simp] theorem State.setRelay_memoryTest (s : State) (r : RelayNo) (x : Option RelayRecord) :
    (s.setRelay r x).memoryTest = s.memoryTest := rfl
@[simp] theorem State.setRelay_entries (s : State) (r : RelayNo) (x : Option RelayRecord) :
    (s.setRelay r x).entries = s.entries := rfl
@[simp] theorem State.setRelay_groups (s : State) (r : RelayNo) (x : Option RelayRecord) :
    (s.setRelay r x).groups = s.groups := rfl
@[simp] theorem State.setRelay_bins (s : State) (r : RelayNo) (x : Option RelayRecord) :
    (s.setRelay r x).bins = s.bins := rfl
@[simp] theorem State.setRelay_claims (s : State) (r : RelayNo) (x : Option RelayRecord) :
    (s.setRelay r x).claims = s.claims := rfl
@[simp] theorem State.setRelay_working (s : State) (r : RelayNo) (x : Option RelayRecord) :
    (s.setRelay r x).working = s.working := rfl
@[simp] theorem State.setRelay_pool (s : State) (r : RelayNo) (x : Option RelayRecord) :
    (s.setRelay r x).pool = s.pool := rfl
@[simp] theorem State.setRelay_inputs (s : State) (r : RelayNo) (x : Option RelayRecord) :
    (s.setRelay r x).inputs = s.inputs := rfl
@[simp] theorem State.setRelay_tracker (s : State) (r : RelayNo) (x : Option RelayRecord) :
    (s.setRelay r x).tracker = s.tracker := rfl
@[simp] theorem State.setRelay_relays (s : State) (r : RelayNo) (x : Option RelayRecord) :
    (s.setRelay r x).relays = s.relays.set r x := rfl
@[simp] theorem State.setRelay_outputs (s : State) (r : RelayNo) (x : Option RelayRecord) :
    (s.setRelay r x).outputs = s.outputs := rfl
@[simp] theorem State.setRelay_port (s : State) (r : RelayNo) (x : Option RelayRecord) :
    (s.setRelay r x).port = s.port := rfl
@[simp] theorem State.setRelay_mail (s : State) (r : RelayNo) (x : Option RelayRecord) :
    (s.setRelay r x).mail = s.mail := rfl
@[simp] theorem State.setRelay_pending (s : State) (r : RelayNo) (x : Option RelayRecord) :
    (s.setRelay r x).pending = s.pending := rfl

/-! ### `State.setPool` -/

@[simp] theorem State.setPool_timebase (s : State) (p : Pool) :
    (s.setPool p).timebase = s.timebase := rfl
@[simp] theorem State.setPool_memoryTest (s : State) (p : Pool) :
    (s.setPool p).memoryTest = s.memoryTest := rfl
@[simp] theorem State.setPool_entries (s : State) (p : Pool) :
    (s.setPool p).entries = s.entries := rfl
@[simp] theorem State.setPool_groups (s : State) (p : Pool) :
    (s.setPool p).groups = s.groups := rfl
@[simp] theorem State.setPool_bins (s : State) (p : Pool) :
    (s.setPool p).bins = s.bins := rfl
@[simp] theorem State.setPool_claims (s : State) (p : Pool) :
    (s.setPool p).claims = s.claims := rfl
@[simp] theorem State.setPool_working (s : State) (p : Pool) :
    (s.setPool p).working = s.working := rfl
@[simp] theorem State.setPool_pool (s : State) (p : Pool) :
    (s.setPool p).pool = p := rfl
@[simp] theorem State.setPool_inputs (s : State) (p : Pool) :
    (s.setPool p).inputs = s.inputs := rfl
@[simp] theorem State.setPool_tracker (s : State) (p : Pool) :
    (s.setPool p).tracker = s.tracker := rfl
@[simp] theorem State.setPool_relays (s : State) (p : Pool) :
    (s.setPool p).relays = s.relays := rfl
@[simp] theorem State.setPool_outputs (s : State) (p : Pool) :
    (s.setPool p).outputs = s.outputs := rfl
@[simp] theorem State.setPool_port (s : State) (p : Pool) :
    (s.setPool p).port = s.port := rfl
@[simp] theorem State.setPool_mail (s : State) (p : Pool) :
    (s.setPool p).mail = s.mail := rfl
@[simp] theorem State.setPool_pending (s : State) (p : Pool) :
    (s.setPool p).pending = s.pending := rfl

/-! ### `State.setPort` -/

@[simp] theorem State.setPort_timebase (s : State) (p : Port) :
    (s.setPort p).timebase = s.timebase := rfl
@[simp] theorem State.setPort_memoryTest (s : State) (p : Port) :
    (s.setPort p).memoryTest = s.memoryTest := rfl
@[simp] theorem State.setPort_entries (s : State) (p : Port) :
    (s.setPort p).entries = s.entries := rfl
@[simp] theorem State.setPort_groups (s : State) (p : Port) :
    (s.setPort p).groups = s.groups := rfl
@[simp] theorem State.setPort_bins (s : State) (p : Port) :
    (s.setPort p).bins = s.bins := rfl
@[simp] theorem State.setPort_claims (s : State) (p : Port) :
    (s.setPort p).claims = s.claims := rfl
@[simp] theorem State.setPort_working (s : State) (p : Port) :
    (s.setPort p).working = s.working := rfl
@[simp] theorem State.setPort_pool (s : State) (p : Port) :
    (s.setPort p).pool = s.pool := rfl
@[simp] theorem State.setPort_inputs (s : State) (p : Port) :
    (s.setPort p).inputs = s.inputs := rfl
@[simp] theorem State.setPort_tracker (s : State) (p : Port) :
    (s.setPort p).tracker = s.tracker := rfl
@[simp] theorem State.setPort_relays (s : State) (p : Port) :
    (s.setPort p).relays = s.relays := rfl
@[simp] theorem State.setPort_outputs (s : State) (p : Port) :
    (s.setPort p).outputs = s.outputs := rfl
@[simp] theorem State.setPort_port (s : State) (p : Port) :
    (s.setPort p).port = p := rfl
@[simp] theorem State.setPort_mail (s : State) (p : Port) :
    (s.setPort p).mail = s.mail := rfl
@[simp] theorem State.setPort_pending (s : State) (p : Port) :
    (s.setPort p).pending = s.pending := rfl

/-! ### `State.setClaims` -/

@[simp] theorem State.setClaims_timebase (s : State) (c : Claims) :
    (s.setClaims c).timebase = s.timebase := rfl
@[simp] theorem State.setClaims_memoryTest (s : State) (c : Claims) :
    (s.setClaims c).memoryTest = s.memoryTest := rfl
@[simp] theorem State.setClaims_entries (s : State) (c : Claims) :
    (s.setClaims c).entries = s.entries := rfl
@[simp] theorem State.setClaims_groups (s : State) (c : Claims) :
    (s.setClaims c).groups = s.groups := rfl
@[simp] theorem State.setClaims_bins (s : State) (c : Claims) :
    (s.setClaims c).bins = s.bins := rfl
@[simp] theorem State.setClaims_claims (s : State) (c : Claims) :
    (s.setClaims c).claims = c := rfl
@[simp] theorem State.setClaims_working (s : State) (c : Claims) :
    (s.setClaims c).working = s.working := rfl
@[simp] theorem State.setClaims_pool (s : State) (c : Claims) :
    (s.setClaims c).pool = s.pool := rfl
@[simp] theorem State.setClaims_inputs (s : State) (c : Claims) :
    (s.setClaims c).inputs = s.inputs := rfl
@[simp] theorem State.setClaims_tracker (s : State) (c : Claims) :
    (s.setClaims c).tracker = s.tracker := rfl
@[simp] theorem State.setClaims_relays (s : State) (c : Claims) :
    (s.setClaims c).relays = s.relays := rfl
@[simp] theorem State.setClaims_outputs (s : State) (c : Claims) :
    (s.setClaims c).outputs = s.outputs := rfl
@[simp] theorem State.setClaims_port (s : State) (c : Claims) :
    (s.setClaims c).port = s.port := rfl
@[simp] theorem State.setClaims_mail (s : State) (c : Claims) :
    (s.setClaims c).mail = s.mail := rfl
@[simp] theorem State.setClaims_pending (s : State) (c : Claims) :
    (s.setClaims c).pending = s.pending := rfl

/-! ### `State.setMail` -/

@[simp] theorem State.setMail_timebase (s : State) (m : Mail) :
    (s.setMail m).timebase = s.timebase := rfl
@[simp] theorem State.setMail_memoryTest (s : State) (m : Mail) :
    (s.setMail m).memoryTest = s.memoryTest := rfl
@[simp] theorem State.setMail_entries (s : State) (m : Mail) :
    (s.setMail m).entries = s.entries := rfl
@[simp] theorem State.setMail_groups (s : State) (m : Mail) :
    (s.setMail m).groups = s.groups := rfl
@[simp] theorem State.setMail_bins (s : State) (m : Mail) :
    (s.setMail m).bins = s.bins := rfl
@[simp] theorem State.setMail_claims (s : State) (m : Mail) :
    (s.setMail m).claims = s.claims := rfl
@[simp] theorem State.setMail_working (s : State) (m : Mail) :
    (s.setMail m).working = s.working := rfl
@[simp] theorem State.setMail_pool (s : State) (m : Mail) :
    (s.setMail m).pool = s.pool := rfl
@[simp] theorem State.setMail_inputs (s : State) (m : Mail) :
    (s.setMail m).inputs = s.inputs := rfl
@[simp] theorem State.setMail_tracker (s : State) (m : Mail) :
    (s.setMail m).tracker = s.tracker := rfl
@[simp] theorem State.setMail_relays (s : State) (m : Mail) :
    (s.setMail m).relays = s.relays := rfl
@[simp] theorem State.setMail_outputs (s : State) (m : Mail) :
    (s.setMail m).outputs = s.outputs := rfl
@[simp] theorem State.setMail_port (s : State) (m : Mail) :
    (s.setMail m).port = s.port := rfl
@[simp] theorem State.setMail_mail (s : State) (m : Mail) :
    (s.setMail m).mail = m := rfl
@[simp] theorem State.setMail_pending (s : State) (m : Mail) :
    (s.setMail m).pending = s.pending := rfl

/-! ### `State.withPending` -/

@[simp] theorem State.withPending_timebase (s : State) (q : List Instr) :
    (s.withPending q).timebase = s.timebase := rfl
@[simp] theorem State.withPending_memoryTest (s : State) (q : List Instr) :
    (s.withPending q).memoryTest = s.memoryTest := rfl
@[simp] theorem State.withPending_entries (s : State) (q : List Instr) :
    (s.withPending q).entries = s.entries := rfl
@[simp] theorem State.withPending_groups (s : State) (q : List Instr) :
    (s.withPending q).groups = s.groups := rfl
@[simp] theorem State.withPending_bins (s : State) (q : List Instr) :
    (s.withPending q).bins = s.bins := rfl
@[simp] theorem State.withPending_claims (s : State) (q : List Instr) :
    (s.withPending q).claims = s.claims := rfl
@[simp] theorem State.withPending_working (s : State) (q : List Instr) :
    (s.withPending q).working = s.working := rfl
@[simp] theorem State.withPending_pool (s : State) (q : List Instr) :
    (s.withPending q).pool = s.pool := rfl
@[simp] theorem State.withPending_inputs (s : State) (q : List Instr) :
    (s.withPending q).inputs = s.inputs := rfl
@[simp] theorem State.withPending_tracker (s : State) (q : List Instr) :
    (s.withPending q).tracker = s.tracker := rfl
@[simp] theorem State.withPending_relays (s : State) (q : List Instr) :
    (s.withPending q).relays = s.relays := rfl
@[simp] theorem State.withPending_outputs (s : State) (q : List Instr) :
    (s.withPending q).outputs = s.outputs := rfl
@[simp] theorem State.withPending_port (s : State) (q : List Instr) :
    (s.withPending q).port = s.port := rfl
@[simp] theorem State.withPending_mail (s : State) (q : List Instr) :
    (s.withPending q).mail = s.mail := rfl
@[simp] theorem State.withPending_pending (s : State) (q : List Instr) :
    (s.withPending q).pending = q := rfl

end Sys2Proof.Machine
end

