-- ==== Sys2Proof/Tests/Slice0.lean ====
section
/-! SUPPORT. Tests against the manual's own figures, the refusals of ill-formed commands, and for each statement with
hypotheses a state and operands that meet them (`test_witness_…`), clause by clause. -/

namespace Sys2Proof.Tests

set_option Elab.async false

open Sys2Proof Sys2Proof.Machine

/-! ## Helpers -/

/-- What a test asks of the next state. -/
def after (x : Host.Outcome State Fault Refusal) (p : State → Bool) : Bool :=
  match x with
  | .next s => p s
  | .fault _ | .refused _ => false

/-- An outcome that passes a test is a next state. -/
theorem next_of_after {x : Host.Outcome State Fault Refusal} {p : State → Bool} (h : after x p = true) :
    ∃ t, x = .next t ∧ p t = true := by
  cases x with
  | next s => exact ⟨s, rfl, h⟩
  | fault r => cases h
  | refused r => cases h

/-- The part at rest: the memory test is over and all cells are FREE. -/
def ready : State := { State.reset with
  memoryTest := none
  port := { Port.resetValue with ready := true, engine := .idle }
  pool := { Pool.resetValue with
    cells := Vector.replicate 768 { Cell.resetValue with condition := .free }
    freeList := [10, 11, 12, 13, 14] } }

/-- A host port whose engine is `e`. -/
def engineAt (s : State) (e : Engine) : State := { s with port := { s.port with engine := e } }

/-- A command in EXECUTE. -/
def executing (c : HostCommand) (arg : BitVec 8) (words : List Word) (s : State := ready) : State :=
  engineAt s (.execute ⟨c, arg, words⟩ false)

/-- A command in EXECUTE whose table step waits. -/
def stepping (h : HostStep) (c : HostCommand) (arg : BitVec 8) (words : List Word) (s : State := ready) : State :=
  { executing c arg words s with claims := { s.claims with host := some h } }

/-- A cell that holds these runs. -/
def cellOf (cond : CellCondition) (runs : List Nat) (refs : OutputMask := 0) : Cell :=
  { condition := cond, runs := Vector.ofFn (fun k => StoredRun.of (BitVec.ofNat 16 (runs.getD k.val 0)))
    fault := false, refs := refs }

/-- The same part with other cells. -/
def withCells (s : State) (l : List (CellNo × Cell)) : State :=
  { s with pool := { s.pool with cells := l.foldl (fun v p => v.set p.1 p.2) s.pool.cells } }

/-- The settings of the tests' group. -/
def settings : GroupSettings where
  inputMask := 0b0011
  duty := .third
  repeatTolerance := 2
  receiveNominal := 76
  receiveWindow := 4
  transmitCarrier := 76
  releaseGap := 120
  repeatPeriod := 108
  pressLimit := 30

/-- The tests' group: one entry, and a repeat pattern in cell 7. -/
def remote : Group := { settings := settings, repeatPattern := some ⟨3, [7]⟩, repeatDamaged := false, entryCount := 1 }

/-- The tests' entry: a main pattern in cell 5 and an alternate in cell 6. -/
def button : Installed where
  status := .active
  group := 2
  key := 0x55
  tolerance := 3
  runCount := 3
  main := [5]
  alternate := some [6]
  mainDamaged := false
  alternateDamaged := false

/-- The handle of the entry: slot 17, generation 3. -/
def buttonHandle : Handle := ⟨17, 3⟩

/-- The part with one group and one entry installed. -/
def stocked : State :=
  withCells { ready with
      entries := ready.entries.set 17 { generation := 3, occupant := .installed button }
      groups := ready.groups.set 2 (some remote)
      bins := ready.bins.set 0 [.ofGroup 2, .frame 17 .main, .frame 17 .alternate] }
    [(5, cellOf .owned [500, 600, 700]), (6, cellOf .owned [1000, 600, 700]), (7, cellOf .owned [9000, 2250, 560])]

/-- The entry in another state. -/
def stockedAs (status : EntryStatus) : State :=
  { stocked with entries := stocked.entries.set 17 { generation := 3, occupant := .installed { button with status := status } } }

/-- An item of the queue of TX0. -/
def item (origin : ItemOrigin) (form : ItemForm) (active : Option ActiveItem) : Item where
  origin := origin
  form := form
  handle := buttonHandle
  follow := false
  holdEnded := false
  endPending := none
  active := active

/-- An ACTIVE item's part. -/
def activeAs (sent : Nat) : Option ActiveItem := some { variant := .main, startTime := 0, framesSent := sent }

/-- TX0 with this state and queue. -/
def sending (state : OutputState) (queue : List Item) (s : State := stocked) : State :=
  { s with outputs := s.outputs.set 0 { Output.resetValue with
    config := { kind := .modulated, polarity := .activeLow, minItemSpace := 15, holdLimit := 12 }
    state := state, queue := queue } }

/-- The frame of the entry's main pattern while it drives this run. -/
def frameAt (run : Nat) (runStart runEnd : Time) : Frame where
  sent := .frame .main
  runCount := 3
  chain := [5]
  carrier := 76
  duty := .third
  repeatPeriod := 108
  startTime := 0
  run := run
  runStart := runStart
  runEnd := runEnd

/-- A press of the entry heard on IN0. -/
def pressAs (life : PressLife) : Press where
  sequence := 9
  input := 0
  group := 2
  handle := buttonHandle
  key := 0x55
  variant := .main
  frames := 65535
  startTime := 1000
  lastCredit := 5999
  releaseGap := 120
  startPending := true
  endPending := false
  life := life

/-- HELD until 125,999 us, with this follow link set. -/
def heldPress (links : OutputMask := 0) : Press := pressAs (.held 125999 (some 30001000) links)

/-- ENDED, and pending its end. -/
def endedPress : Press := { pressAs (.ended .released 4) with endPending := true }

/-- The part with a press in record 4. -/
def pressed (p : Press) (s : State := stocked) : State :=
  { s with tracker := { presses := s.tracker.presses.set 4 (some p), reportList := [4], sequence := 9 } }

/-- IN0 as this input. -/
def hearing (kind : InputKind) (high : Bool) (assembler : Assembler) (raw : Raw := Input.resetValue Line.resetValue |>.raw)
    (lastRise lastFall : Option Time := none) (s : State := ready) : State :=
  { s with inputs := s.inputs.set 0 { Input.resetValue Line.resetValue with
    config := { kind := kind, polarity := .activeLow, endGap := 10, glitchFloor := 24, blankMask := 1 }
    line := { high := high, lastRise := lastRise, lastFall := lastFall }
    raw := raw
    assembler := assembler } }

/-! ## The manual's figures -/

/-- R7's example: in class 0 a 600 us run has the window 560 to 640, and a 1,000 us run 940 to 1,060. -/
theorem test_windows : windowLow 0 600 = 560 ∧ windowHigh 0 600 = 640 ∧ windowLow 0 1000 = 940 ∧
    windowHigh 0 1000 = 1060 := by decide

/-- R180: handle 17/3 is the word 0x0311; a word with bit 7 or one of bits 15 to 12 set names no handle. -/
theorem test_handle_words : buttonHandle.toWord = 0x0311 ∧ Handle.ofWord 0x0311 = some buttonHandle ∧
    Handle.ofWord 0x0391 = none ∧ Handle.ofWord 0x1311 = none ∧ Handle.ofWord 0xFFFF = none := by decide

/-- Chapter 4's example of R67: 22 edges over 552 us give an estimate of 76. -/
theorem test_carrier_estimate : carrierEstimate 22 552 = some 76 ∧ carrierEstimate 4 79 = some 76 ∧
    carrierEstimate 3 53 = none := by decide

/-- R144: 38 kHz is a period of 421 cycles of the clock, a third of which is 140. -/
theorem test_carrier_period : carrierPeriod 76 = 421 ∧ onPhase 76 .third = 140 ∧ onPhase 112 .half = 143 := by decide

/-- The last step of chapter 10's install: COMPLETION reads 0x2008, CONFLICT of ENTRY INSTALL. -/
theorem test_completion_word : (HostCompletion.word { code := 0x20, cut := false, outcome := .conflict }) = 0x2008 := by
  decide

/-- R159 and R176, bit by bit: the frames 0x00 0x200F, 0x01 0x1234, 0x80, 0x81, 0x02 with and without bit 15, 0x07, a
code of no command, and an address byte with bit 3 set. -/
theorem test_frame_words :
    decodeFrame 0x00 0x200F = some (.entryInstall 0x0F) ∧ decodeFrame 0x00 0x6500 = some (.outputFlush (.commandWrite 0)) ∧
    decodeFrame 0x01 0x1234 = some (.transferWrite 0x1234) ∧ decodeFrame 0x80 0 = some .flagsRead ∧
    decodeFrame 0x81 0 = some .transferRead ∧ decodeFrame 0x02 0x8001 = some (.abort 0x8001) ∧
    decodeFrame 0x02 0x000F = some (.interruptEnableWrite 0x000F) ∧
    decodeFrame 0x07 5 = some (.ignoredLocationWrite 7 5) ∧ decodeFrame 0x00 0x0012 = some (.badCommand 0x00 0x12) ∧
    decodeFrame 0x08 0x0100 = none ∧ decodeFrame 0x82 0 = none := by decide

/-- The reset values of R63, R133, R162 and R178, where the port is not yet ready. -/
theorem test_reset_words : State.reset.flagsWord = 0 ∧ State.reset.controlWord = 0 ∧
    State.reset.port.attention.word = 0 ∧ inputStatusWord State.reset.inputs[0] = 0 := by decide +kernel

/-! ## Ill-formed commands -/

theorem test_refuses_abort : WellFormed (.abort 0x7FFF) = false ∧ WellFormed (.abort 0x8000) = true := by decide

theorem test_refuses_interruptEnableWrite :
    WellFormed (.interruptEnableWrite 0x8000) = false ∧ WellFormed (.interruptEnableWrite 0x7FFF) = true := by decide

theorem test_refuses_ignoredLocationWrite :
    WellFormed (.ignoredLocationWrite 2 0) = false ∧ WellFormed (.ignoredLocationWrite 3 0) = true := by decide

theorem test_refuses_badCommand :
    WellFormed (.badCommand 0x65 0) = false ∧ WellFormed (.badCommand 0x66 0) = true := by decide

theorem test_refuses_memoryTestEnd : WellFormed (.memoryTestEnd [3, 3] 0) = false ∧
    WellFormed (.memoryTestEnd [4, 3] 0) = false ∧ WellFormed (.memoryTestEnd [3, 4, 767] 0) = true := by decide

/-! ## Witnesses: the machine as a whole -/

theorem test_witness_StepRunsTheFrontCommand :
    ({ ready with pending := [.flagsRead, .matchResult] } : State).pending = .flagsRead :: [.matchResult] ∧
    after (step { ready with pending := [.flagsRead, .matchResult] }) (fun t => t.pending = [.matchResult]) = true := by
  decide +kernel

/-- An idle step; the last microsecond of run 2; the first one of run 3; and the last run, which goes on. -/
theorem test_witness_TimeAdvancesOnly :
    ready.pending = [] ∧ after (step ready) (fun t => t.timebase = 1) = true ∧
    (let s := sending (.frame (frameAt 1 0 500)) []
     stocked.pool.readRun [5] 2 = .value 600 ∧
     (s.advanceTo 499).outputs[(0 : OutputId)].state = .frame (frameAt 1 0 500) ∧
     (s.advanceTo 1099).outputs[(0 : OutputId)].state = .frame (frameAt 2 500 1100) ∧
     (s.advanceTo 1100).outputs[(0 : OutputId)].state = .frame (frameAt 3 1100 1800)) ∧
    (let s := sending (.frame (frameAt 3 1100 1800)) []
     (s.advanceTo 9999).outputs[(0 : OutputId)].state = .frame (frameAt 3 1100 1800)) ∧
    after (exec (.stuck 0 7) ready) (fun t => t.timebase = 7) = true := by
  decide +kernel

/-- The test ends exactly 40 ms after its start, after a hardware reset and inside INITIALIZE. -/
theorem test_witness_MemoryTestEndFreesThePassingCells :
    (State.reset.memoryTest = some 0 ∧ 0 + 40000 ≤ max State.reset.timebase 40000 ∧
      State.reset.port.engine = .testing ∧
      after (exec (.memoryTestEnd [3, 5] 40000) State.reset)
        (fun t => t.port.ready && t.port.attention.table && decide (t.memoryTest = none)) = true ∧
      after (exec (.memoryTestEnd [] 39999) State.reset) (fun t => decide (t.memoryTest = some 0)) = true) ∧
    (let s := { executing .initializePart 0 [] with memoryTest := some 0 }
     s.memoryTest = some 0 ∧ s.port.engine = .execute ⟨.initializePart, 0, []⟩ false ∧
     after (exec (.memoryTestEnd [] 40000) s)
       (fun t => t.port.done && decide (t.port.completion = { code := 1, cut := false, outcome := .ok })) = true) := by
  decide +kernel

/-! ## Witnesses: the laws every step keeps -/

/-- Two of each kind of record, with a step that adds to or changes them. -/
def lawful : State :=
  { pressed heldPress (sending (.frame (frameAt 3 1100 1800))
      [item (.host 1) .hold (activeAs 0), item (.relay ⟨4, 9⟩) (.send 2) none]) with
    entries := (stocked.entries.set 17 { generation := 3, occupant := .installed button }).set 18
      { generation := 1, occupant := .installed { button with key := 0x56 } }
    relays := (stocked.relays.set 0 (some ⟨false, buttonHandle, 1, 1, ⟨18, 1⟩, .follow, .none⟩)).set 1
      (some ⟨false, ⟨18, 1⟩, 1, 2, buttonHandle, .once 1, .none⟩) }

/-- The frame of the first of two items ends. -/
theorem test_witness_StepKeepsQueueLaw : ∃ s t : State, s.QueueLaw ∧ step s = .next t ∧
    s.outputs[(0 : OutputId)].queue.length = 2 ∧ t.outputs[(0 : OutputId)].queue.length = 2 := by
  obtain ⟨t, h, h'⟩ := next_of_after (x := step { lawful with pending := [.frameEnd 0 1800] })
    (p := fun t => t.outputs[(0 : OutputId)].queue.length = 2) (by decide +kernel)
  refine ⟨_, t, fun o => ?_, h, by decide +kernel, of_decide_eq_true h'⟩
  match o with
  | 0 =>
    refine ⟨by decide +kernel, by decide +kernel, by decide +kernel, ?_⟩
    show Option.isSome _ = true
    decide +kernel
  | 1 => exact ⟨by decide +kernel, by decide +kernel, by decide +kernel, rfl⟩

/-- The record on the report list is ended by its release deadline and stays on the list. -/
theorem test_witness_StepKeepsReportLaw : ∃ s t : State, s.ReportLaw ∧ step s = .next t ∧ t.tracker.reportList = [4] := by
  obtain ⟨t, h, h'⟩ := next_of_after (x := step { lawful with pending := [.releaseExpiry 4 125999] })
    (p := fun t => t.tracker.reportList = [4]) (by decide +kernel)
  refine ⟨_, t, ⟨by decide +kernel, fun r => ?_, fun r p hp hl => ?_⟩, h, of_decide_eq_true h'⟩
  · have hr : (r ∈ lawful.tracker.reportList ↔ r = 4) ∧ (r ≠ 4 → lawful.tracker.presses[r] = none) := by
      revert r; decide +kernel
    constructor
    · intro h
      obtain rfl := hr.1.1 h
      exact ⟨heldPress, by decide +kernel, by decide⟩
    · rintro ⟨p, hp, _⟩
      refine hr.1.2 (Classical.byContradiction fun hne => ?_)
      have := hr.2 hne
      simp_all
  · have key : ∀ r : PressNo, r ≠ 4 → lawful.tracker.presses[r] = none := by decide +kernel
    have hr := key r
    by_cases he : r = 4
    · subst he
      have h4 : lawful.tracker.presses[(4 : PressNo)] = some heldPress := by decide +kernel
      cases hp.symm.trans h4
      cases hl
    · cases hp.symm.trans (hr he)

/-- A match result of another group makes a second HELD record. -/
theorem test_witness_StepKeepsHeldLaw : ∃ s t : State, s.HeldLaw ∧ step s = .next t ∧
    t.tracker.reportList = [4, 0] := by
  obtain ⟨t, h, h'⟩ := next_of_after
    (x := step { lawful with
      pending := [.matchResult]
      mail := { lawful.mail with path := [.result ⟨0, 0, 5, .entry ⟨3, ⟨18, 1⟩, .main, 1, 120, 0⟩⟩] } })
    (p := fun t => t.tracker.reportList = [4, 0]) (by decide +kernel)
  refine ⟨_, t, fun a b p q ha hb _ _ _ _ => ?_, h, of_decide_eq_true h'⟩
  have key : ∀ r : PressNo, r ≠ 4 → lawful.tracker.presses[r] = none := by decide +kernel
  have only : ∀ (r : PressNo) (p : Press), lawful.tracker.presses[r] = some p → r = 4 := fun r p hp =>
    Classical.byContradiction fun hne => by cases hp.symm.trans (key r hne)
  rw [only a p ha, only b q hb]

/-- One of two records is emptied by the retire notice of its source. -/
theorem test_witness_StepKeepsRelayLaw : ∃ s t : State, s.RelayLaw ∧ step s = .next t ∧ t.relays[(1 : RelayNo)] = none := by
  obtain ⟨t, h, h'⟩ := next_of_after
    (x := step { lawful with
      pending := [.relayRetireNotice], mail := { lawful.mail with retires := [⟨18, 1⟩] } })
    (p := fun t => t.relays[(1 : RelayNo)] = none) (by decide +kernel)
  refine ⟨_, t, fun a b p q ha hb hs => ?_, h, of_decide_eq_true h'⟩
  have key : ∀ a b : RelayNo, a = b ∨ lawful.relays[a].isNone = true ∨ lawful.relays[b].isNone = true ∨
      lawful.relays[a].map RelayRecord.source ≠ lawful.relays[b].map RelayRecord.source := by decide +kernel
  have ha' : lawful.relays[a] = some p := ha
  have hb' : lawful.relays[b] = some q := hb
  have := key a b
  simpa [ha', hb', hs] using this

/-- With a RELAY SET past its handle check: the source of record 1 has been retired and its notice is taken, while that of
record 0 stays current. -/
theorem test_witness_StepKeepsRelayLaw_sources : ∃ s t : State, step s = .next t ∧ s.HostClaimLaw ∧ s.SourceLaw ∧
    s.RelaySetLaw ∧ s.currentEntry ⟨18, 1⟩ = none ∧ t.relays[(1 : RelayNo)] = none ∧ t.mail.retires = [] := by
  let s : State := { executing .relaySet 0 [0x0311, 0x0311, 0x0111] lawful with
    entries := stocked.entries, pending := [.relayRetireNotice], mail := { lawful.mail with retires := [⟨18, 1⟩] } }
  obtain ⟨t, h, h'⟩ := next_of_after (x := step s) (p := fun t => t.relays[(1 : RelayNo)] = none ∧ t.mail.retires = [])
    (by decide +kernel)
  refine ⟨s, t, h, fun _ hk => (by cases hk), fun n r hr => ?_, fun task held ht _ _ => ?_, by decide +kernel,
    of_decide_eq_true h'⟩
  · have key : ∀ n : RelayNo, s.relays[n].all (fun r => (s.currentEntry r.source).isSome || s.mail.retires.contains r.source)
        = true := by decide +kernel
    simpa [hr] using key n
  · cases ht
    decide +kernel

/-- Two entries of one group hold different keys; one of them is retired. -/
theorem test_witness_StepKeepsKeyLaw : ∃ s t : State, s.KeyLaw ∧ step s = .next t ∧
    t.entries[(18 : SlotNo)].occupant = .free := by
  obtain ⟨t, h, h'⟩ := next_of_after
    (x := step { stepping .retire .entryRetire 0 [0x0112] lawful with pending := [.retire] })
    (p := fun t => t.entries[(18 : SlotNo)].occupant = .free) (by decide +kernel)
  refine ⟨_, t, fun a b g key ha hb => ?_, h, of_decide_eq_true h'⟩
  have free : ∀ r : SlotNo, r = 17 ∨ r = 18 ∨ lawful.entries[r].occupant = .free := by decide +kernel
  have e17 : lawful.entries[(17 : SlotNo)].occupant = .installed button := by decide +kernel
  have e18 : lawful.entries[(18 : SlotNo)].occupant = .installed { button with key := 0x56 } := by decide +kernel
  have ha' : lawful.entries[a].occupant.holdsKey g key = true := ha
  have hb' : lawful.entries[b].occupant.holdsKey g key = true := hb
  rcases free a with rfl | rfl | hf <;> rcases free b with rfl | rfl | hf' <;>
    simp_all only [Occupant.holdsKey, button, decide_eq_true_eq, Bool.false_eq_true]
  · exact absurd (ha'.2.trans hb'.2.symm) (by decide)
  · exact absurd (ha'.2.trans hb'.2.symm) (by decide)

/-- The stocked part with a SUSPEND at its table step. -/
def orderly : State := { stepping .suspend .entrySuspend 0 [0x0311] stocked with pending := [.suspend] }

/-- The one entry and the one group of the part. -/
theorem orderly_tables : (∀ slot : SlotNo, orderly.installedAt slot = if slot = 17 then some button else none) ∧
    (∀ g : GroupNo, orderly.groups[g] = if g = 2 then some remote else none) := by decide +kernel

/-- Its three patterns. -/
theorem orderly_chains (ref : PatternRef) (chain : List CellNo) (h : orderly.storedChain ref = some chain) :
    ref = .frame 17 .main ∧ chain = [5] ∨ ref = .frame 17 .alternate ∧ chain = [6] ∨ ref = .ofGroup 2 ∧ chain = [7] := by
  cases ref with
  | frame slot v =>
    simp only [State.storedChain, orderly_tables.1] at h
    split at h
    · subst slot
      cases v with
      | main => cases h; exact .inl ⟨rfl, rfl⟩
      | alternate => cases h; exact .inr (.inl ⟨rfl, rfl⟩)
    · cases h
  | ofGroup g =>
    simp only [State.storedChain, orderly_tables.2] at h
    split at h
    · subst g; cases h; exact .inr (.inr ⟨rfl, rfl⟩)
    · cases h

theorem orderly_hostClaimLaw : orderly.HostClaimLaw := fun _ hk => .inl ⟨⟨.entrySuspend, 0, [0x0311]⟩, false, rfl, hk⟩

theorem orderly_testLaw : orderly.TestLaw := fun h => by cases h

theorem orderly_workLaw : orderly.WorkLaw := by
  refine ⟨fun task ht hc => ?_, fun task held ht _ => (by cases ht), fun slot l hl => ?_⟩
  · rcases ht with ⟨⟨_, ht⟩, _⟩ | ⟨_, ht⟩ <;> cases ht
    cases hc
  · have : ∀ slot : SlotNo, slot = 17 ∨ orderly.entries[slot].occupant = .free := by decide +kernel
    have h17 : orderly.entries[(17 : SlotNo)].occupant = .installed button := by decide +kernel
    rcases this slot with rfl | h
    · cases h17.symm.trans hl
    · cases h.symm.trans hl

theorem orderly_placeLaw : orderly.PlaceLaw where
  free := by unfold State.CellsIn; decide +kernel
  reserved := by unfold State.CellsIn; decide +kernel
  returning := by unfold State.CellsIn; decide +kernel
  released := by unfold State.CellsIn; decide +kernel
  stored ref chain h := by
    unfold State.CellsIn
    rcases orderly_chains ref chain h with ⟨rfl, rfl⟩ | ⟨rfl, rfl⟩ | ⟨rfl, rfl⟩ <;> decide +kernel
  apart ref ref' chain chain' c h h' := by
    rcases orderly_chains ref chain h with ⟨rfl, rfl⟩ | ⟨rfl, rfl⟩ | ⟨rfl, rfl⟩ <;>
      rcases orderly_chains ref' chain' h' with ⟨rfl, rfl⟩ | ⟨rfl, rfl⟩ | ⟨rfl, rfl⟩ <;>
      intro hc hc' <;> first | rfl | (simp only [List.mem_singleton] at hc hc'; subst hc; cases hc')
  kept _ _ _ _ _ h := by cases h
  testing h := by cases h

/-- Laws 8, 9 and 12 of the part. -/
theorem orderly_binLaw : orderly.BinLaw := by
  have other : ∀ n, n ≠ 3 → orderly.binList n = [] := fun n hn => by
    unfold State.binList
    cases hb : binOf n with
    | none => rfl
    | some b =>
      have : ∀ c : Fin 63, c = 0 ∨ orderly.bins[c] = [] := by decide +kernel
      rcases this b with rfl | h
      · unfold binOf at hb; split at hb <;> simp_all; omega
      · exact h
  have three : orderly.binList 3 = [.ofGroup 2, .frame 17 .main, .frame 17 .alternate] := by decide +kernel
  intro n
  by_cases hn : n = 3
  · subst hn
    rw [three]
    refine ⟨by decide, fun slot v => ?_, fun g => ?_⟩
    · rw [orderly_tables.1]
      by_cases hs : slot = 17
      · subst hs
        exact iff_of_true (by cases v <;> decide) ⟨button, rfl, rfl, rfl, by decide, by cases v <;> decide⟩
      · exact iff_of_false (by simp [hs]) (by simp [hs])
    · rw [orderly_tables.2]
      by_cases hg : g = 2
      · subst hg
        exact iff_of_true (by decide) ⟨remote, ⟨3, [7]⟩, rfl, rfl, rfl, rfl, by decide⟩
      · exact iff_of_false (by simp [hg]) (by simp [hg])
  · rw [other n hn]
    refine ⟨List.nodup_nil, fun slot v => iff_of_false (by simp) ?_, fun g => iff_of_false (by simp) ?_⟩
    · rintro ⟨e, he, _, hr, _⟩
      rw [orderly_tables.1] at he
      split at he
      · cases he; exact hn hr.symm
      · cases he
    · rintro ⟨x, p, hx, hp, _, hr, _⟩
      rw [orderly_tables.2] at hx
      split at hx
      · cases hx; cases hp; exact hn hr.symm
      · cases hx

theorem orderly_countLaw : orderly.CountLaw := by
  constructor
  · intro g group hg
    rw [orderly_tables.2] at hg
    split at hg
    · subst g; cases hg; decide +kernel
    · cases hg
  · intro slot e he
    rw [orderly_tables.1] at he
    split at he
    · cases he; decide +kernel
    · cases he

theorem orderly_referenceLaw : orderly.ReferenceLaw := by
  have : ∀ cell ∈ orderly.pool.cells.toList, cell.refs = 0 := by decide +kernel
  exact fun c h => absurd (this _ (Vector.mem_toList_iff.2 (Vector.getElem_mem c.isLt))) h

/-- Law 2 of the part: the three patterns differ in run 1, the alternate and the repeat pattern in every pair. -/
theorem orderly_conflictLaw : orderly.ConflictLaw := by
  have chains : ∀ ref c, orderly.contenderOf ref = some c →
      (ref = .frame 17 .main ∧ c.chain = [5] ∧ c.tolerance = 3 ∨ ref = .frame 17 .alternate ∧ c.chain = [6] ∧ c.tolerance = 3 ∨
        ref = .ofGroup 2 ∧ c.chain = [7] ∧ c.tolerance = 2) ∧ c.runCount = 3 := by
    intro ref c h
    cases ref with
    | frame slot v =>
      simp only [State.contenderOf, orderly_tables.1, orderly_tables.2] at h
      by_cases hs : slot = 17
      · subst hs
        cases v <;> cases h <;> exact ⟨by decide, rfl⟩
      · simp only [if_neg hs] at h
        cases h
    | ofGroup g =>
      simp only [State.contenderOf, orderly_tables.2] at h
      by_cases hg : g = 2
      · subst hg; cases h; exact ⟨by decide, rfl⟩
      · simp only [if_neg hg] at h
        cases h
  have five : orderly.storedRun [5] 1 = some 500 := by decide +kernel
  have six : orderly.storedRun [6] 1 = some 1000 := by decide +kernel
  have seven : orderly.storedRun [7] 1 = some 9000 := by decide +kernel
  intro r q c d hne hc hd _ _
  obtain ⟨h, hn⟩ := chains r c hc
  obtain ⟨h', _⟩ := chains q d hd
  rcases h with ⟨hr, h1, h2⟩ | ⟨hr, h1, h2⟩ | ⟨hr, h1, h2⟩ <;>
    rcases h' with ⟨hq, h3, h4⟩ | ⟨hq, h3, h4⟩ | ⟨hq, h3, h4⟩ <;>
    first
    | exact absurd (hr.trans hq.symm) hne
    | exact ⟨1, _, _, le_refl 1, by omega, by rw [h1]; assumption, by rw [h3]; assumption, by rw [h2, h4]; decide⟩

/-- A suspended entry: the patterns leave their bin and law 8 goes on. -/
theorem test_witness_StepKeepsKeyLaw_bins : ∃ s t : State, step s = .next t ∧ s.HostClaimLaw ∧ s.TestLaw ∧ s.WorkLaw ∧
    s.BinLaw ∧ s.CountLaw ∧ t.binList 3 = [.ofGroup 2] := by
  obtain ⟨t, h, h'⟩ := next_of_after (x := step orderly) (p := fun t => t.binList 3 = [.ofGroup 2]) (by decide +kernel)
  exact ⟨orderly, t, h, orderly_hostClaimLaw, orderly_testLaw, orderly_workLaw, orderly_binLaw, orderly_countLaw,
    of_decide_eq_true h'⟩

/-- The same step, for the places of the cells, law 12 and law 2. -/
theorem test_witness_StepKeepsCellLaw_places : ∃ s t : State, step s = .next t ∧ s.HostClaimLaw ∧ s.TestLaw ∧ s.WorkLaw ∧
    s.PlaceLaw ∧ s.ReferenceLaw ∧ s.CountLaw ∧ s.ConflictLaw ∧ t.port.done = true := by
  obtain ⟨t, h, h'⟩ := next_of_after (x := step orderly) (p := fun t => t.port.done) (by decide +kernel)
  exact ⟨orderly, t, h, orderly_hostClaimLaw, orderly_testLaw, orderly_workLaw, orderly_placeLaw, orderly_referenceLaw,
    orderly_countLaw, orderly_conflictLaw, h'⟩

/-- All 768 cells are FREE, and a reservation is made of the first of the free list. -/
theorem test_witness_StepKeepsCellLaw : ∃ s t : State, s.CellLaw ∧ step s = .next t ∧ t.pool.reservation = [10] := by
  obtain ⟨t, h, h'⟩ := next_of_after
    (x := step { ready with
      groups := stocked.groups, pending := [.installParameterStep]
      claims := { ready.claims with host := some .installParameter }
      port := { ready.port with engine := .parameter ⟨.entryInstall, 0, [0x2003, 0x77, 5]⟩ (.step false) } })
    (p := fun t => t.pool.reservation = [10]) (by decide +kernel)
  exact ⟨_, t, fun _ => by decide +kernel, h, of_decide_eq_true h'⟩

/-- A waiting table step of the command in EXECUTE, served; and the end of the test after a hardware reset. -/
theorem test_witness_StepKeepsHostClaimLaw :
    (∃ s t : State, s.HostClaimLaw ∧ s.TestLaw ∧ step s = .next t ∧ t.port.done = true) ∧
    (∃ s t : State, s.HostClaimLaw ∧ s.TestLaw ∧ step s = .next t ∧ s.memoryTest = some 0 ∧ t.port.ready = true) := by
  constructor
  · obtain ⟨t, h, h'⟩ := next_of_after
      (x := step { stepping .groupRemove .groupRemove 2 [] lawful with pending := [.groupRemoveStep] })
      (p := fun t => t.port.done) (by decide +kernel)
    refine ⟨_, t, fun k hk => .inl ⟨⟨.groupRemove, 2, []⟩, false, rfl, ?_⟩, fun h => ?_, h, h'⟩
    · exact hk
    · cases h
  · obtain ⟨t, h, h'⟩ := next_of_after (x := step { State.reset with pending := [.memoryTestEnd [] 40000] })
      (p := fun t => t.port.ready) (by decide +kernel)
    refine ⟨_, t, ?_, fun _ => ⟨rfl, .inl ⟨rfl, rfl⟩⟩, h, rfl, h'⟩
    intro k hk
    cases hk

/-- TX0 enters FRAME at its served grant. -/
theorem test_witness_FramesStartOnlyFromFitPatterns :
    let s := { sending .grant [item (.host 1) (.send 1) (activeAs 0)] with
      claims := { stocked.claims with output := stocked.claims.output.set 0 (some .frameGrant) } }
    s.outputs[(0 : OutputId)].state = .grant ∧
    after (exec (.frameGrant 0) s) (fun t => t.outputs[(0 : OutputId)].state = .frame (frameAt 1 0 500)) = true := by
  decide +kernel

/-- The same of an item whose variant is the alternate. -/
theorem test_witness_FramesStartOnlyFromFitPatterns_alternate :
    let s := { sending .grant [item (.host 1) (.send 1) (some ⟨.alternate, 0, 0⟩)] with
      claims := { stocked.claims with output := stocked.claims.output.set 0 (some .frameGrant) } }
    button.chainOf .alternate = some [6] ∧
    after (exec (.frameGrant 0) s) (fun t => t.outputs[(0 : OutputId)].state =
      .frame { frameAt 1 0 1000 with sent := .frame .alternate, chain := [6] }) = true := by
  decide +kernel

/-- A served claim changes the table; a command that serves none leaves it. -/
theorem test_witness_TableChangesOnlyWhereServed :
    after (exec .suspend (stepping .suspend .entrySuspend 0 [0x0311] stocked))
      (fun t => t.entries[(17 : SlotNo)].generation = 3 ∧ t.binList 3 = [.ofGroup 2]) = true ∧
    after (exec (.endGap 0 5) stocked) (fun t => t.groups = stocked.groups) = true := by
  decide +kernel

theorem test_witness_FramesSpellTheirCommands :
    WellFormed (.groupDefine 15) = true ∧ encodeFrame (.groupDefine 15) = some (0x00, 0x100F) ∧
    decodeFrame 0x00 0x100F = some (.groupDefine 15) ∧ (0x00 : BitVec 8).getLsbD 7 = false ∧
    encodeFrame .flagsRead = some (0x80, 0) ∧ decodeFrame 0x80 0 = some .flagsRead := by decide

/-- After IN3 was served, TX1 comes before HOST and IN0. -/
theorem test_witness_RotationServesTheNextWaiting :
    let c : Claims := { Claims.resetValue with
      lookup := Claims.resetValue.lookup.set 0 true, output := Claims.resetValue.output.set 1 (some .frameGrant)
      host := some .tableStatus, last := .input 3 }
    c.waiting (.input 0) = true ∧ c.waiting .host = true ∧ c.nextServed = some (.output 1) := by decide

/-- The claim that is next has its turn once the releases of the operation before are taken. -/
theorem test_witness_RotationServesTheNextWaiting_turns :
    let s := stepping .tableStatus .tableStatus 0 []
    s.claims.nextServed = some .host ∧ s.turnOf .host = true ∧
    ({ s with mail := { s.mail with releases := [[5]] } } : State).turnOf .host = false := by decide +kernel

/-- A suspend without its turn and one whose claim does not wait; a lookup and a damage notice without a claim; a match result
behind a notice; a request of another command. -/
theorem test_witness_RotationServesTheNextWaiting_waits :
    (let s := stepping .suspend .entrySuspend 0 [0x0311] { stocked with mail := { stocked.mail with releases := [[9]] } }
     s.claims.host = some .suspend ∧ s.turnOf .host = false ∧
     after (exec .suspend s) (fun t => t.entries = s.entries ∧ t.claims = s.claims) = true) ∧
    (let s := stepping .resume .entryResume 0 [0x0311] stocked
     s.claims.host ≠ some .suspend ∧ after (exec .suspend s) (fun t => t.entries = s.entries ∧ t.claims = s.claims) = true) ∧
    (stocked.claims.lookup[(0 : InputId)] = false ∧ stocked.claims.output[(0 : OutputId)] = none ∧
     after (exec (.damageNotice 0) stocked) (fun t => t.claims = stocked.claims) = true) ∧
    (let s := { stocked with mail := { stocked.mail with path := [.groupChanged 2, .result ⟨0, 20000, 30000, .none⟩] } }
     s.mail.path.head? = some (.groupChanged 2) ∧
     after (exec .matchResult s) (fun t => t.mail = s.mail) = true) ∧
    after (exec (.report .request) (executing .pressRead 0 [])) (fun t => t.port.engine = .execute ⟨.pressRead, 0, []⟩ false)
      = true := by decide +kernel

/-! ## Witnesses: the host port -/

/-- The handle of an installed entry, its generation at the largest value too. -/
theorem test_witness_WordsShowTheirFields :
    stocked.currentWord 0x0311 = some (buttonHandle, button) ∧ stocked.entries[(17 : SlotNo)].generation = 3 ∧
    stocked.currentWord 0x0411 = none ∧ ready.currentWord 0x0011 = none ∧
    ready.intLow = false ∧
    ({ ready with port := { ready.port with enables := 1, done := true } } : State).intLow = true ∧
    ({ ready with port := { ready.port with enables := 14, done := true } } : State).intLow = false := by decide +kernel

/-- The FLAGS word while a parameter word is awaited and while a result word is offered. -/
theorem test_witness_WordsShowTheirFields_engine :
    (engineAt ready (.parameter ⟨.send, 0, []⟩ (.word 0))).flagsWord = 0xE000 ∧
    (engineAt ready (.parameter ⟨.send, 0, []⟩ (.step false))).flagsWord = 0xC000 ∧
    (engineAt ready (.result ⟨.send, 0, []⟩ .ok 1 [] 0)).flagsWord = 0xF000 ∧ ready.flagsWord = 0x8000 := by decide +kernel

/-- The words of R183 for the tests' group, the largest values of every field, and the words of an input and an output. -/
theorem test_witness_WordsShowTheirFields_settings :
    (settings.receiveNominal < 256 ∧ settings.receiveWindow < 16 ∧ settings.transmitCarrier < 256 ∧
      settings.releaseGap < 65536 ∧ settings.repeatPeriod < 65536 ∧ settings.pressLimit < 65536) ∧
    settingsWords settings true = [0x1223, 0x044C, 76, 120, 108, 30] ∧
    (⟨.groupDefine, 2, [0x1223, 0x044C, 76, 120, 108, 30]⟩ : Task).settings = settings ∧
    (let task : Task := ⟨.inputConfigure, 0, [0x0311, 40, 120]⟩
     task.inputConfig = { kind := .carrier, polarity := .activeHigh, endGap := 40, glitchFloor := 120, blankMask := 3 }) ∧
    (let task : Task := ⟨.outputConfigure, 0, [0x0002, 50, 60]⟩
     task.outputConfig = { kind := .envelope, polarity := .activeLow, minItemSpace := 50, holdLimit := 60 }) ∧
    heldPress.causeField = 0 ∧ endedPress.causeField = 1 := by decide +kernel

/-- The part with this SPI frame in progress. -/
def framed (f : SpiShift) (s : State := ready) : State := { s with port := { s.port with spi := .frame f } }

/-- A frame of 24 clocks that was captured with this address byte and word. -/
def captured (address : BitVec 8) (word : Word) (offered : Bool) (void : Bool := false) : SpiShift :=
  { clocks := 24, address := address, data := 0, word := word, offered := offered, void := void }

/-- Every frame end stands while no frame is in progress. -/
theorem frameStands_of_none {s : State} (h : s.port.spi = .none) (address : BitVec 8) (w : Word) :
    s.FrameStands address w := fun f hf => by rw [h] at hf; cases hf

/-- A FLAGS read whose word showed DONE and not FAULT, and one made void. -/
theorem test_witness_FlagsReadClearsTheShownBits :
    (let s := framed (captured (addressByte true 0) 0x0800 false)
      { ready with port := { ready.port with done := true, fault := true } }
     s.Captured (addressByte true 0) (captured (addressByte true 0) 0x0800 false) ∧
     after (exec .flagsRead s) (fun t => !t.port.done && t.port.fault) = true) ∧
    (let f := captured (addressByte true 0) 0 false true
     let s := framed f { ready with port := { ready.port with done := true } }
     s.port.spi = .frame f ∧ f.fits (addressByte true 0) 0 = true ∧ f.void = true ∧
     after (exec .flagsRead s) (fun t => t.port.done) = true) := by
  decide +kernel

/-- A FLAGS read without a capture of its own; writes to locations 3 and 7. -/
theorem test_witness_ReadFramesAndIgnoredWrites :
    (let s := { ready with port := { ready.port with done := true } }
     s.port.spi = .none ∧ after (exec .flagsRead s) (fun t => !t.port.done) = true) ∧
    (3 ≤ (3 : Fin 8).val ∧ 3 ≤ (7 : Fin 8).val ∧
     after (exec (.ignoredLocationWrite 3 5) ready) (fun t => t.port.enables = 0) = true ∧
     after (exec (.ignoredLocationWrite 7 5) ready) (fun t => t.port.collide = false) = true) := by decide +kernel

/-- These SPI events, one after another. -/
def spiEvents (events : List SpiEvent) (s : State) : State := events.foldl (fun s e => s.spiEvent e) s

/-- The clocks that bring these bits, MSB first. -/
def bits (l : List Bool) : List SpiEvent := l.map SpiEvent.clock

/-- R159, clock by clock: the frame 0x02 0x0005 writes the enables at the rise of SELECT after 24 clocks, and not after 23 or
25; a read of COMPLETION shows its word from the 8th clock on, and 0 before and after it; a reset between the fall of
SELECT and the 8th clock makes the frame void. -/
theorem test_spi_clocks :
    let address := bits [false, false, false, false, false, false, true, false]
    let data := bits ((List.replicate 13 false) ++ [true, false, true])
    let frame := SpiEvent.selectFalls :: address ++ data
    let enables := fun (events : List SpiEvent) => (spiEvents events ready).port.enables
    enables (frame ++ [.selectRises]) = 5 ∧ enables (frame.dropLast ++ [.selectRises]) = 0 ∧
    enables (frame ++ [.clock true, .selectRises]) = 0 ∧
    (let s := { ready with port := { ready.port with completion := { code := 0x20, cut := false, outcome := .conflict } } }
     let read := SpiEvent.selectFalls :: bits [true, false, false, false, false, false, true, true]
     let level := fun (n : Nat) => (spiEvents (read ++ List.replicate n (.clock true)) s).misoLevel
     (List.range 16).map level = [false, false, true, false, false, false, false, false,
       false, false, false, false, true, false, false, false] ∧
     (spiEvents read.dropLast s).misoLevel = false ∧ level 16 = false) ∧
    after (exec .hardwareReset (spiEvents (frame.take 5) ready))
      (fun s => (spiEvents (frame.drop 5 ++ [.selectRises]) s).port.enables = 0) = true := by decide +kernel

/-- A clock and the rise of SELECT with and without a frame; the 8th clock; the row that 24 clocks spell. -/
theorem test_witness_ReadFramesAndIgnoredWrites_clocks :
    ready.port.spi = .none ∧
    (let f : SpiShift := { SpiShift.begun with clocks := 7, address := 0x40 }
     (framed f).port.spi = .frame f ∧ f.clocks = 7 ∧ f.void = false ∧
     after (exec (.capture (.clock true)) (framed f)) (fun t => t.port.miso = ready.controlWord) = true) ∧
    (let f := captured 0x02 0 false
     f.clocks = 24 ∧ f.void = false ∧ decodeFrame f.address f.data = some (.interruptEnableWrite 0) ∧
     after (exec (.capture .selectRises) (framed f)) (fun t => t.port.spi = .none) = true) ∧
    (let f := captured 0x08 0 false
     decodeFrame f.address f.data = none ∧
     after (exec (.capture .selectRises) (framed f)) (fun t => t.port.spi = .none) = true) := by decide +kernel

/-- An argument past its range, one at its end with parameters, one at its end with a table step, one with neither. -/
theorem test_witness_CommandWriteIsTaken :
    ready.port.ready = true ∧ ready.port.engine.busy = false ∧ ready.port.spi = .none ∧
    (argAccepted .groupDefine 16 = false ∧ after (exec (.groupDefine 16) ready)
      (fun t => t.port.done && t.port.completion.outcome = .badParameter) = true) ∧
    (argAccepted .groupDefine 15 = true ∧ hasParameters .groupDefine = true ∧
      after (exec (.groupDefine 15) ready) (fun t => t.port.engine.xreq) = true) ∧
    (argAccepted .groupRead 15 = true ∧ hasParameters .groupRead = false ∧
      after (exec (.groupRead 15) ready) (fun t => t.claims.host = some .groupRead) = true) ∧
    (argAccepted .inputStatus 3 = true ∧ hasParameters .inputStatus = false ∧ executeStep .inputStatus = none) := by
  decide +kernel

/-- Codes of no command at both ends of the range; a COMMAND write before READY and while BUSY. -/
theorem test_witness_CommandWriteRefusals :
    (∀ c : HostCommand, c.code ≠ 0x00 ∧ c.code ≠ 0xFF) ∧
    (ready.port.ready = true ∧ ready.port.engine.busy = false ∧ ready.port.spi = .none ∧
      after (exec (.badCommand 0x00 0) ready) (fun t => t.port.completion.outcome = .badCommand) = true) ∧
    (Instr.report (.commandWrite 0) = HostCommand.writeRow .report 0 ∧ State.reset.port.ready = false ∧
      after (exec (.report (.commandWrite 0)) State.reset) (fun t => t.port.collide) = true) ∧
    ((executing .report 0 []).port.engine.busy = true ∧
      after (exec (.report (.commandWrite 0)) (executing .report 0 [])) (fun t => t.port.collide) = true) := by
  refine ⟨fun c => ?_, by decide +kernel⟩
  cases c <;> decide

/-- A command that awaits a word, with this reservation. -/
def awaiting (c : HostCommand) (words : List Word) (cells : List CellNo) (s : State := ready) : State :=
  engineAt { s with pool := { s.pool with reservation := cells } } (.parameter ⟨c, 0, words⟩ (.word 0))

/-- A word refused without and with a reservation, the last word before a parameter step, one that is not the last, and
the last. -/
theorem test_witness_TransferWriteTakesTheWord_words :
    (let s := awaiting .groupDefine [] []
     s.port.engine = .parameter ⟨.groupDefine, 0, []⟩ (.word 0) ∧ s.port.spi = .none ∧
     s.pool.reservation = [] ∧ wordVerdict ⟨.groupDefine, 0, []⟩ 0x000F = .refused .badParameter ∧
     after (exec (.transferWrite 0x000F) s) (fun t => t.port.completion.outcome = .badParameter) = true) ∧
    (let s := awaiting .entryInstall [0x2003, 0x77, 3] [10]
     s.pool.reservation ≠ [] ∧ wordVerdict ⟨.entryInstall, 0, [0x2003, 0x77, 3]⟩ 15 = .refused .badRun ∧
     after (exec (.transferWrite 15) s) (fun t => t.claims.host = some .cleanUp) = true) ∧
    (wordVerdict ⟨.entryInstall, 0, [0x2003, 0x77]⟩ 3 = .step ∧
     after (exec (.transferWrite 3) (awaiting .entryInstall [0x2003, 0x77] []))
       (fun t => t.claims.host = some .installParameter) = true) ∧
    (wordVerdict ⟨.entryInstall, 0, [0x2003, 0x77, 3]⟩ 16 = .next ∧
     after (exec (.transferWrite 16) (awaiting .entryInstall [0x2003, 0x77, 3] [10]))
       (fun t => t.pool.readRun [10] 1 = .value 16) = true) ∧
    (wordVerdict ⟨.entryInstall, 0, [0x2003, 0x77, 3, 16, 16]⟩ 60000 = .last ∧
     after (exec (.transferWrite 60000) (awaiting .entryInstall [0x2003, 0x77, 3, 16, 16] [10]))
       (fun t => t.pool.readRun [10] 3 = .value 60000 && t.claims.host = some .installFinal) = true) := by
  decide +kernel

/-- The words of a group at and past the ends of their ranges, and the last word without and with a repeat pattern. -/
theorem test_witness_TransferWriteTakesTheWord_groups :
    let verdict := fun (c : HostCommand) (k : Nat) (w : Word) => wordVerdict ⟨c, 0, List.replicate k 0x1003⟩ w
    let bad := WordVerdict.refused .badParameter
    ([0x1013, 0x2013, 0x0003] : List Word).map (verdict .groupDefine 0) = [.next, bad, bad] ∧
    ([0x2013, 0x3013] : List Word).map (verdict .groupEdit 0) = [.next, bad] ∧
    ([0x0100, 0x0127, 0x0128, 0x0F78, 0x0179, 0x0050] : List Word).map (verdict .groupDefine 1) =
      [.next, bad, .next, .next, bad, bad] ∧
    ([39, 40, 120, 121] : List Word).map (verdict .groupDefine 2) = [bad, .next, .next, bad] ∧
    ([39, 40, 1000, 1001] : List Word).map (verdict .groupDefine 3) = [bad, .next, .next, bad] ∧
    ([29, 30, 300, 301] : List Word).map (verdict .groupDefine 4) = [bad, .next, .next, bad] ∧
    ([120, 121] : List Word).map (verdict .groupDefine 5) = [.next, bad] ∧
    wordVerdict ⟨.groupDefine, 0, [0x0013, 0, 0, 0, 0]⟩ 0 = .last ∧ verdict .groupEdit 6 65535 = .step ∧
    ([15, 16, 60000, 60001] : List Word).map (verdict .groupEdit 7) =
      [.refused .badRun, .next, .next, .refused .badRun] ∧
    wordVerdict ⟨.groupEdit, 0, [0x1013, 0, 0, 0, 0, 0, 3, 16, 16]⟩ 16 = .last := by decide +kernel

/-- The words of the other commands at and past the ends of their ranges. -/
theorem test_witness_TransferWriteTakesTheWord_others :
    let verdict := fun (c : HostCommand) (k : Nat) (w : Word) => wordVerdict ⟨c, 0, List.replicate k 0x0100⟩ w
    let bad := WordVerdict.refused .badParameter
    verdict .entryInstall 1 0xFFFF = .next ∧ verdict .entryInstall 2 0xFFFF = .step ∧
    ([15, 16, 60000, 60001] : List Word).map (verdict .entryInstall 3) =
      [.refused .badRun, .next, .next, .refused .badRun] ∧
    wordVerdict ⟨.entryInstall, 0, [0x0100, 0, 3] ++ List.replicate 4 16⟩ 16 = .next ∧
    wordVerdict ⟨.entryInstall, 0, [0x0100, 0, 3] ++ List.replicate 5 16⟩ 16 = .last ∧
    verdict .entryEdit 1 0xFFFF = .next ∧ verdict .entryEdit 2 0xFFFF = .last ∧ verdict .entryRetire 0 0 = .last ∧
    verdict .relaySet 1 0 = .next ∧
    ([0x0111, 0x1011, 0x0011, 0x0110, 0x0101] : List Word).map (verdict .relaySet 2) = [.last, .last, bad, bad, bad] ∧
    ([63, 64] : List Word).map (verdict .relayRead 0) = [.last, bad] ∧
    ([2, 3] : List Word).map (verdict .inputConfigure 0) = [.next, bad] ∧
    ([2, 3, 40, 41] : List Word).map (verdict .inputConfigure 1) = [bad, .next, .next, bad] ∧
    ([7, 8, 120, 121] : List Word).map (verdict .inputConfigure 2) = [bad, .last, .last, bad] ∧
    ([2, 3] : List Word).map (verdict .outputConfigure 0) = [.next, bad] ∧
    ([4, 5, 50, 51] : List Word).map (verdict .outputConfigure 1) = [bad, .next, .next, bad] ∧
    ([0, 1, 60, 61] : List Word).map (verdict .outputConfigure 2) = [bad, .last, .last, bad] ∧
    verdict .send 0 0 = .next ∧ ([0x0700, 0x0701] : List Word).map (verdict .send 1) = [bad, .last] ∧
    verdict .holdStart 0 0 = .next ∧ verdict .holdStart 1 0 = .last := by decide +kernel

/-- Two patterns of 9 runs in the cells 10, 11, 12 and 13: main runs 1 and 9, alternate runs 1 and 9. -/
theorem test_witness_TransferWriteTakesTheWord_runs :
    let s := awaiting .entryInstall [] [10, 11, 12, 13]
    let task := fun (j : Nat) => (⟨.entryInstall, 0, [0x2103, 0x77, 9] ++ List.replicate j 500⟩ : Task)
    ((task 17).word 2).toNat = 9 ∧ (task 17).words.length = 3 + 17 ∧ 17 < 2 * 9 ∧
    s.pool.reservation[(if 0 < 9 then 0 / 8 else (9 + 7) / 8 + (0 - 9) / 8)]? = some 10 ∧
    s.pool.reservation[(if 8 < 9 then 8 / 8 else (9 + 7) / 8 + (8 - 9) / 8)]? = some 11 ∧
    s.pool.reservation[(if 9 < 9 then 9 / 8 else (9 + 7) / 8 + (9 - 9) / 8)]? = some 12 ∧
    s.pool.reservation[(if 17 < 9 then 17 / 8 else (9 + 7) / 8 + (17 - 9) / 8)]? = some 13 ∧
    (s.storeRun (task 0) 777).pool.readRun [10] 1 = .value 777 ∧
    (s.storeRun (task 8) 777).pool.readRun [11] 1 = .value 777 ∧
    (s.storeRun (task 9) 777).pool.readRun [12] 1 = .value 777 ∧
    (s.storeRun (task 17) 777).pool.readRun [13] 1 = .value 777 := by decide +kernel

/-- Nine repeat runs in the cells 10 and 11: runs 1, 8 and 9. -/
theorem test_witness_TransferWriteTakesTheWord_repeats :
    let s := awaiting .groupEdit [] [10, 11]
    let task := fun (j : Nat) => (⟨.groupEdit, 0, [0x1223, 0x044C, 76, 120, 108, 30, 9] ++ List.replicate j 500⟩ : Task)
    (task 8).command = .groupEdit ∧ (task 8).words.length = 7 + 8 ∧ s.pool.reservation[0 / 8]? = some 10 ∧
    s.pool.reservation[7 / 8]? = some 10 ∧ s.pool.reservation[8 / 8]? = some 11 ∧
    (s.storeRun (task 0) 777).pool.readRun [10] 1 = .value 777 ∧
    (s.storeRun (task 7) 777).pool.readRun [10] 8 = .value 777 ∧
    (s.storeRun (task 8) 777).pool.readRun [10, 11] 9 = .value 777 := by decide +kernel

/-- The last field before the runs of an install and of a group, and a word of another command, are stored nowhere. -/
theorem test_witness_TransferWriteTakesTheWord_fields :
    let s := awaiting .entryInstall [] [10]
    let stored := fun (c : HostCommand) (k : Nat) => (s.storeRun ⟨c, 0, List.replicate k 3⟩ 777).pool.readRun [10] 1
    (2 < 3 ∧ stored .entryInstall 2 = s.pool.readRun [10] 1) ∧ (6 < 7 ∧ stored .groupDefine 6 = s.pool.readRun [10] 1) ∧
    stored .send 9 = s.pool.readRun [10] 1 ∧ stored .entryInstall 3 = .value 777 := by decide +kernel

/-- A command whose result words are offered. -/
def offering (outcome : HostOutcome) (rest : List Word) (s : State := ready) : State :=
  engineAt s (.result ⟨.entryFind, 0, []⟩ outcome 0x0311 rest 0)

theorem test_witness_TransferReadsAndCollisions :
    (let s := framed (captured (addressByte true 1) 0x0311 true) (offering .ok [])
     s.Captured (addressByte true 1) (captured (addressByte true 1) 0x0311 true) ∧
     s.port.engine = .result ⟨.entryFind, 0, []⟩ .ok 0x0311 [] 0 ∧
     after (exec .transferRead s) (fun t => t.port.done && decide (t.port.engine = .idle)) = true) ∧
    (let s := framed (captured (addressByte true 1) 0x0311 true) (offering .conflict [7])
     s.port.engine = .result ⟨.entryFind, 0, []⟩ .conflict 0x0311 [7] 0 ∧
     after (exec .transferRead s) (fun t => decide (t.port.engine.offered = some 7)) = true) ∧
    (let s := framed (captured (addressByte true 1) 0x0311 true)
     s.port.engine.xdir = false ∧ after (exec .transferRead s) (fun t => !t.port.collide) = true) ∧
    ((∀ task since, ready.port.engine ≠ .parameter task (.word since)) ∧ ready.port.spi = .none ∧
     after (exec (.transferWrite 1) ready) (fun t => t.port.collide) = true) ∧
    (let s := framed (captured (addressByte true 1) 0 false)
     s.Captured (addressByte true 1) (captured (addressByte true 1) 0 false) ∧
     after (exec .transferRead s) (fun t => t.port.collide) = true) := by
  refine ⟨by decide +kernel, by decide +kernel, by decide +kernel, ⟨?_, by decide +kernel⟩, by decide +kernel⟩
  intro task since h
  cases h

/-- Bit 15 clear and set; ABORT in IDLE, in PARAMETER without and with a reservation and during a parameter step, in
EXECUTE, in RESULT, and in CLEANUP. -/
theorem test_witness_ControlWriteSetsEnablesAndAborts :
    ready.port.spi = .none ∧ (0x000F : Word).getLsbD 15 = false ∧ (0x8003 : Word).getLsbD 15 = true ∧
    after (exec (.interruptEnableWrite 0x000F) ready) (fun t => t.port.enables = 15) = true ∧
    after (exec (.abort 0x8003) ready) (fun t => t.port.enables = 3 && decide (t.port.engine = .idle)) = true ∧
    after (exec (.abort 0x8000) (awaiting .groupDefine [] [])) (fun t => t.port.completion.outcome = .aborted) = true ∧
    after (exec (.abort 0x8000) (awaiting .entryInstall [1, 2, 3] [10])) (fun t => t.claims.host = some .cleanUp) = true ∧
    after (exec (.abort 0x8000) (engineAt ready (.parameter ⟨.entryInstall, 0, [1, 2, 3]⟩ (.step false))))
      (fun t => t.port.engine = .parameter ⟨.entryInstall, 0, [1, 2, 3]⟩ (.step true)) = true ∧
    after (exec (.abort 0x8000) (executing .report 0 [])) (fun t => t.port.engine = .execute ⟨.report, 0, []⟩ true) = true ∧
    after (exec (.abort 0x8000) (offering .ok [])) (fun t => t.port.completion.cut) = true ∧
    after (exec (.abort 0x8000) (engineAt ready (.cleanup ⟨.entryInstall, 0, []⟩ .badRun)))
      (fun t => t.port.engine = .cleanup ⟨.entryInstall, 0, []⟩ .badRun) = true := by decide +kernel

/-- At 50,000 us, in PARAMETER without and with a reservation and in RESULT, and one microsecond before. -/
theorem test_witness_TransferTimerExpires :
    (let s := awaiting .groupDefine [] []
     s.port.engine = .parameter ⟨.groupDefine, 0, []⟩ (.word 0) ∧ 0 + 50000 ≤ max s.timebase 50000 ∧
     s.pool.reservation = [] ∧
     after (exec (.transferTimeout 50000) s) (fun t => t.port.completion.outcome = .xferTimeout) = true ∧
     after (exec (.transferTimeout 49999) s) (fun t => t.port.engine = s.port.engine) = true) ∧
    (let s := awaiting .entryInstall [1, 2, 3] [10]
     s.pool.reservation ≠ [] ∧
     after (exec (.transferTimeout 50000) s) (fun t => t.claims.host = some .cleanUp) = true) ∧
    (let s := offering .conflict [7]
     s.port.engine = .result ⟨.entryFind, 0, []⟩ .conflict 0x0311 [7] 0 ∧
     after (exec (.transferTimeout 50000) s) (fun t => t.port.completion.cut && t.port.completion.outcome = .conflict) = true ∧
     after (exec (.transferTimeout 49999) s) (fun t => t.port.engine = s.port.engine) = true) := by decide +kernel

theorem test_witness_LastStepEndsTheCommand :
    (ready.finish ⟨.report, 0, []⟩ false .ok []).port.completion.cut = false ∧
    (ready.finish ⟨.report, 0, []⟩ true .ok [1]).port.completion.cut = true ∧
    (ready.finish ⟨.report, 0, []⟩ false .ok [1, 2]).port.engine = .result ⟨.report, 0, []⟩ .ok 1 [2] 0 := by
  decide +kernel

/-! ## Witnesses: requests of commands to the blocks -/

/-- INPUT CONFIGURE of IN3 to OFF, to a kind blanked by TX0 in FRAME, and to one that is not. -/
theorem test_witness_InputConfigureResetsTheInput :
    (let s := executing .inputConfigure 3 [0x0000, 3, 8]
     s.AtRequest .inputConfigure ⟨.inputConfigure, 3, [0x0000, 3, 8]⟩ false ∧
     (⟨.inputConfigure, 3, [0x0000, 3, 8]⟩ : Task).inputConfig.kind = .off ∧
     after (exec (.inputConfigure .request) s) (fun t => t.mail.inputChanges = [3]) = true) ∧
    (let s := executing .inputConfigure 3 [0x0101, 40, 120] (sending (.frame (frameAt 1 0 500)) [])
     let c := (⟨.inputConfigure, 3, [0x0101, 40, 120]⟩ : Task).inputConfig
     s.AtRequest .inputConfigure ⟨.inputConfigure, 3, [0x0101, 40, 120]⟩ false ∧ c.kind ≠ .off ∧
     OutputMask.has c.blankMask 0 = true ∧ s.outputs[(0 : OutputId)].state.blanking = true ∧
     after (exec (.inputConfigure .request) s) (fun t => t.inputs[(3 : InputId)].assembler = .blanked) = true) ∧
    (let s := executing .inputConfigure 3 [0x0102, 40, 120]
     let c := (⟨.inputConfigure, 3, [0x0102, 40, 120]⟩ : Task).inputConfig
     c.kind ≠ .off ∧ (∀ o : OutputId, OutputMask.has c.blankMask o = true → s.outputs[o].state.blanking = false) ∧
     after (exec (.inputConfigure .request) s) (fun t => t.inputs[(3 : InputId)].assembler = .waiting none) = true) := by
  decide +kernel

theorem test_witness_StatusReadsClearTheStickyBits :
    (let s := executing .inputStatus 3 []
     s.AtRequest .inputStatus ⟨.inputStatus, 3, []⟩ false ∧
     after (exec (.inputStatus .request) s) (fun t => t.port.engine.offered = some 0) = true) ∧
    (let s := executing .outputStatus 0 [] (sending .idle [])
     s.AtRequest .outputStatus ⟨.outputStatus, 0, []⟩ false ∧
     after (exec (.outputStatus .request) s) (fun t => t.port.engine.offered = some 0x0010) = true) := by
  decide +kernel

/-- The words of an output with an ACTIVE item of a relay and the largest queue, and of one whose item is QUEUED. -/
theorem test_witness_StatusReadsClearTheStickyBits_words :
    (let x : Item := { item (.relay ⟨4, 9⟩) (.send 15) (activeAs 3) with endPending := some .flushed }
     let s := sending (.frame (frameAt 1 0 500)) (x :: List.replicate 7 (item (.host 7) .hold none))
     s.outputs[(0 : OutputId)].queue.length ≤ 8 ∧ x.active = activeAs 3 ∧
     outputStatusWords s.outputs[(0 : OutputId)] = [0x1830, 0, 0x8F05, 0x0409, 0x0311, 3]) ∧
    (let s := sending (.space 100) [item (.host 7) .hold none]
     outputStatusWords { s.outputs[(0 : OutputId)] with
       completion := some { tag := 0x21, hold := true, outcome := .limit } } = [0x0150, 0x2121]) := by decide +kernel

/-- REPORT of an empty list, of a HELD record (which stays) and of an ENDED one (which becomes FREE); the largest frame
count; PRESS READ of a FREE record and of one in use. -/
theorem test_witness_ReportsShowPressRecords :
    (let s := executing .report 0 []
     s.AtRequest .report ⟨.report, 0, []⟩ false ∧ s.tracker.reportList = [] ∧
     after (exec (.report .request) s) (fun t => t.port.engine.offered = some 0xFFFF) = true) ∧
    (let s := executing .report 0 [] (pressed heldPress)
     s.AtRequest .report ⟨.report, 0, []⟩ false ∧ s.tracker.reportList = 4 :: [] ∧
     s.tracker.presses[(4 : PressNo)] = some heldPress ∧
     after (exec (.report .request) s)
       (fun t => t.tracker.presses[(4 : PressNo)] = some { heldPress with startPending := false }) = true) ∧
    (let s := executing .report 0 [] (pressed endedPress)
     s.tracker.presses[(4 : PressNo)] = some endedPress ∧
     after (exec (.report .request) s) (fun t => t.tracker.presses[(4 : PressNo)] = none) = true) ∧
    (heldPress.frames ≤ 65535 ∧ reportWords 4 heldPress = [0x0104, 0x2009, 0x0311, 0x55, 0xFFFF, 4]) ∧
    (let s := executing .pressRead 15 [] (pressed heldPress)
     s.AtRequest .pressRead ⟨.pressRead, 15, []⟩ false ∧ s.tracker.presses[argPress 15] = none ∧
     after (exec (.pressRead .request) s) (fun t => t.port.completion.outcome = .noSuchPress) = true) ∧
    (let s := executing .pressRead 4 [] (pressed heldPress)
     s.AtRequest .pressRead ⟨.pressRead, 4, []⟩ false ∧ s.tracker.presses[argPress 4] = some heldPress ∧
     after (exec (.pressRead .request) s) (fun t => t.port.engine.offered = some 0x0104) = true) := by
  decide +kernel

/-- One relay record, of the entry of the tests. -/
def relayed (stale : Bool) (mode : RelayMode) (s : State := stocked) : State :=
  { s with relays := s.relays.set 1 (some ⟨stale, buttonHandle, 1, 1, buttonHandle, mode, .none⟩) }

/-- The record of the source is overwritten; the lowest EMPTY record is taken; a full map refuses. -/
theorem test_witness_RelayMapCommandsActOnOneRecord_set :
    (let s := executing .relaySet 0 [0x0311, 0x0311, 0x1011] (relayed true .follow)
     s.AtRequest .relaySet ⟨.relaySet, 0, [0x0311, 0x0311, 0x1011]⟩ false ∧ s.mail.retires = [] ∧
     Handle.ofWord 0x0311 = some buttonHandle ∧
     s.relays[(1 : RelayNo)] = some ⟨true, buttonHandle, 1, 1, buttonHandle, .follow, .none⟩ ∧
     (∀ m : RelayNo, m ≠ 1 → s.relays[m] = none) ∧
     after (exec (.relaySet .request) s) (fun t => t.relays[(1 : RelayNo)] =
       some ⟨false, buttonHandle, 1, 1, buttonHandle, .once 1, .none⟩ ∧ t.port.engine.offered = some 1) = true) ∧
    (let s := executing .relaySet 0 [0x0112, 0x0311, 0x0111] (relayed false .follow)
     Handle.ofWord 0x0112 = some ⟨18, 1⟩ ∧ (∀ m : RelayNo, s.relays[m].map RelayRecord.source ≠ some ⟨18, 1⟩) ∧
     s.relays[(0 : RelayNo)] = none ∧
     after (exec (.relaySet .request) s) (fun t => t.port.engine.offered = some 0) = true) ∧
    (let s := executing .relaySet 0 [0x0112, 0x0311, 0x0111]
       { ready with relays := Vector.replicate 64 (some ⟨false, buttonHandle, 1, 1, buttonHandle, .follow, .none⟩) }
     (∀ m : RelayNo, s.relays[m].map RelayRecord.source ≠ some ⟨18, 1⟩) ∧ (∀ n : RelayNo, s.relays[n] ≠ none) ∧
     after (exec (.relaySet .request) s) (fun t => t.port.completion.outcome = .relayFull) = true) := by
  decide +kernel

theorem test_witness_RelayMapCommandsActOnOneRecord_clear :
    (let s := executing .relayClear 0 [0x0311] (relayed false .follow)
     s.mail.retires = [] ∧ s.AtRequest .relayClear ⟨.relayClear, 0, [0x0311]⟩ false ∧
     (∀ m : RelayNo, m ≠ 1 → s.relays[m] = none) ∧
     after (exec (.relayClear .request) s) (fun t => t.relays[(1 : RelayNo)] = none) = true) ∧
    (let s := executing .relayClear 0 [0xFFFF] (relayed false .follow)
     Handle.ofWord 0xFFFF = none ∧
     after (exec (.relayClear .request) s) (fun t => t.port.completion.outcome = .noSuchEntry) = true) ∧
    (let s := executing .relayRead 0 [63] (relayed false .follow)
     s.AtRequest .relayRead ⟨.relayRead, 0, [63]⟩ false ∧ (63 : Word).toNat = (63 : RelayNo).val ∧
     s.relays[(63 : RelayNo)] = none ∧
     after (exec (.relayRead .request) s) (fun t => t.port.engine.offered = some 0) = true) ∧
    (let s := executing .relayRead 0 [1] (relayed true .follow)
     s.relays[(1 : RelayNo)] = some ⟨true, buttonHandle, 1, 1, buttonHandle, .follow, .none⟩ ∧
     after (exec (.relayRead .request) s) (fun t => t.port.engine.offered = some 2) = true) := by
  decide +kernel

/-- A RELAY CLEAR while a retire notice waits. -/
theorem test_witness_RelayMapCommandsActOnOneRecord_waits :
    let s := executing .relayClear 0 [0x0311] (relayed false .follow)
    let s := { s with mail := { s.mail with retires := [⟨18, 1⟩] } }
    s.mail.retires ≠ [] ∧ s.AtRequest .relayClear ⟨.relayClear, 0, [0x0311]⟩ false ∧
    after (exec (.relayClear .request) s) (fun t => t.relays = s.relays ∧ t.port = s.port) = true := by decide +kernel

/-- The relay word of a ONCE record of the largest count and of a FOLLOW record whose word named a count. -/
theorem test_witness_RelayMapCommandsActOnOneRecord_word :
    (15 < 16 ∧ (⟨false, buttonHandle, 0b1001, 0b10, buttonHandle, .once 15, .none⟩ : RelayRecord).word = 0xF029) ∧
    (let w : Word := 0x7FD6
     let r : RelayRecord := ⟨false, buttonHandle, w.extractLsb' 0 4, w.extractLsb' 4 2, buttonHandle, .follow, .none⟩
     w.getLsbD 8 = true ∧ r.word = 0x0116 ∧ (w &&& 0x013F) = 0x0116) := by decide

/-- The HOST item ends in SPACE after a frame, in INTERVAL, or at once before any frame; a follower ends FLUSHED. -/
theorem test_witness_ItemsEndInOrder :
    (let host := item (.host 7) (.send 1) none
     let follower := { item (.relay ⟨4, 9⟩) .hold none with follow := true }
     [host, follower] = [] ++ host :: [follower] ∧ host.origin = .host 7 ∧ [follower].any Item.fromHost = false ∧
     (stocked.reportItemEnds 0 .flushed [host, follower]).outputs[(0 : OutputId)].completion
       = some { tag := 7, hold := false, outcome := .flushed } ∧
     (stocked.reportItemEnds 0 .flushed [host, follower]).mail.linkClears[(0 : OutputId)] = [⟨4, 9⟩] ∧
     (stocked.reportItemEnds 0 .sent [follower]).mail.linkClears[(0 : OutputId)] = []) ∧
    (let s := sending (.frame (frameAt 3 1100 1800)) [item (.host 7) (.send 1) (activeAs 0)]
     s.outputs[(0 : OutputId)].queue = item (.host 7) (.send 1) (activeAs 0) :: [] ∧
     s.outputs[(0 : OutputId)].state = .frame (frameAt 3 1100 1800) ∧
     (s.endActive 0 .sent 1800).outputs[(0 : OutputId)].state = .space 16800 ∧
     (s.endActive 0 .sent 1800).mail.removals[(0 : OutputId)] = some [5]) ∧
    (let s := sending (.interval 108000) [item (.host 7) .hold (activeAs 1)]
     s.outputs[(0 : OutputId)].state = .interval 108000 ∧ 0 < 1 ∧
     (s.endActive 0 .limit 5000).outputs[(0 : OutputId)].state = .space 20000) ∧
    (let s := sending .grant [item (.host 7) (.send 1) (activeAs 0)]
     s.outputs[(0 : OutputId)].state = .grant ∧
     (s.endActive 0 .stale 0).outputs[(0 : OutputId)].state = .idle) ∧
    (let s := sending .grant [item (.host 7) (.send 1) (activeAs 0), item (.host 8) (.send 1) none]
     (s.endActive 0 .stale 0).outputs[(0 : OutputId)].state = .grant ∧
     (s.endActive 0 .stale 0).claims.output[(0 : OutputId)] = some .frameGrant) := by decide +kernel

/-- The offer is refused by an OFF output, a full queue and a repeated tag; it joins a busy queue, and starts at once on
an IDLE output. -/
theorem test_witness_HostOffersJoinTheQueue :
    (let s := executing .send 0 [0x0311, 0x0701] stocked
     s.AtRequest .send ⟨.send, 0, [0x0311, 0x0701]⟩ false ∧ Handle.ofWord 0x0311 = some buttonHandle ∧
     s.outputs[(0 : OutputId)].config.kind = .off ∧
     after (exec (.send .request) s) (fun t => t.port.completion.outcome = .outputOff) = true) ∧
    (let s := executing .send 0 [0x0311, 0x0701] (sending .grant (List.replicate 8 (item (.host 7) (.send 1) (activeAs 0))))
     s.outputs[(0 : OutputId)].config.kind ≠ .off ∧ 8 ≤ s.outputs[(0 : OutputId)].queue.length ∧
     after (exec (.send .request) s) (fun t => t.port.completion.outcome = .queueFull) = true) ∧
    (let s := executing .holdStart 0 [0x0311, 7] (sending .grant (List.replicate 7 (item (.host 7) .hold (activeAs 0))))
     s.AtRequest .holdStart ⟨.holdStart, 0, [0x0311, 7]⟩ false ∧ s.outputs[(0 : OutputId)].queue.length < 8 ∧
     item (.host 7) .hold (activeAs 0) ∈ s.outputs[(0 : OutputId)].queue ∧
     after (exec (.holdStart .request) s) (fun t => t.port.completion.outcome = .duplicateTag) = true) ∧
    (let s := executing .send 0 [0x0311, 0x0701] (sending .grant (List.replicate 7 (item (.host 7) .hold (activeAs 0))))
     s.outputs[(0 : OutputId)].queue.length < 8 ∧ s.outputs[(0 : OutputId)].state ≠ .idle ∧
     after (exec (.send .request) s) (fun t => t.outputs[(0 : OutputId)].queue.length = 8) = true) ∧
    (let s := executing .holdStart 0 [0x0311, 7] (sending .idle [])
     s.outputs[(0 : OutputId)].state = .idle ∧ s.outputs[(0 : OutputId)].queue = [] ∧
     after (exec (.holdStart .request) s) (fun t => t.outputs[(0 : OutputId)].state = .grant) = true) := by
  decide +kernel

/-- HOLD END of no item, of a QUEUED one, and of the ACTIVE one in FRAME and in INTERVAL; a hold-ended message of a press. -/
theorem test_witness_HoldEndsReachTheirItem :
    (let s := executing .holdEnd 0 [7] (sending .grant [item (.host 7) (.send 1) (activeAs 0)])
     s.AtRequest .holdEnd ⟨.holdEnd, 0, [7]⟩ false ∧
     (∀ x ∈ s.outputs[(0 : OutputId)].queue, ¬(x.origin = .host ((7 : Word).extractLsb' 0 8) ∧ x.form = .hold)) ∧
     after (exec (.holdEnd .request) s) (fun t => t.port.completion.outcome = .noSuchHold) = true) ∧
    (let s := executing .holdEnd 0 [7]
       (sending .grant [item (.host 8) .hold (activeAs 0), item (.host 7) .hold none])
     s.outputs[(0 : OutputId)].queue = [item (.host 8) .hold (activeAs 0)] ++ item (.host 7) .hold none :: [] ∧
     after (exec (.holdEnd .request) s)
       (fun t => t.outputs[(0 : OutputId)].queue.map Item.holdEnded = [false, true]) = true) ∧
    (let s := executing .holdEnd 0 [7] (sending (.frame (frameAt 1 0 500)) [item (.host 7) .hold (activeAs 0)])
     s.outputs[(0 : OutputId)].state = .frame (frameAt 1 0 500) ∧
     after (exec (.holdEnd .request) s)
       (fun t => t.outputs[(0 : OutputId)].queue.map Item.endPending = [some .sent]) = true) ∧
    (let s := executing .holdEnd 0 [7] (sending (.interval 108000) [item (.host 7) .hold (activeAs 1)])
     s.outputs[(0 : OutputId)].state = .interval 108000 ∧
     after (exec (.holdEnd .request) s) (fun t => t.outputs[(0 : OutputId)].state = .space 15000) = true) ∧
    (let s := { sending .grant [{ item (.relay ⟨4, 9⟩) .hold (activeAs 0) with follow := true }] with
       mail := { stocked.mail with holdEnded := stocked.mail.holdEnded.set 0 [⟨4, 9⟩] } }
     s.mail.holdEnded[(0 : OutputId)] = ⟨4, 9⟩ :: [] ∧
     after (exec (.holdEnded 0) s)
       (fun t => t.outputs[(0 : OutputId)].queue.map Item.endPending = [some .sent]) = true) := by decide +kernel

/-- OUTPUT CONFIGURE cuts a frame; FLUSH of an output in SPACE, in FRAME, in INTERVAL and in GRANT; a toggle bit. -/
theorem test_witness_OutputConfigureAndFlush :
    (let s := executing .outputConfigure 0 [0x0001, 5, 60]
       (sending (.frame (frameAt 1 0 500)) [item (.host 7) .hold (activeAs 0)])
     s.AtRequest .outputConfigure ⟨.outputConfigure, 0, [0x0001, 5, 60]⟩ false ∧
     after (exec (.outputConfigure .request) s) (fun t => t.outputs[(0 : OutputId)].state = .idle ∧
       t.mail.removals[(0 : OutputId)] = some [5]) = true) ∧
    (let s := executing .outputFlush 0 [] (sending (.space 15000) [item (.host 7) .hold none])
     s.AtRequest .outputFlush ⟨.outputFlush, 0, []⟩ false ∧
     (∀ x ∈ s.outputs[(0 : OutputId)].queue.head?, x.active = none) ∧
     after (exec (.outputFlush .request) s) (fun t => t.outputs[(0 : OutputId)].queue = []) = true) ∧
    (let s := executing .outputFlush 0 [] (sending (.frame (frameAt 1 0 500)) [item (.host 7) .hold (activeAs 0)])
     s.outputs[(0 : OutputId)].queue = item (.host 7) .hold (activeAs 0) :: [] ∧
     s.outputs[(0 : OutputId)].state = .frame (frameAt 1 0 500) ∧
     after (exec (.outputFlush .request) s)
       (fun t => t.outputs[(0 : OutputId)].queue.map Item.endPending = [some .flushed]) = true) ∧
    (let s := executing .outputFlush 0 [] (sending (.interval 108000) [item (.host 7) .hold (activeAs 1)])
     s.outputs[(0 : OutputId)].state = .interval 108000 ∧
     after (exec (.outputFlush .request) s) (fun t => t.outputs[(0 : OutputId)].state = .space 15000) = true) ∧
    (let s := executing .outputFlush 0 [] (sending .grant [item (.host 7) .hold (activeAs 0)])
     s.outputs[(0 : OutputId)].state = .grant ∧
     after (exec (.outputFlush .request) s) (fun t => t.outputs[(0 : OutputId)].state = .idle) = true) := by
  decide +kernel

/-! ## Witnesses: the table controller -/

/-- A candidate whose last run stands on the window's high bound, one microsecond
past it, and one whose cell carries a fault mark. -/
theorem test_witness_CandidatesAreComparedRunByRun :
    let c : Contender := { owner := .stored (.frame 17 .main), runCount := 3, chain := [5], tolerance := 3, inputMask := 3 }
    windowHigh 3 700 = 805 ∧
    compareCandidate stocked.pool c (([500, 600, 805] : List Nat).zipIdx 1) = .matched ∧
    compareCandidate stocked.pool c (([500, 600, 806] : List Nat).zipIdx 1) = .apart ∧
    compareCandidate (stocked.pool.recordFault 5) c (([500, 600, 805] : List Nat).zipIdx 1) = .fault 5 := by
  decide +kernel

/-- Runs 1, 8 and 9 of two cells; a wrong parity bit; a fault mark, which takes every run of its cell; no such run. -/
theorem test_witness_CandidatesAreComparedRunByRun_reads :
    let s := withCells stocked [(8, cellOf .owned [16, 2, 3, 4, 5, 6, 7, 60000]), (9, cellOf .owned [700])]
    let flipped := s.pool.modifyCell 8 (fun c => { c with runs := c.runs.set 7 ⟨c.runs[(7 : Fin 8)].value, !c.runs[(7 : Fin 8)].parity⟩ })
    ([8, 9] : List CellNo)[7 / 8]? = some 8 ∧ ([8, 9] : List CellNo)[8 / 8]? = some 9 ∧
    ([8, 9] : List CellNo)[16 / 8]? = none ∧
    s.pool.readRun [8, 9] 1 = .value 16 ∧ s.pool.readRun [8, 9] 8 = .value 60000 ∧ s.pool.readRun [8, 9] 9 = .value 700 ∧
    s.pool.readRun [8, 9] 17 = .absent ∧
    flipped.readRun [8, 9] 8 = .unreadable 8 ∧ flipped.readRun [8, 9] 7 = .value 7 ∧
    (flipped.recordFault 8).readRun [8, 9] 7 = .unreadable 8 ∧ (flipped.recordFault 8).readRun [8, 9] 9 = .value 700 := by
  decide +kernel

/-- Run 9 of an alternate of 9 runs is stored in the fourth reserved cell and reads back there; the run beside it stays. -/
theorem test_witness_CandidatesAreComparedRunByRun_stored :
    let s := withCells (awaiting .entryInstall [] [10, 11, 12, 13]) [(13, cellOf .reserved [500, 600])]
    let t := s.storeRun ⟨.entryInstall, 0, [0x2103, 0x77, 9] ++ List.replicate 17 500⟩ 777
    17 < 2 * 9 ∧ s.pool.reservation[(9 + 7) / 8 + (17 - 9) / 8]? = some 13 ∧ (17 - 9) % 8 = 0 ∧
    s.pool.cells[(13 : CellNo)].fault = false ∧ ([13] : List CellNo)[0 / 8]? = some 13 ∧
    t.pool.readRun [13] 1 = .value 777 ∧ t.pool.readRun [13] 2 = .value 600 := by decide +kernel

/-- A burst heard on IN0. -/
def burst (runs : List Nat) : Burst := ⟨0, .envelope, runs, none, 100, 2000⟩

/-- IN0 holds the burst and its claim has the turn. -/
def looking (runs : List Nat) (s : State := stocked) : State :=
  { s with
    inputs := s.inputs.set 0 { s.inputs[(0 : InputId)] with held := some (burst runs) }
    claims := { s.claims with lookup := s.claims.lookup.set 0 true } }

/-- The comparison of a pattern of the bin with a burst. -/
def verdictOf (s : State) (runs : List Nat) (ref : PatternRef) : Option CandidateVerdict :=
  (s.contenderOf ref).map (fun c => compareCandidate s.pool c (runs.zipIdx 1))

/-- No match; the alternate pattern; the repeat pattern. -/
theorem test_witness_LookupReportsTheMatch :
    (let s := looking [100, 100, 100]
     s.turnOf (.input 0) = true ∧ s.inputs[(0 : InputId)].held = some (burst [100, 100, 100]) ∧
     (∀ ref ∈ (s.binList 3).filter (fun ref => s.isCandidate (burst [100, 100, 100]) ref),
       verdictOf s [100, 100, 100] ref = some .apart) ∧
     (s.binList 3).filter (fun ref => s.isCandidate (burst [100, 100, 100]) ref) ≠ [] ∧
     after (exec (.lookup 0) s) (fun t => t.mail.sticky[(0 : InputId)] = [.unmatched]) = true) ∧
    (let s := looking [850, 600, 700]
     let candidates := (s.binList 3).filter (fun ref => s.isCandidate (burst [850, 600, 700]) ref)
     .frame 17 .alternate ∈ candidates ∧ verdictOf s [850, 600, 700] (.frame 17 .alternate) = some .matched ∧
     (∀ ref ∈ candidates, ref ≠ .frame 17 .alternate → verdictOf s [850, 600, 700] ref = some .apart) ∧
     s.installedAt 17 = some button ∧ button.status ≠ .damaged ∧ s.groups[button.group] = some remote ∧
     after (exec (.lookup 0) s) (fun t => t.mail.path =
       [.result ⟨0, 100, 2000, .entry ⟨2, buttonHandle, .alternate, 0x55, 120, 30⟩⟩]) = true) ∧
    (let s := looking [9000, 2250, 560]
     let candidates := (s.binList 3).filter (fun ref => s.isCandidate (burst [9000, 2250, 560]) ref)
     .ofGroup 2 ∈ candidates ∧ verdictOf s [9000, 2250, 560] (.ofGroup 2) = some .matched ∧
     (∀ ref ∈ candidates, ref ≠ .ofGroup 2 → verdictOf s [9000, 2250, 560] ref = some .apart) ∧
     s.groups[(2 : GroupNo)] = some remote ∧
     after (exec (.lookup 0) s) (fun t => t.mail.path = [.result ⟨0, 100, 2000, .ofGroup ⟨2, 120, 30⟩⟩]) = true) := by
  decide +kernel

/-- A fault met in the alternate after the main pattern has matched: the match is dropped. The burst lies apart from the
repeat pattern, meets the fault behind it, and matches the alternate when its main pattern has none. -/
theorem test_witness_LookupReportsTheMatch_faults :
    (let s := looking [500, 600, 700] { stocked with pool := stocked.pool.recordFault 6 }
     let b := burst [500, 600, 700]
     let s' : State := { s with working := some b }
     .frame 17 .main ∈ s'.binList b.runs.length ∧ s'.isCandidate b (.frame 17 .main) = true ∧
     verdictOf s' b.runs (.ofGroup 2) = some .apart ∧ verdictOf s' b.runs (.frame 17 .main) = some .matched ∧
     verdictOf s' b.runs (.frame 17 .alternate) = some (.fault 6) ∧
     PatternRef.frame 18 .main ∉ s'.binList b.runs.length ∧
     s.turnOf (.input 0) = true ∧ s.inputs[(0 : InputId)].held = some b ∧
     after (exec (.lookup 0) s) (fun t => t.mail.path =
       [.entryDamaged buttonHandle, .result ⟨0, 100, 2000, .none⟩] ∧
       t.mail.sticky[(0 : InputId)] = [.unmatched] ∧ t.binList 3 = [.ofGroup 2]) = true) ∧
    (let s := looking [850, 600, 700] { stocked with pool := stocked.pool.recordFault 7 }
     verdictOf s [850, 600, 700] (.ofGroup 2) = some (.fault 7) ∧
     after (exec (.lookup 0) s) (fun t => t.mail.path =
       [.result ⟨0, 100, 2000, .entry ⟨2, buttonHandle, .alternate, 0x55, 120, 30⟩⟩] ∧
       t.binList 3 = [.frame 17 .main, .frame 17 .alternate]) = true) := by decide +kernel

theorem test_witness_FaultsMarkThePatternDamaged :
    (stocked.installedAt 17 = some button ∧ button.status ≠ .damaged ∧
      (stocked.damagePattern (.frame 17 .alternate)).binList 3 = [.ofGroup 2] ∧
      (stocked.damagePattern (.frame 17 .alternate)).mail.path = [.entryDamaged buttonHandle]) ∧
    ((stockedAs .damaged).installedAt 17 = some { button with status := .damaged } ∧
      ((stockedAs .damaged).damagePattern (.frame 17 .main)).mail.path = []) ∧
    (stocked.groups[(2 : GroupNo)] = some remote ∧ remote.repeatPattern = some ⟨3, [7]⟩ ∧ remote.repeatDamaged = false ∧
      (stocked.damagePattern (.ofGroup 2)).groups[(2 : GroupNo)] = some { remote with repeatDamaged := true }) ∧
    (let s := { stocked with groups := stocked.groups.set 2 (some { remote with repeatDamaged := true }) }
     s.groups[(2 : GroupNo)] = some { remote with repeatDamaged := true } ∧
     (s.damagePattern (.ofGroup 2)).port.attention.table = false) := by decide +kernel

/-- TX0 in GRANT with its claim, which has the turn. -/
def granting (a : Option ActiveItem) (s : State := stocked) : State :=
  let s := sending .grant [item (.host 7) (.send 2) a] s
  { s with claims := { s.claims with output := s.claims.output.set 0 (some .frameGrant) } }

/-- A handle that is not current, a DAMAGED entry, the first frame, and a later one by the repeat pattern. -/
theorem test_witness_FrameGrantsAreAnsweredInOrder :
    (let s := granting (activeAs 0) ready
     s.claims.output[(0 : OutputId)] = some .frameGrant ∧ s.turnOf (.output 0) = true ∧
     s.mail.removals[(0 : OutputId)] = none ∧
     s.outputs[(0 : OutputId)].queue = item (.host 7) (.send 2) (activeAs 0) :: [] ∧
     s.currentEntry buttonHandle = none ∧
     after (exec (.frameGrant 0) s) (fun t => t.outputs[(0 : OutputId)].completion.map Completion.outcome = some .stale) = true) ∧
    (let s := granting (activeAs 0) (stockedAs .damaged)
     s.currentEntry buttonHandle = some { button with status := .damaged } ∧
     after (exec (.frameGrant 0) s) (fun t => t.outputs[(0 : OutputId)].completion.map Completion.outcome = some .damaged) = true) ∧
    (let s := granting (activeAs 0)
     s.turnOf (.output 0) = true ∧ s.currentEntry buttonHandle = some button ∧ s.groups[button.group] = some remote ∧
     button.chainOf .main = some [5] ∧ s.pool.readRun [5] 1 = .value 500 ∧
     after (exec (.frameGrant 0) s) (fun t => t.outputs[(0 : OutputId)].state = .frame (frameAt 1 0 500) ∧
       t.pool.cells[(5 : CellNo)].refs = 1) = true) ∧
    (let s := granting (activeAs 1)
     0 < 1 ∧ remote.repeatDamaged = false ∧ remote.repeatPattern = some ⟨3, [7]⟩ ∧
     s.pool.readRun [7] 1 = .value 9000 ∧
     after (exec (.frameGrant 0) s) (fun t => t.outputs[(0 : OutputId)].state =
       .frame { frameAt 1 0 9000 with sent := .repeatOf 2, chain := [7] }) = true) := by decide +kernel

/-- The first run of the chain is unreadable: it is not driven; and a grant waits for the references of an earlier frame
to be removed. -/
theorem test_witness_FrameGrantsAreAnsweredInOrder_waits :
    (let s := granting (activeAs 0) { stocked with pool := stocked.pool.recordFault 5 }
     s.turnOf (.output 0) = true ∧ s.mail.removals[(0 : OutputId)] = none ∧ s.pool.readRun [5] 1 = .unreadable 5 ∧
     after (exec (.frameGrant 0) s) (fun t => t.outputs[(0 : OutputId)].state = .frame (frameAt 0 0 0) ∧
       t.txActive 0 0 = false) = true) ∧
    (let s := granting (activeAs 0)
       { stocked with mail := { stocked.mail with removals := stocked.mail.removals.set 0 (some [7]) } }
     s.mail.removals[(0 : OutputId)] ≠ none ∧
     after (exec (.frameGrant 0) s) (fun t => t.outputs[(0 : OutputId)].state = .grant ∧
       t.claims.output[(0 : OutputId)] = some .frameGrant) = true) := by decide +kernel

/-- The damage notice of TX0 has the turn. -/
def reporting (sent : SentPattern) (cell : CellNo) (s : State := stocked) : State :=
  { s with claims := { s.claims with output := s.claims.output.set 0 (some (.damage ⟨buttonHandle, sent, cell⟩)) } }

theorem test_witness_DamageNoticesMarkWhatStands :
    (let s := reporting (.frame .main) 5 (sending .grant [item (.host 7) (.send 2) (activeAs 0)])
     s.claims.output[(0 : OutputId)] = some (.damage ⟨buttonHandle, .frame .main, 5⟩) ∧ s.turnOf (.output 0) = true ∧
     s.mail.removals[(0 : OutputId)] = none ∧
     s.currentEntry buttonHandle = some button ∧ button.chainOf .main = some [5] ∧ (5 : CellNo) ∈ ([5] : List CellNo) ∧
     s.pool.cells[(5 : CellNo)].condition = .owned ∧
     after (exec (.damageNotice 0) s) (fun t => t.claims.output[(0 : OutputId)] = some .frameGrant ∧
       (t.installedAt 17).map Installed.status = some .damaged) = true) ∧
    (let s := reporting (.frame .main) 6
     s.currentEntry buttonHandle = some button ∧ (6 : CellNo) ∉ button.main ∧
     after (exec (.damageNotice 0) s) (fun t => t.port.attention.table ∧ t.entries = s.entries) = true) ∧
    (let s := reporting (.repeatOf 2) 7
     s.groups[(2 : GroupNo)] = some remote ∧ remote.repeatPattern = some ⟨3, [7]⟩ ∧
     s.pool.cells[(7 : CellNo)].condition = .owned ∧
     after (exec (.damageNotice 0) s) (fun t => t.groups[(2 : GroupNo)].map Group.repeatDamaged = some true) = true) ∧
    (let s := reporting (.repeatOf 3) 7
     s.groups[(3 : GroupNo)] = none ∧
     after (exec (.damageNotice 0) s) (fun t => t.port.attention.table ∧ t.groups = s.groups) = true) ∧
    (let s := { reporting (.repeatOf 2) 7 with
       mail := { stocked.mail with removals := stocked.mail.removals.set 0 (some [7]) } }
     s.mail.removals[(0 : OutputId)] ≠ none ∧
     after (exec (.damageNotice 0) s) (fun t => t.claims = s.claims ∧ t.groups = s.groups) = true) := by
  decide +kernel

/-! ## Witnesses: table steps of the host -/

/-- A command in PARAMETER whose parameter step has the turn. -/
def atParameter (h : HostStep) (c : HostCommand) (arg : BitVec 8) (words : List Word) (s : State := stocked) : State :=
  { engineAt s (.parameter ⟨c, arg, words⟩ (.step false)) with claims := { s.claims with host := some h } }

/-- The five tests of the install one after another, with the counts 2, 4 and 129 refused and 127 accepted, and the last
cell taken. -/
theorem test_witness_ParameterStepsTestInOrder_install :
    let at_ := fun (w : Word) (key n : Word) (s : State) => atParameter .installParameter .entryInstall 0 [w, key, n] s
    let outcome := fun (o : HostOutcome) (s : State) =>
      after (exec .installParameterStep s) (fun t => t.port.completion.outcome = o)
    (at_ 0x2003 0x77 3 stocked).AtParameterStep .installParameter ⟨.entryInstall, 0, [0x2003, 0x77, 3]⟩ false ∧
    outcome .noSuchGroup (at_ 0x3003 0x77 3 stocked) = true ∧
    outcome .badParameter (at_ 0x2003 0x77 2 stocked) = true ∧
    outcome .badParameter (at_ 0x2003 0x77 4 stocked) = true ∧
    outcome .badParameter (at_ 0x2003 0x77 129 stocked) = true ∧
    stocked.entries[(17 : SlotNo)].occupant.holdsKey 2 0x55 = true ∧
    outcome .duplicateKey (at_ 0x2003 0x55 3 stocked) = true ∧
    outcome .tableFull (at_ 0x2003 0x77 3
      { stocked with entries := Vector.replicate 128 { generation := 3, occupant := .installed button } }) = true ∧
    (∀ slot : SlotNo, stocked.entries[slot].occupant.holdsKey 2 0x77 = false) ∧
    stocked.entries[(0 : SlotNo)].occupant = .free ∧
    stocked.pool.freeList.length < 16 ∧ outcome .noSpace (at_ 0x2003 0x77 127 stocked) = true ∧
    4 ≤ stocked.pool.freeList.length ∧
    after (exec .installParameterStep (at_ 0x2103 0x77 15 stocked)) (fun t => t.pool.reservation = [10, 11, 12, 13] ∧
      t.pool.freeList = [14] ∧ t.pool.cells[(13 : CellNo)].condition = .reserved ∧ t.port.engine.xreq) = true := by
  decide +kernel

theorem test_witness_ParameterStepsTestInOrder_group :
    let at_ := fun (c : HostCommand) (arg : BitVec 8) (n : Word) (s : State) =>
      atParameter .groupParameter c arg [0, 0, 0, 0, 0, 0, n] s
    let outcome := fun (o : HostOutcome) (s : State) =>
      after (exec .groupParameterStep s) (fun t => t.port.completion.outcome = o)
    (at_ .groupDefine 3 3 stocked).AtParameterStep .groupParameter ⟨.groupDefine, 3, [0, 0, 0, 0, 0, 0, 3]⟩ false ∧
    outcome .groupDefined (at_ .groupDefine 2 3 stocked) = true ∧
    outcome .noSuchGroup (at_ .groupEdit 3 3 stocked) = true ∧
    stocked.groups[argGroup 3] = none ∧ outcome .badParameter (at_ .groupDefine 3 17 stocked) = true ∧
    outcome .noSpace (at_ .groupDefine 3 15 { stocked with pool := { stocked.pool with freeList := [10] } }) = true ∧
    after (exec .groupParameterStep (at_ .groupEdit 2 7 stocked)) (fun t => t.pool.reservation = [10]) = true ∧
    after (exec .groupParameterStep (at_ .groupDefine 3 9 stocked)) (fun t => t.pool.reservation = [10, 11]) = true := by
  decide +kernel

/-- The cells 10 and 11 reserved for an install of slot 0. -/
def loading (entries : State → Vector Entry 128) (s : State := stocked) : State :=
  withCells { s with entries := entries s, pool := { s.pool with reservation := [10, 11], freeList := [12] } }
    [(10, cellOf .reserved [500, 1700, 700]), (11, { cellOf .reserved [2500, 600, 700] with fault := false })]

/-- Slot 0 is LOADING with generation 15. -/
def loadSlot (alternate : Bool) (s : State) : Vector Entry 128 :=
  s.entries.set 0 { generation := 15, occupant := .loading ⟨2, 0x77, 3, 3, alternate⟩ }

theorem test_witness_CleanUpGivesEverythingBack :
    (([5, 6] : List CellNo).Nodup ∧ (stocked.returnCells [5, 6]).pool.freeList = [10, 11, 12, 13, 14, 5, 6] ∧
      (State.returnCells { stocked with pool := stocked.pool.recordFault 5 } [5, 6]).port.attention.table = true) ∧
    (let s := { engineAt (loading (loadSlot false)) (.cleanup ⟨.entryInstall, 0, []⟩ .badRun) with
       claims := { stocked.claims with host := some .cleanUp } }
     s.claims.host = some .cleanUp ∧ s.turnOf .host = true ∧ s.port.engine = .cleanup ⟨.entryInstall, 0, []⟩ .badRun ∧
     s.entries[(0 : SlotNo)].occupant = .loading ⟨2, 0x77, 3, 3, false⟩ ∧
     after (exec .parameterPhaseCleanUp s) (fun t => t.pool.freeList = [12, 10, 11] ∧
       t.entries[(0 : SlotNo)] = ⟨15, .free⟩ ∧ t.port.completion.outcome = .badRun) = true) ∧
    (let s := { engineAt (loading State.entries) (.cleanup ⟨.groupDefine, 3, []⟩ .aborted) with
       claims := { stocked.claims with host := some .cleanUp } }
     (∀ slot : SlotNo, slot = 17 ∨ s.entries[slot].occupant = .free) ∧
     after (exec .parameterPhaseCleanUp s) (fun t => t.pool.freeList = [12, 10, 11]) = true) := by decide +kernel

/-- Two readable patterns without a conflict and, with a wider class, with one. -/
theorem test_witness_ConflictCheckFindsWindowOverlaps :
    let p : Contender := ⟨.reservedRepeat, 3, [6], 0, 1⟩
    let q : Contender := ⟨.stored (.frame 17 .main), 3, [5], 0, 1⟩
    (∀ c ∈ [p] ++ [q], ∀ k : Fin 4, 1 ≤ k.val →
      stocked.pool.readRun c.chain k = .value (([500, 600, 700] : List Nat).getD (k - 1) 0) ∨
      stocked.pool.readRun c.chain k = .value (([1000, 600, 700] : List Nat).getD (k - 1) 0)) ∧
    (conflictCheck [p] [q] stocked).2 = .clear ∧
    (conflictCheck [p] [{ q with chain := [6] }] stocked).2 = .conflict (.stored (.frame 17 .main)) ∧
    (conflictCheck [p, { q with chain := [6] }] [] stocked).2 = .conflict (.stored (.frame 17 .main)) := by decide +kernel

/-- A pattern of 3 runs in one cell, of class 3. -/
def inCell (owner : ContenderOwner) (c : CellNo) : Contender := ⟨owner, 3, [c], 3, 1⟩

/-- A reserved pattern that conflicts with the patterns of two other cells. -/
def threePatterns : State :=
  withCells stocked [(8, cellOf .owned [500, 600, 800]), (10, cellOf .reserved [500, 600, 750])]

/-- Two patterns of the set conflict with the pattern under test: the first in the order of the set is named. With two under
test that conflict, the second of them is named before the set is read. -/
theorem test_witness_ConflictCheckFindsWindowOverlaps_first :
    threePatterns.pool.readRun [10] 3 = .value 750 ∧ threePatterns.pool.readRun [5] 3 = .value 700 ∧
    threePatterns.pool.readRun [8] 3 = .value 800 ∧
    (let q := inCell (.stored (.frame 17 .main)) 5
     let r := inCell (.stored (.frame 18 .main)) 8
     let named := fun (underTest set : List Contender) => (conflictCheck underTest set threePatterns).2
     named [inCell .reservedRepeat 10] [q, r] = .conflict (.stored (.frame 17 .main)) ∧
     named [inCell .reservedRepeat 10] [r, q] = .conflict (.stored (.frame 18 .main)) ∧
     named [inCell .reservedRepeat 10, r] [q] = .conflict (.stored (.frame 18 .main))) := by decide +kernel

/-- The set in its order. -/
theorem test_witness_ConflictCheckFindsWindowOverlaps_order :
    (lawful.conflictSet (fun _ => false)).map Contender.owner = [.stored (.frame 17 .main),
      .stored (.frame 17 .alternate), .stored (.frame 18 .main), .stored (.frame 18 .alternate), .stored (.ofGroup 2)] := by decide +kernel

/-- The windows of two runs that touch and that are one microsecond apart, at the bottom of the range and under a wide
class. -/
theorem test_witness_ConflictCheckFindsWindowOverlaps_windows :
    windowsIntersect 0 500 0 580 = true ∧ windowsIntersect 0 500 0 581 = false ∧ windowsIntersect 0 16 0 16 = true ∧
    windowsIntersect 7 1000 0 1382 = true ∧ windowsIntersect 7 1000 0 1383 = false := by decide

/-- A stored pattern whose cell carries a fault mark: its runs count as intersecting and its entry is marked damaged at
once; in the reserved cell of the pattern under test the check stops. -/
theorem test_witness_ConflictCheckFindsWindowOverlaps_unreadable :
    let p : Contender := ⟨.reservedRepeat, 3, [10], 0, 1⟩
    let q : Contender := ⟨.stored (.frame 17 .main), 3, [5], 0, 1⟩
    let s := withCells stocked [(10, cellOf .reserved [9000, 600, 700])]
    let fault := fun (c : CellNo) => ({ s with pool := s.pool.recordFault c } : State)
    (conflictCheck [p] [q] s).2 = .clear ∧
    (fault 5).pool.readRun [5] 1 = .unreadable 5 ∧ (fault 10).pool.readRun [10] 1 = .unreadable 10 ∧
    (let r := conflictCheck [p] [q] (fault 5)
     r.2 = .conflict (.stored (.frame 17 .main)) ∧ (r.1.installedAt 17).map Installed.status = some .damaged ∧
     r.1.mail.path = [.entryDamaged buttonHandle]) ∧
    (let r := conflictCheck [p] [q] (fault 10)
     r.2 = .unreadable ∧ r.1.pool.cells[(10 : CellNo)].fault = true) ∧
    stocked.conflictResult (.stored (.frame 17 .alternate)) = [2, 0x0311] := by decide +kernel

/-- The group of an install; the patterns under test of an edit of the group, and the set of an edit of its entry. -/
theorem test_witness_ConflictCheckFindsWindowOverlaps_patterns :
    stocked.groups[(⟨2, 0x77, 3, 3, true⟩ : Loading).group] = some remote ∧
    repeatChoice 0x0223 = 0 ∧ repeatChoice 0x1223 = 1 ∧
    (stocked.editUnderTest 2 ⟨.groupEdit, 2, [0x0421]⟩).map (fun c => (c.owner, c.tolerance, c.inputMask)) =
      [(.stored (.ofGroup 2), 4, 1), (.stored (.frame 17 .main), 3, 1), (.stored (.frame 17 .alternate), 3, 1)] ∧
    (stocked.conflictSet (ofSlot 17)).map Contender.owner = [.stored (.ofGroup 2)] ∧
    (stocked.framesUnder 17 7).map (fun c => (c.owner, c.tolerance)) =
      [(.stored (.frame 17 .main), 7), (.stored (.frame 17 .alternate), 7)] := by decide +kernel

/-- The install of slot 0 without a conflict, with one, and with an unreadable reserved run; the generation after 15 is
1. -/
theorem test_witness_InstallFinalStepInstallsOrRefuses :
    (let s := { executing .entryInstall 0 [] (loading (loadSlot true)) with
       claims := { stocked.claims with host := some .installFinal } }
     s.AtStep .installFinal ⟨.entryInstall, 0, []⟩ false ∧
     s.entries[(0 : SlotNo)].occupant = .loading ⟨2, 0x77, 3, 3, true⟩ ∧
     (∀ slot : SlotNo, slot = 0 ∨ slot = 17 ∨ s.entries[slot].occupant = .free) ∧
     (binOf 3).isSome = true ∧ s.groups[(2 : GroupNo)] = some remote ∧
     after (exec .installFinalStep s) (fun t => t.port.engine.offered = some 0x0100 ∧
       t.binList 3 = [.ofGroup 2, .frame 17 .main, .frame 17 .alternate, .frame 0 .main, .frame 0 .alternate] ∧
       t.pool.cells[(11 : CellNo)].condition = .owned) = true) ∧
    (let s := { executing .entryInstall 0 [] (withCells (loading (loadSlot false)) [(10, cellOf .reserved [500, 600, 700])]) with
       claims := { stocked.claims with host := some .installFinal } }
     after (exec .installFinalStep s) (fun t => t.port.engine = .result ⟨.entryInstall, 0, []⟩ .conflict 1 [0x0311] 0 ∧
       t.entries[(0 : SlotNo)] = ⟨15, .free⟩) = true) ∧
    (let s := { executing .entryInstall 0 []
         (withCells (loading (loadSlot false)) [(10, { cellOf .reserved [500, 600, 700] with fault := true })]) with
       claims := { stocked.claims with host := some .installFinal } }
     after (exec .installFinalStep s) (fun t => t.port.completion.outcome = .entryDamaged ∧
       t.pool.cells[(10 : CellNo)].condition = .withheld) = true) := by decide +kernel

/-- Group settings words: no repeat pattern, one supplied, one removed. -/
def settingsWordsOf (choice : Nat) (n : Word) : List Word :=
  [BitVec.ofNat 16 (0x0223 + choice * 4096), 0x044C, 76, 120, 108, 30, n]

/-- Group 3 defined without and with a repeat pattern; groups 2 and 3 removed or refused. -/
theorem test_witness_GroupsAreDefinedAndRemoved :
    (let s := stepping .groupDefineFinal .groupDefine 3 (settingsWordsOf 0 0) stocked
     s.AtStep .groupDefineFinal ⟨.groupDefine, 3, settingsWordsOf 0 0⟩ false ∧
     repeatChoice ((settingsWordsOf 0 0).getD 0 0) ≠ 1 ∧ s.groups[(3 : GroupNo)] = none ∧
     after (exec .groupDefineFinalStep s) (fun t => t.groups[(3 : GroupNo)] =
       some { settings := settings, repeatPattern := none, repeatDamaged := false, entryCount := 0 }) = true) ∧
    (let s := stepping .groupDefineFinal .groupDefine 2 (settingsWordsOf 0 0) stocked
     s.groups[(2 : GroupNo)] ≠ none ∧
     after (exec .groupDefineFinalStep s) (fun t => t.port.completion.outcome = .groupDefined) = true) ∧
    (let s := stepping .groupDefineFinal .groupDefine 3 (settingsWordsOf 1 3)
       { withCells stocked [(10, cellOf .reserved [3000, 3000, 3000])] with
         pool := { (withCells stocked [(10, cellOf .reserved [3000, 3000, 3000])]).pool with reservation := [10] } }
     repeatChoice ((settingsWordsOf 1 3).getD 0 0) = 1 ∧
     after (exec .groupDefineFinalStep s) (fun t => t.groups[(3 : GroupNo)].bind Group.repeatPattern = some ⟨3, [10]⟩ ∧
       t.binList 3 = [.ofGroup 2, .frame 17 .main, .frame 17 .alternate, .ofGroup 3]) = true) ∧
    (let s := stepping .groupDefineFinal .groupDefine 3 (settingsWordsOf 1 3)
       { withCells stocked [(10, cellOf .reserved [9000, 2250, 560])] with
         pool := { (withCells stocked [(10, cellOf .reserved [9000, 2250, 560])]).pool with reservation := [10] } }
     after (exec .groupDefineFinalStep s)
       (fun t => t.port.engine = .result ⟨.groupDefine, 3, settingsWordsOf 1 3⟩ .conflict 3 [2] 0) = true) ∧
    (let faulty := { cellOf .reserved [3000, 3000, 3000] with fault := true }
     let s := stepping .groupDefineFinal .groupDefine 3 (settingsWordsOf 1 3)
       { withCells stocked [(10, faulty)] with
         pool := { (withCells stocked [(10, faulty)]).pool with reservation := [10] } }
     s.AtStep .groupDefineFinal ⟨.groupDefine, 3, settingsWordsOf 1 3⟩ false ∧
     after (exec .groupDefineFinalStep s) (fun t => t.port.completion.outcome = .entryDamaged ∧
       t.groups[(3 : GroupNo)] = none ∧ t.pool.cells[(10 : CellNo)].condition = .withheld) = true) ∧
    (let s := stepping .groupRemove .groupRemove 3 [] stocked
     s.AtStep .groupRemove ⟨.groupRemove, 3, []⟩ false ∧ s.groups[(3 : GroupNo)] = none ∧
     after (exec .groupRemoveStep s) (fun t => t.port.completion.outcome = .noSuchGroup) = true) ∧
    (let s := stepping .groupRemove .groupRemove 2 [] stocked
     0 < remote.entryCount ∧
     after (exec .groupRemoveStep s) (fun t => t.port.completion.outcome = .groupNotEmpty) = true) ∧
    (let s := stepping .groupRemove .groupRemove 2 []
       { stocked with groups := stocked.groups.set 2 (some { remote with entryCount := 0 }) }
     s.groups[(2 : GroupNo)] = some { remote with entryCount := 0 } ∧
     after (exec .groupRemoveStep s) (fun t => t.groups[(2 : GroupNo)] = none ∧ t.mail.releases = [[7]] ∧
       t.binList 3 = [.frame 17 .main, .frame 17 .alternate]) = true) := by decide +kernel

/-- A group edit that keeps, replaces and removes the repeat pattern; a group that is not there; a conflict. -/
theorem test_witness_GroupEditChangesTheGroupWhole :
    let reserved := fun (runs : List Nat) =>
      ({ withCells stocked [(10, cellOf .reserved runs)] with
         pool := { (withCells stocked [(10, cellOf .reserved runs)]).pool with reservation := [10] } } : State)
    let edit := fun (arg : BitVec 8) (choice : Nat) (s : State) =>
      stepping .groupEditFinal .groupEdit arg (settingsWordsOf choice 3) s
    (edit 2 0 stocked).AtStep .groupEditFinal ⟨.groupEdit, 2, settingsWordsOf 0 3⟩ false ∧
    (stocked.groups[(3 : GroupNo)] = none ∧
      after (exec .groupEditFinalStep (edit 3 0 stocked)) (fun t => t.port.completion.outcome = .noSuchGroup) = true) ∧
    (stocked.groups[(2 : GroupNo)] = some remote ∧ repeatChoice ((settingsWordsOf 0 3).getD 0 0) = 0 ∧
      after (exec .groupEditFinalStep (edit 2 0 stocked)) (fun t => t.mail.path = [.groupChanged 2] ∧
        t.mail.releases = [] ∧ t.bins = stocked.bins) = true) ∧
    (repeatChoice ((settingsWordsOf 1 3).getD 0 0) = 1 ∧
      after (exec .groupEditFinalStep (edit 2 1 (reserved [9000, 2250, 560]))) (fun t => t.mail.releases = [[7]] ∧
        t.groups[(2 : GroupNo)].bind Group.repeatPattern = some ⟨3, [10]⟩ ∧
        t.binList 3 = [.frame 17 .main, .frame 17 .alternate, .ofGroup 2]) = true) ∧
    (repeatChoice ((settingsWordsOf 2 3).getD 0 0) = 2 ∧
      after (exec .groupEditFinalStep (edit 2 2 stocked)) (fun t => t.mail.releases = [[7]] ∧
        t.binList 3 = [.frame 17 .main, .frame 17 .alternate]) = true) ∧
    after (exec .groupEditFinalStep (edit 2 1 (reserved [500, 600, 700])))
      (fun t => t.port.engine = .result ⟨.groupEdit, 2, settingsWordsOf 1 3⟩ .conflict 1 [0x0311] 0) = true ∧
    (let s := reserved [9000, 2250, 560]
     let s := edit 2 1 { s with pool := s.pool.recordFault 10 }
     s.AtStep .groupEditFinal ⟨.groupEdit, 2, settingsWordsOf 1 3⟩ false ∧ s.pool.readRun [10] 1 = .unreadable 10 ∧
     after (exec .groupEditFinalStep s) (fun t => t.port.completion.outcome = .entryDamaged ∧ t.groups = stocked.groups ∧
       t.pool.cells[(10 : CellNo)].condition = .withheld) = true) := by
  decide +kernel

/-- The part with a second entry of the group, of another key and pattern, in slot 18. -/
def twoEntries : State :=
  let second : Installed := { button with key := 0x56, main := [8], alternate := none }
  withCells { stocked with entries := stocked.entries.set 18 { generation := 1, occupant := .installed second } }
    [(8, cellOf .owned [500, 600, 800])]

/-- No such entry, a DAMAGED one, a key held by another entry, a new key, a new class without and with a conflict. -/
theorem test_witness_EntryEditTestsThenWrites :
    let edit := fun (words : List Word) (s : State) => stepping .entryEdit .entryEdit 0 words s
    let outcome := fun (o : HostOutcome) (s : State) => after (exec .entryEditStep s) (fun t => t.port.completion.outcome = o)
    (edit [0x0311, 1, 0x57] stocked).AtStep .entryEdit ⟨.entryEdit, 0, [0x0311, 1, 0x57]⟩ false ∧
    (stocked.currentWord 0x0111 = none ∧ outcome .noSuchEntry (edit [0x0111, 1, 0x57] stocked) = true) ∧
    ((stockedAs .damaged).currentWord 0x0311 = some (buttonHandle, { button with status := .damaged }) ∧
      outcome .entryDamaged (edit [0x0311, 1, 0x57] (stockedAs .damaged)) = true) ∧
    (stocked.currentWord 0x0311 = some (buttonHandle, button) ∧
      after (exec .entryEditStep (edit [0x0311, 1, 0x57] stocked))
        (fun t => (t.installedAt 17).map Installed.key = some 0x57) = true) ∧
    (twoEntries.entries[(18 : SlotNo)].occupant.holdsKey 2 0x56 = true ∧
      outcome .duplicateKey (edit [0x0311, 1, 0x56] twoEntries) = true) ∧
    after (exec .entryEditStep (edit [0x0311, 0x0702, 0x57] stocked)) (fun t => (t.installedAt 17).map Installed.tolerance = some 7 ∧
      (t.installedAt 17).map Installed.key = some 0x55) = true ∧
    after (exec .entryEditStep (edit [0x0311, 0x0702, 0] twoEntries))
      (fun t => t.port.engine = .result ⟨.entryEdit, 0, [0x0311, 0x0702, 0]⟩ .conflict 1 [0x0112] 0) = true := by
  decide +kernel

/-- Two entries of 9 runs in two cells each, alike but for run 9; the first cell of the entry of the tests is faulty. -/
def longEntries : State :=
  let entry := fun (key : Word) (main : List CellNo) =>
    ({ button with key := key, runCount := 9, main := main, alternate := none } : Installed)
  let s := withCells { stocked with
      entries := (stocked.entries.set 17 { generation := 3, occupant := .installed (entry 0x55 [5, 8]) }).set 18
        { generation := 1, occupant := .installed (entry 0x56 [6, 9]) } }
    [(5, cellOf .owned (List.replicate 8 500)), (8, cellOf .owned [500]), (6, cellOf .owned (List.replicate 8 500)),
      (9, cellOf .owned [2000])]
  { s with pool := s.pool.recordFault 5 }

/-- The class is edited while the runs of the entry's first cell are unreadable: run 9 keeps it apart, so that there is no
conflict, but the check has marked the entry itself. -/
theorem test_witness_EntryEditTestsThenWrites_damaged :
    let s := stepping .entryEdit .entryEdit 0 [0x0311, 0x0402, 0] longEntries
    let r := conflictCheck (s.framesUnder 17 4) (s.conflictSet (ofSlot 17)) s
    s.AtStep .entryEdit ⟨.entryEdit, 0, [0x0311, 0x0402, 0]⟩ false ∧
    (s.currentWord 0x0311).map (fun x => (x.1, x.2.status)) = some (buttonHandle, .active) ∧ r.2 = .clear ∧
    (r.1.installedAt 17).map Installed.status = some .damaged ∧
    after (exec .entryEditStep s) (fun t => t.port.completion.outcome = .entryDamaged ∧
      (t.installedAt 17).map Installed.tolerance = some 3) = true := by decide +kernel

theorem test_witness_EntriesSuspendResumeAndRetire :
    let at_ := fun (h : HostStep) (c : HostCommand) (w : Word) (s : State) => stepping h c 0 [w] s
    (at_ .suspend .entrySuspend 0x0311 stocked).AtStep .suspend ⟨.entrySuspend, 0, [0x0311]⟩ false ∧
    after (exec .suspend (at_ .suspend .entrySuspend 0x0111 stocked)) (fun t => t.port.completion.outcome = .noSuchEntry) = true ∧
    after (exec .resume (at_ .resume .entryResume 0x0311 (stockedAs .damaged)))
      (fun t => t.port.completion.outcome = .entryDamaged) = true ∧
    after (exec .suspend (at_ .suspend .entrySuspend 0x0311 (stockedAs .suspended))) (fun t => t.mail.path = []) = true ∧
    after (exec .resume (at_ .resume .entryResume 0x0311 stocked)) (fun t => t.bins = stocked.bins) = true ∧
    after (exec .suspend (at_ .suspend .entrySuspend 0x0311 stocked)) (fun t => t.mail.path = [.entrySuspended buttonHandle] ∧
      t.binList 3 = [.ofGroup 2]) = true ∧
    after (exec .resume (at_ .resume .entryResume 0x0311 { stockedAs .suspended with bins := stocked.bins.set 0 [.ofGroup 2] }))
      (fun t => t.binList 3 = [.ofGroup 2, .frame 17 .main, .frame 17 .alternate]) = true ∧
    after (exec .retire (at_ .retire .entryRetire 0x0311 stocked)) (fun t => t.mail.releases = [[5], [6]] ∧
      t.mail.retires = [buttonHandle] ∧ t.entries[(17 : SlotNo)] = ⟨3, .free⟩ ∧
      t.groups[(2 : GroupNo)].map Group.entryCount = some 0) = true := by decide +kernel

/-- The runs read are those stored; a DAMAGED entry is read with its outcome; a group without and with a repeat
pattern. -/
theorem test_witness_ReadStepsReturnWhatIsStored :
    (let s := stepping .entryRead .entryRead 0 [0x0311] stocked
     s.AtStep .entryRead ⟨.entryRead, 0, [0x0311]⟩ false ∧
     (∀ k : Fin 3, s.pool.readRun [5] (k + 1) = .value (([500, 600, 700] : List Nat).getD k 0) ∧
       s.pool.readRun [6] (k + 1) = .value (([1000, 600, 700] : List Nat).getD k 0)) ∧
     after (exec .entryReadStep s) (fun t => t.port.engine =
       .result ⟨.entryRead, 0, [0x0311]⟩ .ok 0x6323 [0x55, 3, 500, 600, 700, 1000, 600, 700] 0) = true) ∧
    (let s := stepping .entryRead .entryRead 0 [0x0411] stocked
     s.currentWord 0x0411 = none ∧
     after (exec .entryReadStep s) (fun t => t.port.completion.outcome = .noSuchEntry) = true) ∧
    (let s := stepping .groupRead .groupRead 2 [] stocked
     s.AtStep .groupRead ⟨.groupRead, 2, []⟩ false ∧
     after (exec .groupReadStep s) (fun t => t.port.engine = .result ⟨.groupRead, 2, []⟩ .ok 0x2001
       [0x1223, 0x044C, 76, 120, 108, 30, 3, 9000, 2250, 560] 0) = true) ∧
    (let s := stepping .groupRead .groupRead 2 []
       { stocked with groups := stocked.groups.set 2 (some { remote with repeatPattern := none }) }
     after (exec .groupReadStep s) (fun t => t.port.engine = .result ⟨.groupRead, 2, []⟩ .ok 1
       [0x0223, 0x044C, 76, 120, 108, 30] 0) = true) ∧
    (let s := stepping .groupRead .groupRead 15 [] stocked
     s.groups[(15 : GroupNo)] = none ∧
     after (exec .groupReadStep s) (fun t => t.port.completion.outcome = .noSuchGroup) = true) := by decide +kernel

/-- Run 2 of the main pattern unreadable: it reads 0, the entry is DAMAGED in its header, and the alternate is read; the
same of a repeat pattern. -/
theorem test_witness_ReadStepsReturnWhatIsStored_faults :
    let broken : StoredRun := { value := 600, parity := !parityOf 600 }
    let s := withCells stocked [(5, { cellOf .owned [500, 600, 700] with
      runs := (cellOf .owned [500, 600, 700]).runs.set 1 broken }),
      (7, { cellOf .owned [9000, 2250, 560] with runs := (cellOf .owned [9000, 2250, 560]).runs.set 2 broken })]
    (let s := stepping .entryRead .entryRead 0 [0x0311] s
     s.AtStep .entryRead ⟨.entryRead, 0, [0x0311]⟩ false ∧ s.currentWord 0x0311 = some (buttonHandle, button) ∧
     s.pool.readRun [5] 1 = .value 500 ∧ s.pool.readRun [5] 2 = .unreadable 5 ∧
     after (exec .entryReadStep s) (fun t => t.port.engine =
       .result ⟨.entryRead, 0, [0x0311]⟩ .entryDamaged 0xF323 [0x55, 3, 500, 0, 0, 1000, 600, 700] 0 ∧
       t.mail.path = [.entryDamaged buttonHandle]) = true) ∧
    (let s := stepping .groupRead .groupRead 2 [] s
     s.groups[(2 : GroupNo)] = some remote ∧ remote.repeatPattern = some ⟨3, [7]⟩ ∧
     after (exec .groupReadStep s) (fun t => t.port.engine = .result ⟨.groupRead, 2, []⟩ .ok 0x6001
       [0x1223, 0x044C, 76, 120, 108, 30, 3, 9000, 2250, 0] 0) = true) := by decide +kernel

theorem test_witness_FindListAndStatusChangeNoRecord :
    (let s := stepping .entryFind .entryFind 2 [0x55] stocked
     s.AtStep .entryFind ⟨.entryFind, 2, [0x55]⟩ false ∧ s.installedAt 17 = some button ∧
     (∀ slot : SlotNo, slot = 17 ∨ s.installedAt slot = none) ∧
     after (exec .entryFindStep s) (fun t => t.port.engine.offered = some 0x0311) = true) ∧
    (let s := stepping .entryFind .entryFind 2 [0x54] stocked
     after (exec .entryFindStep s) (fun t => t.port.engine.offered = some 0xFFFF) = true) ∧
    (let s := stepping .entryFind .entryFind 3 [0x55] stocked
     s.groups[(3 : GroupNo)] = none ∧
     after (exec .entryFindStep s) (fun t => t.port.completion.outcome = .noSuchGroup) = true) ∧
    (let s := stepping .entryList .entryList 2 [] twoEntries
     s.AtStep .entryList ⟨.entryList, 2, []⟩ false ∧ s.groups[(2 : GroupNo)] ≠ none ∧
     ([17, 18] : List SlotNo).Pairwise (· < ·) ∧
     (∀ slot : SlotNo, slot ∈ ([17, 18] : List SlotNo) ↔ (s.installedAt slot).map Installed.group = some 2) ∧
     after (exec .entryListStep s) (fun t => t.port.engine = .result ⟨.entryList, 2, []⟩ .ok 2 [0x0311, 0x0112] 0) = true) ∧
    (let s := stepping .tableStatus .tableStatus 0 [] stocked
     s.AtStep .tableStatus ⟨.tableStatus, 0, []⟩ false ∧
     after (exec .tableStatusStep s) (fun t => t.port.engine = .result ⟨.tableStatus, 0, []⟩ .ok 765
       [0, 3, 0, 0, 127, 1, 0, 0, 0] 0) = true) := by decide +kernel

/-- The check fails and passes for each of the three commands, and the block's request follows in the step or later. -/
theorem test_witness_HandleChecksGuardTheRequests :
    let at_ := fun (c : HostCommand) (words : List Word) (s : State) => stepping .handleCheck c 0 words s
    (at_ .relaySet [0x0311, 0x0311, 0x0111] stocked).AtStep .handleCheck ⟨.relaySet, 0, [0x0311, 0x0311, 0x0111]⟩ false ∧
    (stocked.currentWord 0x0411 = none ∧ after (exec (.handleCheck true) (at_ .relaySet [0x0311, 0x0411, 0x0111] stocked))
      (fun t => t.port.completion.outcome = .noSuchEntry) = true) ∧
    (stocked.currentWord 0x0311 ≠ none ∧
      after (exec (.handleCheck false) (at_ .relaySet [0x0311, 0x0311, 0x0111] stocked))
        (fun t => t.relays[(0 : RelayNo)].isSome) = true ∧
      after (exec (.handleCheck true) (at_ .relaySet [0x0311, 0x0311, 0x0111] stocked))
        (fun t => t.claims.host = none ∧ t.relays[(0 : RelayNo)] = none) = true) ∧
    after (exec (.handleCheck true) (at_ .send [0x0311, 1] (stockedAs .damaged)))
      (fun t => t.port.completion.outcome = .entryDamaged) = true ∧
    after (exec (.handleCheck false) (at_ .holdStart [0x0311, 7] (sending .idle [])))
      (fun t => t.outputs[(0 : OutputId)].queue.length = 1) = true := by decide +kernel

theorem test_witness_InitializeEmptiesThePart :
    let s := stepping .initializeTable .initializePart 0 [] (hearing .carrier true (.waiting none) (s := pressed heldPress))
    s.AtStep .initializeTable ⟨.initializePart, 0, []⟩ false ∧
    after (exec .initializeTableStep s) (fun t => t.memoryTest = some 0 ∧ t.tracker.reportList = [] ∧
      t.entries[(17 : SlotNo)] = ⟨3, .free⟩ ∧ t.pool.cells[(5 : CellNo)].condition = .testing ∧
      t.inputs[(0 : InputId)].assembler.field = 3) = true := by decide +kernel

/-! ## Witnesses: requests to the cell pool -/

/-- A chain without and with references; the removal from an OWNED chain, from one whose other output stays, and the last
one. -/
theorem test_witness_ChainsReturnToThePool :
    let released := fun (refs : OutputMask) =>
      ({ withCells stocked [(5, cellOf .owned [500] refs)] with mail := { stocked.mail with releases := [[5]] } } : State)
    let returning := fun (refs : OutputMask) =>
      ({ stocked with
          pool := { (withCells stocked [(5, cellOf .returning [500] refs)]).pool with returnList := [⟨[5], refs⟩] }
          mail := { stocked.mail with removals := stocked.mail.removals.set 0 (some [5]) } } : State)
    ((released 0).mail.releases = [5] :: [] ∧ (released 0).pool.cells[(5 : CellNo)].refs = 0 ∧
      after (exec .chainRelease (released 0)) (fun t => t.pool.cells[(5 : CellNo)].condition = .free) = true) ∧
    ((released 2).pool.cells[(5 : CellNo)].refs ≠ 0 ∧
      after (exec .chainRelease (released 2)) (fun t => t.pool.returnList = [⟨[5], 2⟩]) = true) ∧
    (let s := { withCells stocked [(5, cellOf .owned [500] 3)] with
       mail := { stocked.mail with removals := stocked.mail.removals.set 0 (some [5]) } }
     s.mail.removals[(0 : OutputId)] = some [5] ∧ s.pool.returnList = [] ∧
     after (exec (.referenceRemoval 0) s) (fun t => t.pool.cells[(5 : CellNo)].refs = 2) = true) ∧
    ((returning 3).pool.returnList = [] ++ ⟨[5], 3⟩ :: [] ∧ OutputMask.remove 3 0 ≠ 0 ∧
      after (exec (.referenceRemoval 0) (returning 3)) (fun t => t.pool.returnList = [⟨[5], 2⟩]) = true) ∧
    (OutputMask.remove 1 0 = 0 ∧
      after (exec (.referenceRemoval 0) (returning 1)) (fun t => t.pool.returnList = [] ∧
        t.pool.cells[(5 : CellNo)].condition = .free) = true) := by decide +kernel

/-! ## Witnesses: receive inputs -/

/-- A raw mark since `since` with these edges. -/
def markSince (since : Time) (edges : Nat) : Raw := { mark := true, since := since, edges := edges, firstEdge := since }

/-- A burst under assembly. -/
def assembly (runs : List Nat) (openRun : OpenRun) (tentative : Option Time) (estimated : Bool := true) : Assembly :=
  { start := 0, runs := runs, openRun := openRun, tentative := tentative, estimate := none, estimated := estimated }

/-- The quotient of R67 rounded up and down, at a half, at its top, with no span, and below 4 edges. -/
theorem test_witness_RawMarksFollowTheLine_estimates :
    carrierEstimate 17 286 = some 112 ∧ carrierEstimate 4 4000 = some 2 ∧ carrierEstimate 4 4001 = some 1 ∧
    carrierEstimate 4 1 = some 255 ∧ carrierEstimate 4 0 = some 255 ∧ carrierEstimate 3 1 = none := by decide

/-- An OFF input; the first edge of a burst; a further edge of a mark; the end of a mark on an ENVELOPE input; a pulse's
end on a CARRIER input 69 us after its edge. -/
theorem test_witness_RawMarksFollowTheLine_transitions :
    let quiet := fun (s : State) (now : Time) =>
      (s.watching 0 = true ∧ s.inputs[(0 : InputId)].floorReached now = none ∧
        s.inputs[(0 : InputId)].stuckDue now = false ∧ s.inputs[(0 : InputId)].gapOverdue now = false ∧
        s.inputs[(0 : InputId)].endGapDue now = none ∧ s.inputs[(0 : InputId)].discardGapDue now = false)
    (ready.watching 0 = false ∧
      after (exec (.lineTransition 0 5) ready) (fun t => t.inputs[(0 : InputId)].line = ⟨false, none, some 5⟩) = true) ∧
    (let s := hearing .envelope true (.waiting none)
     quiet s 5 ∧ s.inputs[(0 : InputId)].raw.mark = false ∧
     after (exec (.lineTransition 0 5) s) (fun t => t.inputs[(0 : InputId)].assembler = .waiting (some 5)) = true) ∧
    (let s := hearing .carrier true (.waiting (some 0)) (markSince 0 1) (some 10) (some 0)
     quiet s 26 ∧ s.inputs[(0 : InputId)].raw.mark = true ∧
     after (exec (.lineTransition 0 26) s) (fun t => t.inputs[(0 : InputId)].raw.edges = 2) = true) ∧
    (let s := hearing .envelope false (.assembling (assembly [] (.mark 0) none)) (markSince 0 1) none (some 0)
     quiet s 500 ∧ s.inputs[(0 : InputId)].config.kind = .envelope ∧
     after (exec (.lineTransition 0 500) s) (fun t => t.inputs[(0 : InputId)].assembler =
       .assembling (assembly [] (.mark 0) (some 500))) = true) ∧
    (let s := hearing .envelope false (.discarding { Discard.start with tentative := some 490 }) (markSince 490 1) none (some 490)
     quiet s 500 ∧ after (exec (.lineTransition 0 500) s)
       (fun t => t.inputs[(0 : InputId)].assembler = .discarding Discard.start) = true) ∧
    (let s := hearing .carrier false (.assembling (assembly [] (.mark 0) none)) (markSince 0 1) none (some 0)
     quiet s 69 ∧ lastActiveEdge s.inputs[(0 : InputId)].config s.inputs[(0 : InputId)].line = some 0 ∧ 69 < 0 + 70 ∧
     after (exec (.lineTransition 0 69) s) (fun t => t.inputs[(0 : InputId)].raw.mark) = true) := by decide +kernel

/-- 69 and 70 us after the latest edge, while waiting, in the burst's first mark, in a later one and in a short mark. -/
theorem test_witness_RawMarksFollowTheLine_gaps :
    let at_ := fun (a : Assembler) => hearing .carrier true a (markSince 0 22) (some 565) (some 552)
    let x := (at_ (.waiting (some 0))).inputs[(0 : InputId)]
    (at_ (.waiting (some 0))).watching 0 = true ∧ x.config.kind = .carrier ∧ x.raw.mark = true ∧
    lineActive x.config x.line = false ∧ lastActiveEdge x.config x.line = some 552 ∧
    lastInactiveEdge x.config x.line = some 565 ∧
    after (exec (.carrierGap 0 621) (at_ (.waiting (some 0)))) (fun t => t.inputs[(0 : InputId)].raw.mark) = true ∧
    after (exec (.carrierGap 0 622) (at_ (.waiting (some 0))))
      (fun t => t.inputs[(0 : InputId)].assembler = .waiting none) = true ∧
    after (exec (.carrierGap 0 622) (at_ (.assembling (assembly [] (.mark 0) none false))))
      (fun t => t.inputs[(0 : InputId)].assembler =
        .assembling { assembly [] (.mark 0) (some 565) with estimate := some 76 }) = true ∧
    after (exec (.carrierGap 0 622) (at_ (.assembling (assembly [9, 9] (.mark 0) none))))
      (fun t => t.inputs[(0 : InputId)].assembler = .assembling (assembly [9, 9] (.mark 0) (some 565))) = true ∧
    after (exec (.carrierGap 0 622) (at_ (.assembling (assembly [9] (.space 9) (some 550)))))
      (fun t => t.inputs[(0 : InputId)].assembler = .assembling (assembly [9] (.space 9) none)) = true := by
  decide +kernel

/-- The end of a mark while DISCARDING starts the measure at its end, or when the line is quiet again; a CARRIER pulse that goes
inactive 69 and 70 us after its edge; a quiet line at 70 and 71 us. -/
theorem test_witness_RawMarksFollowTheLine_ends :
    let discarding := fun (kind : InputKind) (untilQuiet : Bool) =>
      hearing kind false (.discarding { Discard.start with untilQuiet := untilQuiet }) (markSince 100 1) none (some 100)
    let started := fun (i : Instr) (s : State) (start : Time) => after (exec i s) (fun t =>
      t.inputs[(0 : InputId)].assembler = .discarding { Discard.start with spaceSince := some start } ∧
      t.inputs[(0 : InputId)].raw.mark = false)
    let x := (discarding .carrier true).inputs[(0 : InputId)]
    (discarding .carrier true).watching 0 = true ∧ x.floorReached 170 = none ∧ x.stuckDue 170 = false ∧
    x.gapOverdue 170 = false ∧ x.endGapDue 170 = none ∧ x.discardGapDue 170 = false ∧
    lineActive x.config x.line = true ∧ lastActiveEdge x.config x.line = some 100 ∧ 100 + 70 ≤ 170 ∧
    started (.lineTransition 0 110) (discarding .envelope true) 110 = true ∧
    started (.lineTransition 0 170) (discarding .carrier false) 170 = true ∧
    started (.lineTransition 0 170) (discarding .carrier true) 171 = true ∧
    after (exec (.lineTransition 0 169) (discarding .carrier true)) (fun t => t.inputs[(0 : InputId)].raw.mark) = true ∧
    (let s := hearing .carrier true (.discarding { Discard.start with untilQuiet := true }) (markSince 100 1) (some 110) (some 100)
     lineActive s.inputs[(0 : InputId)].config s.inputs[(0 : InputId)].line = false ∧
     started (.carrierGap 0 170) s 171 = true ∧
     lineQuiet s.inputs[(0 : InputId)].config s.inputs[(0 : InputId)].line 170 = false ∧
     lineQuiet s.inputs[(0 : InputId)].config s.inputs[(0 : InputId)].line 171 = true ∧
     (s.inputs[(0 : InputId)].resume 170).raw = { mark := true, since := 170, edges := 0, firstEdge := 170 } ∧
     (s.inputs[(0 : InputId)].resume 171).raw = { mark := false, since := 171, edges := 0, firstEdge := 0 }) := by
  decide +kernel

/-- One microsecond before the floor, and at it: a burst starts, a mark and a space close, the 128th run is too many, a
discarded burst goes on. -/
theorem test_witness_BurstsAreAssembledAndEnd_floors :
    let at_ := fun (a : Assembler) (mark : Bool) =>
      hearing .envelope (!mark) a (if mark then markSince 100 1 else { mark := false, since := 100, edges := 0, firstEdge := 0 })
    let then_ := fun (now : Time) (s : State) (a : Assembler) =>
      after (exec (.glitchFloorReached 0 now) s) (fun t => t.inputs[(0 : InputId)].assembler = a)
    (at_ (.waiting (some 100)) true).watching 0 = true ∧
    100 + 24 ≤ (at_ (.waiting (some 100)) true).inputs[(0 : InputId)].markExtent 124 ∧
    then_ 123 (at_ (.waiting (some 100)) true) (.waiting (some 100)) = true ∧
    then_ 124 (at_ (.waiting (some 100)) true) (.assembling { assembly [] (.mark 100) none with start := 100 }) = true ∧
    then_ 124 (at_ (.assembling (assembly [] (.mark 0) (some 100))) false)
      (.assembling (assembly [100] (.space 100) none)) = true ∧
    then_ 124 (at_ (.assembling (assembly (List.replicate 126 9) (.space 0) (some 100))) true)
      (.assembling (assembly (List.replicate 126 9 ++ [100]) (.mark 100) none)) = true ∧
    then_ 124 (at_ (.assembling (assembly (List.replicate 127 9) (.space 0) (some 100))) true)
      (.discarding Discard.start) = true ∧
    then_ 124 (at_ (.discarding { Discard.start with tentative := some 100 }) true) (.discarding Discard.start) = true ∧
    then_ 124 (at_ (.discarding Discard.start) true) (.discarding Discard.start) = true ∧
    then_ 123 (at_ (.assembling (assembly [] (.mark 0) (some 100))) false)
      (.assembling (assembly [] (.mark 0) (some 100))) = true ∧
    then_ 124 (at_ (.assembling (assembly [] (.mark 0) (some 100))) true)
      (.assembling (assembly [] (.mark 0) (some 100))) = true ∧
    then_ 123 (at_ (.assembling (assembly [9] (.space 0) (some 100))) true)
      (.assembling (assembly [9] (.space 0) (some 100))) = true ∧
    then_ 124 (at_ (.assembling (assembly [9] (.space 0) (some 100))) false)
      (.assembling (assembly [9] (.space 0) (some 100))) = true ∧
    then_ 123 (at_ (.discarding { Discard.start with tentative := some 100 }) true)
      (.discarding { Discard.start with tentative := some 100 }) = true ∧
    ready.watching 0 = false := by decide +kernel

/-- STUCK at and past 60,000 us; the end gap before and at its time for a runt, a burst and a burst that finds the slot
full; the end of DISCARDING. -/
theorem test_witness_BurstsAreAssembledAndEnd_ends :
    (let s := hearing .envelope false (.assembling (assembly [] (.mark 0) none)) (markSince 0 1)
     s.watching 0 = true ∧ s.inputs[(0 : InputId)].raw.mark = true ∧
     after (exec (.stuck 0 60000) s) (fun t => t.inputs[(0 : InputId)].assembler = s.inputs[(0 : InputId)].assembler) = true ∧
     after (exec (.stuck 0 60001) s) (fun t => t.inputs[(0 : InputId)].sticky.stuck) = true) ∧
    (let s := hearing .envelope true (.assembling (assembly [500, 600] (.space 100) none))
     after (exec (.endGap 0 10099) s) (fun t => t.inputs[(0 : InputId)].assembler = s.inputs[(0 : InputId)].assembler) = true ∧
     after (exec (.endGap 0 10100) s) (fun t => t.inputs[(0 : InputId)].assembler = .waiting none ∧
       t.claims.lookup[(0 : InputId)] = false) = true) ∧
    (let s := hearing .envelope true (.assembling (assembly [500, 600, 700] (.space 100) none))
     s.inputs[(0 : InputId)].held = none ∧
     after (exec (.endGap 0 10100) s) (fun t => t.inputs[(0 : InputId)].held =
       some ⟨0, .envelope, [500, 600, 700], none, 0, 100⟩ ∧ t.claims.lookup[(0 : InputId)] = true) = true) ∧
    (let s := looking [1, 2, 3] (hearing .envelope true (.assembling (assembly [500, 600, 700] (.space 100) none)))
     s.inputs[(0 : InputId)].held ≠ none ∧
     after (exec (.endGap 0 10100) s) (fun t => t.inputs[(0 : InputId)].sticky.overrun ∧
       t.inputs[(0 : InputId)].held = some (burst [1, 2, 3])) = true) ∧
    (let s := hearing .envelope true (.discarding { Discard.start with spaceSince := some 100 })
     after (exec (.discardingEndGap 0 10099) s) (fun t => t.inputs[(0 : InputId)].assembler.field = 3) = true ∧
     after (exec (.discardingEndGap 0 10100) s) (fun t => t.inputs[(0 : InputId)].assembler = .waiting none) = true) ∧
    (let same := fun (i : Instr) (s : State) =>
       after (exec i s) (fun t => t.inputs[(0 : InputId)].assembler = s.inputs[(0 : InputId)].assembler)
     let space : Raw := { mark := false, since := 0, edges := 0, firstEdge := 0 }
     same (.stuck 0 99999) (hearing .envelope true (.assembling (assembly [] (.mark 0) (some 50000))) space) = true ∧
     same (.stuck 0 99999) (hearing .envelope true (.assembling (assembly [9] (.space 0) none)) space) = true ∧
     same (.endGap 0 99999) (hearing .envelope false (.assembling (assembly [9] (.space 0) (some 90000)))) = true ∧
     same (.endGap 0 99999) (hearing .envelope false (.assembling (assembly [] (.mark 0) none))) = true ∧
     same (.discardingEndGap 0 99999)
       (hearing .envelope false (.discarding { Discard.start with spaceSince := some 0, tentative := some 90000 })) = true ∧
     same (.discardingEndGap 0 99999) (hearing .envelope false (.discarding Discard.start)) = true) := by
  decide +kernel

/-- The blanking signal of TX0 taken in each state; its end; a requested sticky bit. -/
theorem test_witness_BlankingAndStickyRequests :
    (let s := hearing .envelope true (.assembling (assembly [] (.mark 0) none)) (s := sending (.frame (frameAt 1 0 500)) [])
     OutputMask.has s.inputs[(0 : InputId)].config.blankMask 0 = true ∧ s.outputs[(0 : OutputId)].state.blanking = true ∧
     after (exec (.blankingAsserted 0 0) s) (fun t => t.inputs[(0 : InputId)].sticky.blankedDrop) = true) ∧
    (let s := hearing .envelope true (.waiting none) (s := sending (.frame (frameAt 1 0 500)) [])
     after (exec (.blankingAsserted 0 0) s) (fun t => t.inputs[(0 : InputId)].assembler = .blanked ∧
       t.inputs[(0 : InputId)].sticky = InputSticky.clear) = true) ∧
    (let s := hearing .envelope true .blanked (s := sending (.frame (frameAt 1 0 500)) [])
     after (exec (.blankingAsserted 0 0) s) (fun t => t.inputs[(0 : InputId)].assembler = .blanked) = true) ∧
    (let s := hearing .envelope true .blanked
     s.inputs[(0 : InputId)].assembler = .blanked ∧
     (∀ p : OutputId, OutputMask.has s.inputs[(0 : InputId)].config.blankMask p = true → s.outputs[p].state.blanking = false) ∧
     after (exec (.blankingReleased 0) s) (fun t => t.inputs[(0 : InputId)].assembler = .waiting none) = true) ∧
    (let s := { ready with mail := { ready.mail with sticky := ready.mail.sticky.set 0 [.unmatched, .pressRefused] } }
     RequestedBit.pressRefused ∈ s.mail.sticky[(0 : InputId)] ∧
     after (exec (.stickySetRequest 0 .pressRefused) s) (fun t => t.mail.sticky[(0 : InputId)] = [.unmatched] ∧
       t.inputs[(0 : InputId)].sticky.pressRefused) = true) := by decide +kernel

/-- An output that asserts nothing; an input that stays BLANKED while TX0 asserts, and one that is not BLANKED. -/
theorem test_witness_BlankingAndStickyRequests_stays :
    (let s := hearing .envelope true (.waiting none)
     s.outputs[(0 : OutputId)].state.blanking = false ∧ s.inputs[(0 : InputId)].assembler ≠ .blanked ∧
     after (exec (.blankingAsserted 0 0) s) (fun t => t.inputs[(0 : InputId)].assembler = .waiting none) = true ∧
     after (exec (.blankingReleased 0) s) (fun t => t.inputs[(0 : InputId)].assembler = .waiting none) = true) ∧
    (let s := hearing .envelope true .blanked (s := sending (.space 100) [])
     OutputMask.has s.inputs[(0 : InputId)].config.blankMask 0 = true ∧ s.outputs[(0 : OutputId)].state.blanking = true ∧
     after (exec (.blankingReleased 0) s) (fun t => t.inputs[(0 : InputId)].assembler = .blanked) = true) := by decide +kernel

/-! ## Witnesses: press tracker and relay unit -/

/-- A match result of IN0 at the head of the notice path. -/
def matching (found : Found) (s : State := stocked) : State :=
  { s with mail := { s.mail with path := [.result ⟨0, 20000, 30000, found⟩] } }

/-- The match of the tests' entry by one of its patterns, with a group's press limit. -/
def matchOf (v : Variant) (limit : Nat) : Found := .entry ⟨2, buttonHandle, v, 0x55, 120, limit⟩

/-- No match; a repeat without and with a press, whose count stands at its limit; a first press without a limit; the same
entry, its other variant and another entry; all 16 records in use. -/
theorem test_witness_MatchResultsMakePresses :
    (let s := matching .none
     s.mail.path = .result ⟨0, 20000, 30000, .none⟩ :: [] ∧
     after (exec .matchResult s) (fun t => t.mail.path = [] ∧ t.tracker = s.tracker) = true) ∧
    (let s := matching (.ofGroup ⟨2, 120, 30⟩)
     (∀ r : PressNo, s.tracker.presses[r] = none) ∧
     after (exec .matchResult s) (fun t => t.mail.sticky[(0 : InputId)] = [.orphanRepeat]) = true) ∧
    (let s := matching (.ofGroup ⟨2, 100, 30⟩) (pressed heldPress)
     s.tracker.presses[(4 : PressNo)] = some heldPress ∧ heldPress.isHeld = true ∧
     (∀ r : PressNo, r = 4 ∨ s.tracker.presses[r] = none) ∧
     after (exec .matchResult s) (fun t => (t.tracker.presses[(4 : PressNo)]).map Press.life =
       some (.held 130000 (some 30001000) 0) ∧ (t.tracker.presses[(4 : PressNo)]).map Press.frames = some 65535) = true) ∧
    (let s := matching (matchOf .main 0)
     (∀ r : PressNo, s.tracker.presses[r] = none) ∧ (0 : PressNo) ∉ s.tracker.reportList ∧
     after (exec .matchResult s) (fun t => (t.tracker.presses[(0 : PressNo)]).map Press.life =
       some (.held 150000 none 0) ∧ t.mail.pressStarts = [⟨⟨0, 1⟩, buttonHandle, 0⟩]) = true) ∧
    (let s := matching (matchOf .main 30) (pressed heldPress)
     after (exec .matchResult s) (fun t => t.tracker.reportList = [4] ∧
       (t.tracker.presses[(4 : PressNo)]).map Press.lastCredit = some 30000) = true) ∧
    (let s := matching (matchOf .alternate 30) (pressed heldPress)
     after (exec .matchResult s) (fun t => (t.tracker.presses[(4 : PressNo)]).map Press.causeField = some 3 ∧
       t.tracker.reportList = [4, 0]) = true) ∧
    (let s := matching (.entry ⟨2, ⟨18, 1⟩, .main, 0x56, 120, 30⟩) (pressed heldPress)
     after (exec .matchResult s) (fun t => (t.tracker.presses[(4 : PressNo)]).map Press.causeField = some 4) = true) ∧
    (let s := matching (matchOf .main 30)
       { stocked with tracker := { stocked.tracker with presses := Vector.replicate 16 (some endedPress) } }
     (∀ r : PressNo, s.tracker.presses[r] ≠ none) ∧
     after (exec .matchResult s) (fun t => t.mail.sticky[(0 : InputId)] = [.pressRefused]) = true) := by decide +kernel

/-- The end of a press that a HOLD on each output follows; an ENDED record. -/
theorem test_witness_PressesEndAndFollow_ends :
    (let s := pressed (heldPress 3)
     s.tracker.presses[(4 : PressNo)] = some (heldPress 3) ∧
     (s.endPress 4 .forced).mail.holdEnded[(0 : OutputId)] = [⟨4, 9⟩] ∧
     (s.endPress 4 .forced).mail.holdEnded[(1 : OutputId)] = [⟨4, 9⟩] ∧
     (s.endPress 4 .forced).tracker.presses[(4 : PressNo)] =
       some { pressAs (.ended .forced 4) with endPending := true } ∧
     ((pressed endedPress).endPress 4 .forced).tracker = (pressed endedPress).tracker) ∧
    (let s := executing .pressEnd 4 [9] (pressed heldPress)
     s.AtRequest .pressEnd ⟨.pressEnd, 4, [9]⟩ false ∧ heldPress.sequence = (9 : Word).extractLsb' 0 8 ∧
     after (exec (.pressEnd .request) s) (fun t => (t.tracker.presses[(4 : PressNo)]).map Press.causeField = some 5) = true) ∧
    (let s := executing .pressEnd 4 [8] (pressed heldPress)
     heldPress.sequence ≠ (8 : Word).extractLsb' 0 8 ∧
     after (exec (.pressEnd .request) s) (fun t => t.port.completion.outcome = .noSuchPress) = true) ∧
    (let s := pressed heldPress
     let cause := fun (i : Instr) => after (exec i s) (fun t => (t.tracker.presses[(4 : PressNo)]).map Press.causeField = some 0)
     cause (.releaseExpiry 4 125998) = true ∧ cause (.releaseExpiry 4 125999) = false ∧
     cause (.pressLimitExpiry 4 30000999) = true ∧ cause (.pressLimitExpiry 4 30001000) = false ∧
     after (exec (.releaseExpiry 4 200000) (pressed endedPress)) (fun t => t.tracker = (pressed endedPress).tracker) = true) := by
  decide +kernel

/-- Each of the five notices, and the follow links of a press that is named and of one that is not. -/
theorem test_witness_PressesEndAndFollow_notices :
    let told := fun (n : Notice) => ({ pressed heldPress with mail := { stocked.mail with path := [n] } } : State)
    let cause := fun (i : Instr) (s : State) (c : Nat) =>
      after (exec i s) (fun t => (t.tracker.presses[(4 : PressNo)]).map Press.causeField = some c)
    cause .entryRetiredNotice (told (.entryRetired buttonHandle)) 6 = true ∧
    cause .entryRetiredNotice (told (.entryRetired ⟨17, 4⟩)) 0 = true ∧
    cause .entrySuspendedNotice (told (.entrySuspended buttonHandle)) 7 = true ∧
    cause .entryDamagedNotice (told (.entryDamaged buttonHandle)) 8 = true ∧
    cause .groupChangedNotice (told (.groupChanged 2)) 9 = true ∧
    cause .inputChangeNotice { pressed heldPress with mail := { stocked.mail with inputChanges := [0] } } 10 = true ∧
    (let s := fun (sequence : BitVec 8) =>
       ({ pressed heldPress with mail := { stocked.mail with linkRequests := [⟨1, ⟨4, sequence⟩⟩] } } : State)
     after (exec .linkRequest (s 9)) (fun t => t.tracker.presses[(4 : PressNo)] = some (heldPress 2)) = true ∧
     after (exec .linkRequest (s 8)) (fun t => t.mail.holdEnded[(1 : OutputId)] = [⟨4, 8⟩]) = true) ∧
    (let s := fun (sequence : BitVec 8) => ({ pressed (heldPress 2) with
       mail := { stocked.mail with linkClears := stocked.mail.linkClears.set 1 [⟨4, sequence⟩] } } : State)
     after (exec (.linkClear 1) (s 9)) (fun t => t.tracker.presses[(4 : PressNo)] = some (heldPress 0)) = true ∧
     after (exec (.linkClear 1) (s 8)) (fun t => t.tracker.presses[(4 : PressNo)] = some (heldPress 2)) = true) := by
  decide +kernel

/-- A press start without a record, of an input outside the mask, of a STALE record, of a target that is gone, DAMAGED and
current; a full queue and an OFF output refuse; a retire notice of source and target. -/
theorem test_witness_RelayUnitTakesItsArrivals :
    let starting := fun (input : InputId) (s : State) =>
      ({ s with mail := { s.mail with pressStarts := [⟨⟨4, 9⟩, buttonHandle, input⟩] } } : State)
    let outcome := fun (s : State) (o : RelayOutcome) =>
      after (exec .pressStart s) (fun t => (t.relays[(1 : RelayNo)]).map RelayRecord.lastOutcome = some o)
    ((∀ n : RelayNo, stocked.relays[n] = none) ∧
      after (exec .pressStart (starting 0 stocked)) (fun t => t.mail.pressStarts = []) = true) ∧
    ((∀ m : RelayNo, m ≠ 1 → (relayed false .follow).relays[m] = none) ∧
      outcome (starting 3 (relayed false .follow)) .none = true) ∧
    outcome (starting 0 (relayed true .follow)) .targetStale = true ∧
    (ready.currentEntry buttonHandle = none ∧ outcome (starting 0 (relayed false .follow ready)) .targetStale = true) ∧
    outcome (starting 0 (relayed false .follow (stockedAs .damaged))) .targetDamaged = true ∧
    (after (exec .pressStart (starting 0 (relayed false .follow (sending .idle [])))) (fun t =>
      t.mail.linkRequests = [⟨0, ⟨4, 9⟩⟩] ∧ t.outputs[(0 : OutputId)].state = .grant ∧
      (t.relays[(1 : RelayNo)]).map RelayRecord.lastOutcome = some .queued) = true) ∧
    outcome (starting 0 (relayed false .follow)) .outputOff = true ∧
    (let full := sending .grant (List.replicate 8 (item (.host 7) (.send 1) (activeAs 0)))
     full.outputs[(0 : OutputId)].config.kind ≠ .off ∧ 8 ≤ full.outputs[(0 : OutputId)].queue.length ∧
     outcome (starting 0 (relayed false (.once 1) full)) .queueFull = true ∧
     (full.offer 0 (item (.relay ⟨4, 9⟩) (.send 1) none)).2 = .queueFull ∧
     (stocked.offer 0 (item (.relay ⟨4, 9⟩) (.send 1) none)).2 = .outputOff ∧
     ((sending .grant (List.replicate 7 (item (.host 7) (.send 1) (activeAs 0)))).offer 0
       (item (.relay ⟨4, 9⟩) (.send 1) none)).2 = .accepted) ∧
    (let s := { relayed false .follow with mail := { stocked.mail with retires := [buttonHandle] } }
     s.mail.retires = buttonHandle :: [] ∧
     after (exec .relayRetireNotice s) (fun t => t.relays[(1 : RelayNo)] = none) = true) := by decide +kernel

/-! ## Witnesses: transmit outputs -/

/-- The last run of TX0's frame ends at 1,800 us. -/
def ending (x : Item) : State := sending (.frame (frameAt 3 1100 1800)) [x]

/-- One microsecond before its end; with a pending outcome; the last of a SEND's frames; a HOLD whose flag is set; a SEND
with a frame to go, and a HOLD, go on after the repeat period. -/
theorem test_witness_FramesIntervalsAndSpacesEnd :
    let state := fun (i : Instr) (s : State) (x : OutputState) => after (exec i s) (fun t => t.outputs[(0 : OutputId)].state = x)
    (let x := { item (.host 7) (.send 2) (activeAs 0) with endPending := some .flushed }
     ((ending x).advanceTo 1800).outputs[(0 : OutputId)].state = .frame (frameAt 3 1100 1800) ∧
     (ending x).outputs[(0 : OutputId)].queue = x :: [] ∧ x.active = some { variant := .main, startTime := 0, framesSent := 0 } ∧
     state (.frameEnd 0 1799) (ending x) (.frame (frameAt 3 1100 1800)) = true ∧
     after (exec (.frameEnd 0 1800) (ending x)) (fun t => t.outputs[(0 : OutputId)].completion =
       some { tag := 7, hold := false, outcome := .flushed }) = true) ∧
    state (.frameEnd 0 1800) (ending (item (.host 7) (.send 1) (activeAs 0))) (.space 16800) = true ∧
    state (.frameEnd 0 1800) (ending { item (.host 7) .hold (activeAs 0) with holdEnded := true }) (.space 16800) = true ∧
    state (.frameEnd 0 1800) (ending (item (.host 7) (.send 2) (activeAs 0))) (.interval 108000) = true ∧
    state (.frameEnd 0 1800) (ending (item (.host 7) .hold (activeAs 0))) (.interval 108000) = true ∧
    (let s := sending (.interval 108000) [item (.host 7) .hold (activeAs 1)]
     s.outputs[(0 : OutputId)].state = .interval 108000 ∧ state (.intervalEnd 0 107999) s (.interval 108000) = true ∧
     state (.intervalEnd 0 108000) s .grant = true) ∧
    (let s := sending (.space 16800) []
     s.outputs[(0 : OutputId)].queue = [] ∧ state (.spaceEnd 0 16799) s (.space 16800) = true ∧
     state (.spaceEnd 0 16800) s .idle = true) ∧
    (let s := sending (.space 16800) [item (.host 7) .hold none]
     s.outputs[(0 : OutputId)].queue = item (.host 7) .hold none :: [] ∧ state (.spaceEnd 0 16800) s .grant = true) ∧
    (stocked.currentEntry buttonHandle = some button ∧ button.status ≠ .damaged ∧ button.alternate = some [6] ∧
      stocked.itemVariant 0 buttonHandle = (.main, 4) ∧ stocked.itemVariant 4 buttonHandle = (.alternate, 0) ∧
      (stockedAs .damaged).itemVariant 4 buttonHandle = (.main, 4)) := by decide +kernel

/-- The first cycles of a mark of 38 kHz at duty 1/3 on an active-low line: on for 140 cycles, then off, and on again after 421;
the microsecond after the mark; and a space. -/
theorem test_witness_FramesIntervalsAndSpacesEnd_lines :
    let at_ := fun (f : Frame) (now : Time) => ({ sending (.frame f) [] with timebase := now } : State)
    let s := at_ (frameAt 3 1100 1800)
    (frameAt 3 1100 1800).run % 2 = 1 ∧ (s 1100).timebase < 1800 ∧
    (s 1100).outputs[(0 : OutputId)].config.kind = .modulated ∧
    (s 1100).txLevel 0 0 = false ∧ (s 1108).txLevel 0 11 = false ∧ (s 1108).txLevel 0 12 = true ∧
    (s 1126).txLevel 0 4 = true ∧ (s 1126).txLevel 0 5 = false ∧ (s 1800).txLevel 0 0 = true ∧
    (at_ (frameAt 2 500 1100) 600).txLevel 0 0 = true := by decide +kernel

/-- One microsecond before the hold limit and at it, in GRANT, in FRAME and in INTERVAL; run 2 of a frame unreadable when
its time comes. -/
theorem test_witness_HoldLimitsAndParityFaults :
    (let s := sending .grant [item (.host 7) .hold (activeAs 0)]
     s.outputs[(0 : OutputId)].queue = item (.host 7) .hold (activeAs 0) :: [] ∧
     s.outputs[(0 : OutputId)].config.holdLimit = 12 ∧
     after (exec (.holdLimit 0 11999999) s) (fun t => t.outputs[(0 : OutputId)].queue.map Item.endPending = [none]) = true ∧
     after (exec (.holdLimit 0 12000000) s)
       (fun t => t.outputs[(0 : OutputId)].queue.map Item.endPending = [some .limit]) = true) ∧
    (let s := sending (.frame (frameAt 3 11999000 12000001)) [item (.host 7) .hold (activeAs 0)]
     after (exec (.holdLimit 0 12000000) s)
       (fun t => t.outputs[(0 : OutputId)].queue.map Item.endPending = [some .limit]) = true) ∧
    (let s := sending (.interval 12005000) [item (.host 7) .hold (activeAs 9)]
     after (exec (.holdLimit 0 12000000) s) (fun t => t.outputs[(0 : OutputId)].state = .space 12015000) = true) ∧
    (let s := sending (.frame (frameAt 1 0 500)) [item (.host 7) .hold (activeAs 0)]
       { stocked with pool := stocked.pool.recordFault 5 }
     (s.advanceTo 500).outputs[(0 : OutputId)].state = .frame (frameAt 1 0 500) ∧ 1 < 3 ∧
     s.pool.readRun [5] (1 + 1) = .unreadable 5 ∧
     after (exec (.frameParityFault 0 500) s) (fun t => t.outputs[(0 : OutputId)].damageSeen ∧
       t.outputs[(0 : OutputId)].state = .space 15500 ∧
       t.claims.output[(0 : OutputId)] = some (.damage ⟨buttonHandle, .frame .main, 5⟩)) = true) := by decide +kernel

/-- FRAME_END one microsecond before the end of the last run, and INTERVAL_END in FRAME. -/
theorem test_witness_FramesIntervalsAndSpacesEnd_goOn :
    let s := sending (.frame (frameAt 3 1100 1800)) [item (.host 7) (.send 1) (activeAs 0)]
    max s.timebase 1799 < 1800 ∧
    after (exec (.frameEnd 0 1799) s) (fun t => t.outputs[(0 : OutputId)].state = .frame (frameAt 3 1100 1800)) = true ∧
    after (exec (.frameEnd 0 1800) s) (fun t => t.outputs[(0 : OutputId)].state = .space 16800) = true ∧
    after (exec (.intervalEnd 0 9999) s) (fun t => t.outputs[(0 : OutputId)].state = .frame (frameAt 3 1100 1800)) = true := by
  decide +kernel

/-- HOLD_LIMIT for a SEND and for a HOLD whose flag is set; FRAME_PARITY_FAULT with a readable run due. -/
theorem test_witness_HoldLimitsAndParityFaults_none :
    let s := fun (x : Item) => sending (.frame (frameAt 3 1100 1800)) [x]
    let kept := fun (x : Item) => after (exec (.holdLimit 0 99000000) (s x))
      (fun t => t.outputs[(0 : OutputId)].queue.map Item.endPending = [none])
    kept (item (.host 7) (.send 1) (activeAs 0)) = true ∧
    kept { item (.host 7) .hold (activeAs 0) with holdEnded := true } = true ∧
    (let s := sending (.frame (frameAt 1 0 500)) [item (.host 7) (.send 1) (activeAs 0)]
     s.pool.readRun [5] 2 = .value 600 ∧
     after (exec (.frameParityFault 0 500) s) (fun t => t.outputs[(0 : OutputId)].state = .frame (frameAt 2 500 1100)) = true) := by
  decide +kernel

/-- CARRIER_GAP on an ENVELOPE input. -/
theorem test_witness_RawMarksFollowTheLine_noGap :
    let s := hearing .envelope true (.waiting none)
    s.inputs[(0 : InputId)].config.kind ≠ .carrier ∧
    after (exec (.carrierGap 0 9999) s) (fun t => t.inputs[(0 : InputId)] = s.inputs[(0 : InputId)]) = true := by decide +kernel

end Sys2Proof.Tests
end

section
/-! SUPPORT. The host's table steps on groups and entries: what GROUP DEFINE's final step, GROUP REMOVE, ENTRY SUSPEND,
RESUME and RETIRE do to the code table (R32 to R35, R38). -/

namespace Sys2Proof.Machine

/-! ## A table step at its turn -/

/-- A table step of the command in EXECUTE that has its turn is its body on the state whose HOST claim is served
(R22, R23, R171). -/
theorem State.hostStep_of_atStep {s : State} {h : HostStep} {task : Task} {held : Bool} (hs : s.AtStep h task held)
    (body : Task → Bool → State → State) :
    s.hostStep h body = body task held { s with claims := s.hostServed } := by
  obtain ⟨hclaim, hturn, hengine⟩ := hs
  rw [State.hostStep, if_pos ⟨hclaim, hturn⟩, hengine]
  rfl

section
variable {s : State} {task : Task} {held : Bool}

theorem exec_groupDefineFinalStep (hs : s.AtStep .groupDefineFinal task held) :
    exec .groupDefineFinalStep s = .next (groupDefineFinalBody task held { s with claims := s.hostServed }) :=
  congrArg _ (State.hostStep_of_atStep hs _)

theorem exec_groupRemoveStep (hs : s.AtStep .groupRemove task held) :
    exec .groupRemoveStep s = .next (groupRemoveBody task held { s with claims := s.hostServed }) :=
  congrArg _ (State.hostStep_of_atStep hs _)

theorem exec_suspend (hs : s.AtStep .suspend task held) :
    exec .suspend s = .next (suspendBody task held { s with claims := s.hostServed }) :=
  congrArg _ (State.hostStep_of_atStep hs _)

theorem exec_resume (hs : s.AtStep .resume task held) :
    exec .resume s = .next (resumeBody task held { s with claims := s.hostServed }) :=
  congrArg _ (State.hostStep_of_atStep hs _)

theorem exec_retire (hs : s.AtStep .retire task held) :
    exec .retire s = .next (retireBody task held { s with claims := s.hostServed }) :=
  congrArg _ (State.hostStep_of_atStep hs _)

end

/-! ## Patterns in their bins (R21) -/

theorem State.binList_congr {s t : State} (h : t.bins = s.bins) (n : Nat) : t.binList n = s.binList n := by
  simp only [State.binList, h]

/-- Both frame patterns leave the bin of their run count and no other bin changes. -/
theorem State.binList_leaveFrames (s : State) (slot : SlotNo) (e : Installed) (n : Nat) :
    (s.leaveFrames slot e).binList n = if n = e.runCount then
        (s.binList n).filter (fun r => decide (r ≠ .frame slot .main) && decide (r ≠ .frame slot .alternate))
      else s.binList n := by
  rw [State.leaveFrames, State.binList_leaveBin, State.binList_leaveBin]
  split
  · rw [List.filter_filter]
    exact List.filter_congr fun r _ => Bool.and_comm _ _
  · rfl

/-- The main pattern, then the alternate if there is one, join the tail of the bin of their run count. -/
theorem State.binList_joinFrames (s : State) (slot : SlotNo) (e : Installed) (he : (binOf e.runCount).isSome = true)
    (n : Nat) :
    (s.joinFrames slot e).binList n = if n = e.runCount then
        s.binList n ++ .frame slot .main :: (if e.alternate.isSome then [.frame slot .alternate] else [])
      else s.binList n := by
  unfold State.joinFrames
  cases e.alternate with
  | none => simp [State.binList_joinBin, he]
  | some _ => by_cases h : n = e.runCount <;> simp [State.binList_joinBin, he, h]

/-- The repeat pattern released: it leaves its bin and its chain is sent to the pool. -/
theorem State.releaseRepeat_frame (s : State) (g : GroupNo) (p : Option Pattern) :
    s.releaseRepeat g p = { s with
      bins := (s.releaseRepeat g p).bins
      mail := { s.mail with releases := s.mail.releases ++ p.toList.map Pattern.chain } } := by
  cases p with
  | none => simp [State.releaseRepeat]
  | some p =>
    obtain ⟨bins, h⟩ := s.leaveBin_frame p.runCount (.ofGroup g)
    simp only [State.releaseRepeat, h]
    rfl

/-- A repeat pattern leaves the bin of its run count and no other bin changes. -/
theorem State.binList_releaseRepeat (s : State) (g : GroupNo) (p : Option Pattern) (n : Nat) :
    (s.releaseRepeat g p).binList n = if p.map Pattern.runCount = some n then
        (s.binList n).filter (fun r => decide (r ≠ .ofGroup g))
      else s.binList n := by
  cases p with
  | none => rfl
  | some p =>
    have hleft : (s.releaseRepeat g (some p)).binList n = (s.leaveBin p.runCount (.ofGroup g)).binList n := rfl
    rw [hleft, State.binList_leaveBin]
    simp [eq_comm]

/-! ## Groups defined and removed (R35, R38) -/

/-- A group defined with a repeat pattern: the pattern joins its bin after the other effects, which do not touch the
bins. -/
theorem State.defineGroup_some (s : State) (g : GroupNo) (settings : GroupSettings) (p : Pattern) :
    s.defineGroup g settings (some p) = State.joinBin { s with
        groups := s.groups.set g (some {
          settings := settings, repeatPattern := some p, repeatDamaged := false, entryCount := 0 })
        pool := s.pool.ownReservation
        outputs := s.outputs.map (fun x => { x with toggle := x.toggle &&& ~~~(BitVec.twoPow 16 g.val) }) }
      p.runCount (.ofGroup g) := by
  simp only [State.defineGroup, State.joinBin, State.setBin, State.binList]
  cases binOf p.runCount <;> rfl

section
variable {task : Task} {u : State}

theorem groupDefineFinalBody_defined (held : Bool) (s : State) (hr : repeatChoice (task.word 0) ≠ 1)
    (hg : s.groups[argGroup task.arg] ≠ none) :
    groupDefineFinalBody task held s = s.finish task held .groupDefined [] := by
  simp only [groupDefineFinalBody, if_neg hr, if_pos (Option.isSome_iff_ne_none.2 hg)]

theorem groupDefineFinalBody_undefined (held : Bool) (s : State) (hr : repeatChoice (task.word 0) ≠ 1)
    (hg : s.groups[argGroup task.arg] = none) :
    groupDefineFinalBody task held s =
      (s.defineGroup (argGroup task.arg) task.settings none).finish task held .ok [] := by
  simp [groupDefineFinalBody, hr, hg]

/-- With a repeat pattern supplied the final step turns on the verdict of the conflict check (R35). -/
theorem groupDefineFinalBody_checked (held : Bool) (s : State) {verdict : CheckVerdict}
    (hr : repeatChoice (task.word 0) = 1)
    (hc : conflictCheck [reservedRepeatContender task (s.newRepeat task)] (s.conflictSet (fun _ => false)) s =
      (u, verdict)) :
    groupDefineFinalBody task held s = match verdict with
      | .conflict other => u.returnReservation.finish task held .conflict (u.conflictResult other)
      | .unreadable => u.returnReservation.finish task held .entryDamaged []
      | .clear =>
        (u.defineGroup (argGroup task.arg) task.settings (some (s.newRepeat task))).finish task held .ok [] := by
  cases verdict <;> simp only [groupDefineFinalBody, if_pos hr, hc]

end

theorem groupRemoveBody_undefined (task : Task) (held : Bool) (s : State) (hg : s.groups[argGroup task.arg] = none) :
    groupRemoveBody task held s = s.finish task held .noSuchGroup [] := by
  simp only [groupRemoveBody, hg]

theorem groupRemoveBody_defined (task : Task) (held : Bool) (s : State) {group : Group}
    (hg : s.groups[argGroup task.arg] = some group) :
    groupRemoveBody task held s = if 0 < group.entryCount then s.finish task held .groupNotEmpty []
      else (((s.releaseRepeat (argGroup task.arg) group.repeatPattern).setGroup (argGroup task.arg) none).clearToggle
        (argGroup task.arg)).finish task held .ok [] := by
  simp only [groupRemoveBody, hg]

/-- Settles O44: the final step's two guards, then the verdict of its conflict check; GROUP REMOVE by the group's
record. -/
theorem groupsAreDefinedAndRemoved : Obligations.GroupsAreDefinedAndRemoved := by
  unfold Obligations.GroupsAreDefinedAndRemoved
  intro s task held g served untoggled
  refine ⟨?_, ?_⟩
  · intro hs fresh
    rw [exec_groupDefineFinalStep hs]
    refine ⟨fun hr hg => ?_, fun hr hg => ?_, fun u verdict hr hc => ?_⟩
    · rw [groupDefineFinalBody_defined held served hr hg]
    · rw [groupDefineFinalBody_undefined held served hr hg]
      rfl
    · rw [groupDefineFinalBody_checked held served hr hc]
      refine ⟨?_, ?_, ?_⟩
      · rintro other rfl
        rfl
      · rintro rfl
        rfl
      · rintro rfl
        simp only [State.defineGroup_some]
        rfl
  · intro hs
    rw [exec_groupRemoveStep hs]
    refine ⟨fun hg => ?_, fun group hg hn => ?_, fun group hg hn => ?_⟩
    · rw [groupRemoveBody_undefined task held served hg]
    · rw [groupRemoveBody_defined task held served hg, if_pos hn]
    · rw [groupRemoveBody_defined task held served hg, if_neg (by omega)]
      refine ⟨_, rfl, ?_, served.binList_releaseRepeat g group.repeatPattern⟩
      rw [State.releaseRepeat_frame]
      rfl

/-! ## Entries suspended, resumed and retired (R32 to R34) -/

section
variable {s : State} {task : Task} {h : Handle} {e : Installed}

theorem suspendBody_notCurrent (held : Bool) (hc : s.currentWord (task.word 0) = none) :
    suspendBody task held s = s.finish task held .noSuchEntry [] := by
  simp only [suspendBody, hc]

theorem suspendBody_current (held : Bool) (hc : s.currentWord (task.word 0) = some (h, e)) :
    suspendBody task held s = match e.status with
      | .damaged => s.finish task held .entryDamaged []
      | .suspended => s.finish task held .ok []
      | .active => (((s.leaveFrames h.slot e).setInstalled h.slot { e with status := .suspended }).sendNotice
          (.entrySuspended h)).finish task held .ok [] := by
  cases hst : e.status <;> simp only [suspendBody, hc, hst]

theorem resumeBody_notCurrent (held : Bool) (hc : s.currentWord (task.word 0) = none) :
    resumeBody task held s = s.finish task held .noSuchEntry [] := by
  simp only [resumeBody, hc]

theorem resumeBody_current (held : Bool) (hc : s.currentWord (task.word 0) = some (h, e)) :
    resumeBody task held s = match e.status with
      | .damaged => s.finish task held .entryDamaged []
      | .active => s.finish task held .ok []
      | .suspended =>
        ((s.setInstalled h.slot { e with status := .active }).joinFrames h.slot e).finish task held .ok [] := by
  cases hst : e.status <;> simp only [resumeBody, hc, hst]

theorem retireBody_notCurrent (held : Bool) (hc : s.currentWord (task.word 0) = none) :
    retireBody task held s = s.finish task held .noSuchEntry [] := by
  simp only [retireBody, hc]

theorem retireBody_current (held : Bool) (hc : s.currentWord (task.word 0) = some (h, e)) :
    retireBody task held s = (s.retireEntry h e).finish task held .ok [] := by
  simp only [retireBody, hc]

end

/-- The chains of an entry are sent to the pool, main before alternate (R34, R55). -/
theorem State.releaseFrames_eq (s : State) (e : Installed) :
    s.releaseFrames e = { s with
      mail := { s.mail with releases := s.mail.releases ++ e.main :: e.alternate.toList } } := by
  unfold State.releaseFrames
  cases e.alternate with
  | none => rfl
  | some chain => simp [State.sendRelease, State.setMail]

theorem State.changeCount_of_some {s : State} {g : GroupNo} {group : Group} (hg : s.groups[g] = some group)
    {f : Nat → Nat} :
    s.changeCount g f = s.setGroup g (some { group with entryCount := f group.entryCount }) := by
  simp only [State.changeCount, hg]

/-- A retired entry leaves the slot FREE, its bin if it was ACTIVE, both chains released, its group with one entry less,
and two notices (R34). -/
theorem State.retireEntry_eq (s : State) (h : Handle) (e : Installed) {g : Group} (hg : s.groups[e.group] = some g) :
    s.retireEntry h e = { s with
      entries := s.entries.set h.slot { s.entries[h.slot] with occupant := .free }
      bins := if e.status = .active then (s.leaveFrames h.slot e).bins else s.bins
      groups := s.groups.set e.group (some { g with entryCount := g.entryCount - 1 })
      mail := { s.mail with
        path := s.mail.path ++ [.entryRetired h], retires := s.mail.retires ++ [h]
        releases := s.mail.releases ++ e.main :: e.alternate.toList } } := by
  cases hst : e.status with
  | active =>
    obtain ⟨bins, hb⟩ := s.leaveFrames_frame h.slot e
    simp only [State.retireEntry, hst, hb, State.releaseFrames_eq]
    rw [State.changeCount_of_some (by exact hg)]
    rfl
  | suspended | damaged =>
    simp only [State.retireEntry, hst, State.releaseFrames_eq]
    rw [State.changeCount_of_some (by exact hg)]
    rfl

/-- The patterns of an ACTIVE entry leave their bin when it is retired; those of another are in none. -/
theorem State.binList_retireEntry (s : State) (h : Handle) {e : Installed} {g : Group}
    (hg : s.groups[e.group] = some g) (n : Nat) :
    (s.retireEntry h e).binList n = if n = e.runCount ∧ e.status = .active then
        (s.binList n).filter (fun r => decide (r ≠ .frame h.slot .main) && decide (r ≠ .frame h.slot .alternate))
      else s.binList n := by
  by_cases hst : e.status = .active
  · have hbins : (s.retireEntry h e).bins = (s.leaveFrames h.slot e).bins := by
      rw [s.retireEntry_eq h e hg]
      exact if_pos hst
    rw [State.binList_congr hbins, State.binList_leaveFrames]
    simp only [hst, and_true]
  · have hbins : (s.retireEntry h e).bins = s.bins := by
      rw [s.retireEntry_eq h e hg]
      exact if_neg hst
    rw [State.binList_congr hbins, if_neg (fun hn => hst hn.2)]

/-- Settles O47: each of the three commands by the currency of the handle and the status of the entry. -/
theorem entriesSuspendResumeAndRetire : Obligations.EntriesSuspendResumeAndRetire := by
  unfold Obligations.EntriesSuspendResumeAndRetire
  intro s task held i step hi hs served without
  rcases hi with ⟨rfl, rfl⟩ | ⟨rfl, rfl⟩ | ⟨rfl, rfl⟩
  · rw [exec_suspend hs]
    refine ⟨fun hc => ?_, fun h e hc => ?_⟩
    · rw [suspendBody_notCurrent (s := served) held hc]
    · rw [suspendBody_current (s := served) held hc]
      refine ⟨fun _ hst => ?_, fun _ hst => ?_, nofun, fun _ hst => ?_, nofun, nofun⟩
      · rw [hst]
      · rw [hst]
      · rw [hst]
        refine ⟨_, rfl, ?_, served.binList_leaveFrames h.slot e⟩
        obtain ⟨bins, hb⟩ := served.leaveFrames_frame h.slot e
        rw [hb]
        rfl
  · rw [exec_resume hs]
    refine ⟨fun hc => ?_, fun h e hc => ?_⟩
    · rw [resumeBody_notCurrent (s := served) held hc]
    · rw [resumeBody_current (s := served) held hc]
      refine ⟨fun _ hst => ?_, nofun, fun _ hst => ?_, nofun, fun _ hst => ?_, nofun⟩
      · rw [hst]
      · rw [hst]
      · rw [hst]
        refine ⟨_, rfl, ?_, State.binList_joinFrames _ h.slot e⟩
        obtain ⟨bins, hb⟩ := (served.setInstalled h.slot { e with status := .active }).joinFrames_frame h.slot e
        rw [hb]
        rfl
  · rw [exec_retire hs]
    refine ⟨fun hc => ?_, fun h e hc => ?_⟩
    · rw [retireBody_notCurrent (s := served) held hc]
    · rw [retireBody_current (s := served) held hc]
      refine ⟨fun hn => absurd rfl hn, nofun, nofun, nofun, nofun, fun _ g hg => ?_⟩
      refine ⟨_, rfl, ?_, served.binList_retireEntry h hg⟩
      rw [served.retireEntry_eq h e hg]

end Sys2Proof.Machine
end

section
/-! SUPPORT. The press tracker: what each of its operations does to a record that is FREE, HELD or ENDED, then REPORT and
PRESS READ with the fields of the report words, the ends of presses, and the follow links (R107 to R113, R115, R116, R118,
R119). -/

namespace Sys2Proof.Machine

/-! ## A request of a command to a block -/

/-- A block takes the request of the command in EXECUTE when no table step of it waits (R171). -/
theorem State.blockRequest_of_atRequest {s : State} {c : HostCommand} {task : Task} {held : Bool}
    (hs : s.AtRequest c task held) (body : Task → Bool → State → State) : s.blockRequest c body = body task held s := by
  obtain ⟨hengine, hcommand, hclaim⟩ := hs
  rw [State.blockRequest, hengine]
  exact if_pos ⟨hcommand, hclaim⟩

section
variable {s : State} {task : Task} {held : Bool}

theorem exec_report (hs : s.AtRequest .report task held) :
    exec (.report .request) s = .next (reportWork task held s) :=
  congrArg _ (State.blockRequest_of_atRequest hs _)

theorem exec_pressRead (hs : s.AtRequest .pressRead task held) :
    exec (.pressRead .request) s = .next (pressReadWork task held s) :=
  congrArg _ (State.blockRequest_of_atRequest hs _)

theorem exec_pressEnd (hs : s.AtRequest .pressEnd task held) :
    exec (.pressEnd .request) s = .next (pressEndWork task held s) :=
  congrArg _ (State.blockRequest_of_atRequest hs _)

end

/-! ## Fields of a result word -/

/-- A field of a result word is the field of the number. -/
theorem toNat_extractLsb'_wordOf (n : Nat) {lo len : Nat} (h : lo + len ≤ 16) :
    ((wordOf n).extractLsb' lo len).toNat = n / 2 ^ lo % 2 ^ len := by
  rw [BitVec.extractLsb'_toNat, wordOf, BitVec.toNat_ofNat, Nat.shiftRight_eq_div_pow,
    ← Nat.sub_add_cancel (Nat.le_trans (Nat.le_add_right lo len) h), Nat.add_comm, Nat.pow_add, Nat.mod_mul_right_div_self,
    Nat.mod_mod_of_dvd _ (Nat.pow_dvd_pow 2 (by omega))]

/-- A bit of a result word is the bit of the number. -/
theorem getLsbD_wordOf (n : Nat) {k : Nat} (h : k < 16) : (wordOf n).getLsbD k = decide (n / 2 ^ k % 2 = 1) := by
  rw [wordOf, BitVec.getLsbD_ofNat, Nat.testBit_eq_decide_div_mod_eq, decide_eq_true h, Bool.true_and]

theorem bitAt_eq (b : Bool) (k : Nat) : bitAt b k = b.toNat * 2 ^ k := by
  cases b <;> simp [bitAt]

theorem toNat_wordOf {n : Nat} (h : n ≤ 65535) : (wordOf n).toNat = n :=
  Nat.mod_eq_of_lt (Nat.lt_succ_of_le h)

/-! ## One press record (R97, R119) -/

theorem Press.isHeld_iff (p : Press) :
    p.isHeld = true ↔ ∃ deadline limit links, p.life = .held deadline limit links := by
  unfold Press.isHeld Press.isEnded
  cases p.life <;> simp

theorem Press.isEnded_iff (p : Press) : p.isEnded = true ↔ ∃ cause duration, p.life = .ended cause duration := by
  unfold Press.isEnded
  cases p.life <;> simp

theorem EndCause.field_lt (cause : EndCause) : cause.field < 16 := by
  cases cause <;> decide

theorem Press.causeField_lt (p : Press) : p.causeField < 16 := by
  unfold Press.causeField
  cases p.life with
  | held => exact Nat.zero_lt_succ _
  | ended cause => exact cause.field_lt

theorem Variant.field_lt (v : Variant) : v.field < 2 := by
  cases v <;> decide

/-- The first report word: record number, the three flags and the end cause at their places (R193). -/
theorem reportStateWord_fields (cause record : Nat) (hc : cause < 16) (hr : record < 16)
    (endPending startPending ended : Bool) :
    let a := wordOf (cause * 2 ^ 12 + bitAt endPending 9 + bitAt startPending 8 + bitAt ended 7 + record)
    (a.extractLsb' 0 4).toNat = record ∧ a.extractLsb' 4 3 = 0#3 ∧ a.getLsbD 8 = startPending ∧
      a.getLsbD 9 = endPending ∧ a.getLsbD 7 = ended ∧ (a.extractLsb' 12 4).toNat = cause := by
  have hend := endPending.toNat_lt
  have hstart := startPending.toNat_lt
  have hended := ended.toNat_lt
  refine ⟨?_, BitVec.eq_of_toNat_eq ?_, ?_, ?_, ?_, ?_⟩
  all_goals simp only [toNat_extractLsb'_wordOf, getLsbD_wordOf, bitAt_eq, BitVec.toNat_ofNat, Nat.reduceLeDiff, Nat.reduceLT,
    Nat.reduceAdd, Nat.reducePow, Nat.reduceMod]
  · omega
  · omega
  · cases startPending <;> simp <;> omega
  · cases endPending <;> simp <;> omega
  · cases ended <;> simp <;> omega
  · omega

/-- The second report word: sequence number, input, variant and group at their places (R193). -/
theorem reportNameWord_fields (p : Press) :
    let b := wordOf (p.group.val * 2 ^ 12 + p.variant.field * 2 ^ 10 + p.input.val * 2 ^ 8 + p.sequence.toNat)
    b.extractLsb' 0 8 = p.sequence ∧ (b.extractLsb' 8 2).toNat = p.input.val ∧
      (b.extractLsb' 10 1).toNat = p.variant.field ∧ (b.extractLsb' 12 4).toNat = p.group.val := by
  have hgroup := p.group.isLt
  have hvariant := p.variant.field_lt
  have hinput := p.input.isLt
  have hsequence := p.sequence.isLt
  refine ⟨BitVec.eq_of_toNat_eq ?_, ?_, ?_, ?_⟩
  all_goals rw [toNat_extractLsb'_wordOf _ (by decide)]; omega

/-- The duration shown of a HELD record is that up to its last credit (R97, R119). -/
theorem Press.duration_held {p : Press} {deadline : Time} {limit : Option Time} {links : OutputMask}
    (h : p.life = .held deadline limit links) : p.duration = min ((p.lastCredit - p.startTime) / 1000) 65535 := by
  rw [Press.duration, h]
  rfl

theorem Press.duration_ended {p : Press} {cause : EndCause} {duration : Nat} (h : p.life = .ended cause duration) :
    p.duration = duration := by
  rw [Press.duration, h]

/-! ## REPORT and PRESS READ (R118, R119) -/

theorem State.collectReport_empty {s : State} (h : s.tracker.reportList = []) : s.collectReport = (s, [0xFFFF]) := by
  rw [State.collectReport, h]

/-- The head of the report list leaves it, and its record is freed if it is ENDED and loses its flags if it is HELD. -/
theorem State.collectReport_head {s : State} {r : PressNo} {rest : List PressNo} {p : Press}
    (hlist : s.tracker.reportList = r :: rest) (hp : s.tracker.presses[r] = some p) :
    s.collectReport = ({ s with tracker := { s.tracker with
      reportList := rest
      presses := s.tracker.presses.set r
        (if p.isEnded then none else some { p with startPending := false, endPending := false }) } }, reportWords r p) := by
  simp only [State.collectReport, hlist, hp]
  rfl

/-- REPORT by the two cases of the report list (R118). -/
theorem reports : Clause.reports := by
  intro s task held hs
  rw [exec_report hs, reportWork]
  refine ⟨fun hempty => ?_, fun r rest p hlist hp => ?_⟩
  · rw [State.collectReport_empty hempty]
  · rw [State.collectReport_head hlist hp]
    unfold Press.isEnded
    cases p.life <;> rfl

/-- PRESS READ by the two cases of the record (R119). -/
theorem pressReads : Clause.pressReads := by
  intro s task held hs
  rw [exec_pressRead hs, pressReadWork]
  refine ⟨fun hfree => ?_, fun p hp => ?_⟩
  · simp only [hfree]
  · simp only [hp]

/-- The report words by the fields of their first two (R193). -/
theorem reportContents : Clause.reportContents := by
  intro r p hframes
  obtain ⟨hrecord, hzero, hstart, hend, hended, hcause⟩ :=
    reportStateWord_fields p.causeField r.val p.causeField_lt r.isLt p.endPending p.startPending p.isEnded
  obtain ⟨hsequence, hinput, hvariant, hgroup⟩ := reportNameWord_fields p
  refine ⟨_, _, _, _, rfl, hrecord, hzero, hstart, hend, hended, hcause, hsequence, hinput, hvariant, hgroup,
    toNat_wordOf hframes, fun deadline limit links hlife => ?_, fun cause duration hlife => ?_⟩
  · rw [Press.duration_held hlife, toNat_wordOf (Nat.min_le_right _ _)]
  · rw [Press.duration_ended hlife, wordOf]

/-- Settles O29: REPORT by the two cases of the report list, PRESS READ by the two cases of the record, and the words by
their packed fields. -/
theorem reportsShowPressRecords : Obligations.ReportsShowPressRecords :=
  ⟨reports, pressReads, reportContents⟩

/-! ## A press ended (R110) -/

/-- Hold-ended is sent to an output or not; one that is not sent is an empty list of messages. -/
theorem State.sendHoldEnded_if (s : State) (b : Bool) (o : OutputId) (press : PressName) :
    (if b then s.sendHoldEnded o press else s) = { s with mail := { s.mail with
      holdEnded := s.mail.holdEnded.set o (s.mail.holdEnded[o] ++ if b then [press] else []) } } := by
  cases b with
  | true => rfl
  | false => simp

/-- Hold-ended is sent to TX0, then to TX1, each if its follow link is present; the other messages stand. -/
theorem State.sendHoldEndeds_eq (s : State) (links : OutputMask) (press : PressName) :
    s.sendHoldEndeds links press =
      let told := fun (o : OutputId) => s.mail.holdEnded[o] ++ if OutputMask.has links o then [press] else []
      { s with mail := { s.mail with
        holdEnded := (s.mail.holdEnded.set (0 : OutputId) (told 0)).set (1 : OutputId) (told 1) } } := by
  simp [State.sendHoldEndeds, State.sendHoldEnded_if]

theorem State.joinReports_eq (s : State) (r : PressNo) :
    s.joinReports r = { s with tracker := { s.tracker with
      reportList := if r ∈ s.tracker.reportList then s.tracker.reportList else s.tracker.reportList ++ [r] } } := by
  by_cases h : r ∈ s.tracker.reportList <;> simp [State.joinReports, h]

/-- The three steps of the end of a HELD press. -/
theorem State.endPress_held {s : State} {r : PressNo} {p : Press} {deadline : Time} {limit : Option Time}
    {links : OutputMask} (cause : EndCause) (hp : s.tracker.presses[r] = some p)
    (hlife : p.life = .held deadline limit links) :
    s.endPress r cause = ((s.setPress r (some { p with
      life := .ended cause (min ((p.lastCredit - p.startTime) / 1000) 65535), endPending := true })).joinReports
        r).sendHoldEndeds links ⟨r, p.sequence⟩ := by
  simp only [State.endPress, hp, hlife]
  rfl

/-- An ENDED or FREE record is left as it is. -/
theorem State.endPress_of_not_held {s : State} {r : PressNo} (cause : EndCause)
    (h : ∀ p, s.tracker.presses[r] = some p → p.isEnded = true) : s.endPress r cause = s := by
  unfold State.endPress
  split
  · rfl
  · rename_i p hp
    obtain ⟨cause', duration, hlife⟩ := p.isEnded_iff.mp (h p hp)
    rw [hlife]

/-- The end of one press leaves every other record as it is. -/
theorem State.endPress_presses_ne (s : State) {r q : PressNo} (cause : EndCause) (h : q ≠ r) :
    (s.endPress r cause).tracker.presses[q] = s.tracker.presses[q] := by
  by_cases hheld : ∃ p, s.tracker.presses[r] = some p ∧ p.isHeld = true
  · obtain ⟨p, hp, hp'⟩ := hheld
    obtain ⟨deadline, limit, links, hlife⟩ := p.isHeld_iff.mp hp'
    rw [State.endPress_held cause hp hlife, State.sendHoldEndeds_eq, State.joinReports_eq]
    exact Vector.getElem_set_ne r.isLt q.isLt (fun e => h (Fin.ext e.symm))
  · rw [State.endPress_of_not_held]
    intro p hp
    simpa [Press.isHeld] using fun hh => hheld ⟨p, hp, hh⟩

/-! ## Deadlines and notices (R107 to R112) -/

section
variable {s : State} {r : PressNo} {p : Press} {deadline : Time} {limit : Option Time} {links : OutputMask}

theorem State.releaseDue_held (hp : s.tracker.presses[r] = some p) (hlife : p.life = .held deadline limit links) :
    s.releaseDue r = decide (deadline ≤ s.timebase) := by
  simp only [State.releaseDue, hp, hlife]

theorem State.limitDue_held (hp : s.tracker.presses[r] = some p) (hlife : p.life = .held deadline limit links) :
    s.limitDue r = true ↔ ∃ at_, limit = some at_ ∧ at_ ≤ s.timebase := by
  cases limit <;> simp [State.limitDue, hp, hlife]

end

/-- No deadline of an ENDED or FREE record is due. -/
theorem State.due_of_not_held {s : State} {r : PressNo} (h : ∀ p, s.tracker.presses[r] = some p → p.isEnded = true) :
    s.releaseDue r = false ∧ s.limitDue r = false := by
  unfold State.releaseDue State.limitDue
  cases hp : s.tracker.presses[r] with
  | none => exact ⟨rfl, rfl⟩
  | some p =>
    obtain ⟨cause, duration, hlife⟩ := p.isEnded_iff.mp (h p hp)
    simp only [hlife, and_self]

/-- The record is HELD and a notice reaches it. -/
def State.reachedBy (s : State) (reaches : Press → Bool) (r : PressNo) : Bool :=
  match s.tracker.presses[r] with
  | some p => p.isHeld && reaches p
  | none => false

theorem State.endPressIf_eq (s : State) (reaches : Press → Bool) (cause : EndCause) (r : PressNo) :
    s.endPressIf reaches cause r = if s.reachedBy reaches r then s.endPress r cause else s := by
  unfold State.endPressIf State.reachedBy
  cases hp : s.tracker.presses[r] with
  | none => rfl
  | some p =>
    cases hh : p.isHeld with
    | true => simp [hh]
    | false =>
      have hended : p.isEnded = true := by simpa [Press.isHeld] using hh
      rw [State.endPress_of_not_held cause (fun q hq => by rw [hp] at hq; cases hq; exact hended)]
      simp [hh]

theorem State.reachedBy_endPress_ne (s : State) (reaches : Press → Bool) {r q : PressNo} (cause : EndCause) (h : q ≠ r) :
    (s.endPress r cause).reachedBy reaches q = s.reachedBy reaches q := by
  rw [State.reachedBy, State.reachedBy, s.endPress_presses_ne cause h]

/-- Which records a notice ends is settled before it ends the first: the end of one press changes no other record. -/
theorem State.foldl_endPressIf (reaches : Press → Bool) (cause : EndCause) (l : List PressNo) (hl : l.Nodup) (s : State) :
    l.foldl (fun u r => u.endPressIf reaches cause r) s =
      (l.filter (s.reachedBy reaches)).foldl (fun u r => u.endPress r cause) s := by
  induction l generalizing s with
  | nil => rfl
  | cons r rest ih =>
    obtain ⟨hr, hrest⟩ := List.nodup_cons.mp hl
    rw [List.foldl_cons, s.endPressIf_eq, ih hrest]
    cases hreached : s.reachedBy reaches r with
    | false => simp [hreached]
    | true =>
      have hlater : rest.filter ((s.endPress r cause).reachedBy reaches) = rest.filter (s.reachedBy reaches) :=
        List.filter_congr fun q hq => s.reachedBy_endPress_ne reaches cause (fun e => hr (e ▸ hq))
      simp [hreached, hlater]

theorem State.endPresses_eq (s : State) (reaches : Press → Bool) (cause : EndCause) :
    s.endPresses reaches cause =
      ((List.finRange 16).filter (s.reachedBy reaches)).foldl (fun u r => u.endPress r cause) s :=
  State.foldl_endPressIf reaches cause _ (List.nodup_finRange 16) s

/-- The tracker takes a notice of the kind it wants from the head of the path (R94, R100). -/
theorem State.takeNotice_head {s : State} {n : Notice} {rest : List Notice} {want : Notice → Option (State → State)}
    {act : State → State} (hpath : s.mail.path = n :: rest) (hwant : want n = some act) :
    s.takeNotice want = act { s with mail := { s.mail with path := rest } } := by
  simp only [State.takeNotice, hpath, hwant]
  rfl

section
variable {s : State} {rest : List Notice} {h : Handle}

theorem exec_entryRetiredNotice (hpath : s.mail.path = .entryRetired h :: rest) :
    exec .entryRetiredNotice s =
      .next (({ s with mail := { s.mail with path := rest } } : State).endPresses (ofEntry h) .retired) := by
  show execEntryRetiredNotice s = _
  rw [execEntryRetiredNotice, State.takeNotice_head hpath rfl]

theorem exec_entrySuspendedNotice (hpath : s.mail.path = .entrySuspended h :: rest) :
    exec .entrySuspendedNotice s =
      .next (({ s with mail := { s.mail with path := rest } } : State).endPresses (ofEntry h) .suspended) := by
  show execEntrySuspendedNotice s = _
  rw [execEntrySuspendedNotice, State.takeNotice_head hpath rfl]

theorem exec_entryDamagedNotice (hpath : s.mail.path = .entryDamaged h :: rest) :
    exec .entryDamagedNotice s =
      .next (({ s with mail := { s.mail with path := rest } } : State).endPresses (ofEntry h) .damaged) := by
  show execEntryDamagedNotice s = _
  rw [execEntryDamagedNotice, State.takeNotice_head hpath rfl]

theorem exec_groupChangedNotice {g : GroupNo} (hpath : s.mail.path = .groupChanged g :: rest) :
    exec .groupChangedNotice s =
      .next (({ s with mail := { s.mail with path := rest } } : State).endPresses (ofPressGroup g) .groupChanged) := by
  show execGroupChangedNotice s = _
  rw [execGroupChangedNotice, State.takeNotice_head hpath rfl]

theorem exec_inputChangeNotice {i : InputId} {later : List InputId} (hqueue : s.mail.inputChanges = i :: later) :
    exec .inputChangeNotice s = .next
      (({ s with mail := { s.mail with inputChanges := later } } : State).endPresses (ofInput i) .inputChanged) := by
  refine congrArg Host.Outcome.next ?_
  simp only [hqueue]
  rfl

end

/-! ## PRESS END and the follow links (R113, R115, R116) -/

section
variable {s : State} {press : PressName} {p : Press} {deadline : Time} {limit : Option Time} {links : OutputMask}

theorem State.heldNamed_held (hp : s.tracker.presses[press.record] = some p) (hsequence : p.sequence = press.sequence)
    (hlife : p.life = .held deadline limit links) : s.heldNamed press = some p := by
  have hheld := p.isHeld_iff.mpr ⟨deadline, limit, links, hlife⟩
  simp only [State.heldNamed, hp, hheld, hsequence, decide_true, Bool.and_self, if_true]

/-- No press has the name when the record is not HELD or has another sequence number. -/
theorem State.heldNamed_none
    (h : ∀ p deadline limit links, s.tracker.presses[press.record] = some p →
      p.life = .held deadline limit links → p.sequence ≠ press.sequence) : s.heldNamed press = none := by
  unfold State.heldNamed
  split
  · rename_i p hp
    refine if_neg fun hnamed => ?_
    obtain ⟨hheld, hsequence⟩ := Bool.and_eq_true_iff.mp hnamed
    obtain ⟨deadline, limit, links, hlife⟩ := p.isHeld_iff.mp hheld
    exact h p deadline limit links hp hlife (of_decide_eq_true hsequence)
  · rfl

theorem Press.withLinks_held (hlife : p.life = .held deadline limit links) (f : OutputMask → OutputMask) :
    p.withLinks f = { p with life := .held deadline limit (f links) } := by
  simp only [Press.withLinks, hlife]

theorem State.takeLinkRequest_held {q : LinkRequest} (hp : s.tracker.presses[q.press.record] = some p)
    (hsequence : p.sequence = q.press.sequence) (hlife : p.life = .held deadline limit links) :
    s.takeLinkRequest q = s.setPress q.press.record
      (some { p with life := .held deadline limit (OutputMask.insert links q.output) }) := by
  simp only [State.takeLinkRequest, State.heldNamed_held hp hsequence hlife, Press.withLinks_held hlife]

theorem State.takeLinkRequest_none {q : LinkRequest}
    (h : ∀ p deadline limit links, s.tracker.presses[q.press.record] = some p →
      p.life = .held deadline limit links → p.sequence ≠ q.press.sequence) :
    s.takeLinkRequest q = s.sendHoldEnded q.output q.press := by
  simp only [State.takeLinkRequest, State.heldNamed_none h]

theorem State.takeLinkClear_held {o : OutputId} (hp : s.tracker.presses[press.record] = some p)
    (hsequence : p.sequence = press.sequence) (hlife : p.life = .held deadline limit links) :
    s.takeLinkClear o press = s.setPress press.record
      (some { p with life := .held deadline limit (OutputMask.remove links o) }) := by
  simp only [State.takeLinkClear, State.heldNamed_held hp hsequence hlife, Press.withLinks_held hlife]

theorem State.takeLinkClear_none {o : OutputId}
    (h : ∀ p deadline limit links, s.tracker.presses[press.record] = some p →
      p.life = .held deadline limit links → p.sequence ≠ press.sequence) : s.takeLinkClear o press = s := by
  simp only [State.takeLinkClear, State.heldNamed_none h]

end

theorem exec_linkRequest {s : State} {q : LinkRequest} {rest : List LinkRequest}
    (hqueue : s.mail.linkRequests = q :: rest) :
    exec .linkRequest s =
      .next (({ s with mail := { s.mail with linkRequests := rest } } : State).takeLinkRequest q) := by
  refine congrArg Host.Outcome.next ?_
  simp only [hqueue]
  rfl

theorem exec_linkClear {s : State} {o : OutputId} {press : PressName} {rest : List PressName}
    (hqueue : s.mail.linkClears[o] = press :: rest) :
    exec (.linkClear o) s = .next
      (({ s with mail := { s.mail with linkClears := s.mail.linkClears.set o rest } } : State).takeLinkClear o press) := by
  refine congrArg Host.Outcome.next ?_
  simp only [hqueue]
  rfl

/-! ## Presses end and are followed (R107 to R113, R115, R116) -/

/-- The end of a HELD press (R110). -/
theorem pressEnding : Clause.pressEnding := by
  refine fun s r cause => ⟨fun p deadline limit links hp hlife => ?_, State.endPress_of_not_held cause⟩
  rw [State.endPress_held cause hp hlife, State.sendHoldEndeds_eq, State.joinReports_eq]
  rfl

/-- PRESS END by whether the named press is HELD (R113). -/
theorem pressEnds : Clause.pressEnds := by
  refine fun s task held hs => ⟨fun p deadline limit links hp hsequence hlife => ?_, fun hother => ?_⟩
  · have hnamed : s.heldNamed ⟨argPress task.arg, lowByte (task.word 0)⟩ = some p :=
      State.heldNamed_held hp hsequence hlife
    simp only [exec_pressEnd hs, pressEndWork, hnamed]
  · have hnone : s.heldNamed ⟨argPress task.arg, lowByte (task.word 0)⟩ = none := State.heldNamed_none hother
    simp only [exec_pressEnd hs, pressEndWork, hnone]

/-- The two expiries by whether a deadline stands and has been reached (R107 to R109). -/
theorem deadlineExpiries : Clause.deadlineExpiries := by
  intro s r t
  have release : exec (.releaseExpiry r t) s = .next
      (if (s.advanceTo t).releaseDue r then (s.advanceTo t).endPress r .released else s.advanceTo t) := rfl
  have pressLimit : exec (.pressLimitExpiry r t) s = .next
      (if (s.advanceTo t).limitDue r then (s.advanceTo t).endPress r .limit else s.advanceTo t) := rfl
  refine ⟨fun p deadline limit links hp hlife => ?_, fun hnot => ?_⟩
  · have hdeadline : (s.advanceTo t).releaseDue r = decide (deadline ≤ max s.timebase t) :=
      State.releaseDue_held hp hlife
    have hlimit : (s.advanceTo t).limitDue r = true ↔ ∃ at_, limit = some at_ ∧ at_ ≤ max s.timebase t :=
      State.limitDue_held hp hlife
    rw [release, pressLimit, hdeadline]
    refine ⟨fun hdue => ?_, fun hlater => ?_, fun at_ hat hdue => ?_, fun hlater => ?_⟩
    · rw [if_pos (decide_eq_true hdue)]
    · rw [if_neg fun hdue => absurd (of_decide_eq_true hdue) (Nat.not_le.mpr hlater)]
    · rw [if_pos (hlimit.mpr ⟨at_, hat, hdue⟩)]
    · rw [if_neg fun hdue => ?_]
      obtain ⟨at_, hat, hreached⟩ := hlimit.mp hdue
      exact absurd hreached (Nat.not_le.mpr (hlater at_ hat))
  · obtain ⟨hrelease, hlimit⟩ := State.due_of_not_held (s := s.advanceTo t) hnot
    rw [release, pressLimit, hrelease, hlimit]
    exact ⟨rfl, rfl⟩

/-- Each of the five notices ends the presses it reaches (R111, R112). -/
theorem endingNotices : Clause.endingNotices := by
  intro s i taken cause reaches hnotice
  have hpresses : taken.tracker = s.tracker := by
    obtain ⟨rest, rfl, -⟩ | ⟨n, rest, -, -, -, rfl, -⟩ := hnotice <;> rfl
  suffices hends : exec i s = .next (taken.endPresses reaches cause) by
    rw [hends, State.endPresses_eq, ← hpresses]
    rfl
  obtain ⟨rest, rfl, hpath⟩ | ⟨n, rest, rfl, hqueue, rfl, rfl, rfl⟩ := hnotice
  · obtain ⟨h, rfl, hhead, rfl, rfl⟩ | ⟨h, rfl, hhead, rfl, rfl⟩ | ⟨h, rfl, hhead, rfl, rfl⟩ | ⟨g, rfl, hhead, rfl, rfl⟩ :=
      hpath
    · exact exec_entryRetiredNotice hhead
    · exact exec_entrySuspendedNotice hhead
    · exact exec_entryDamagedNotice hhead
    · exact exec_groupChangedNotice hhead
  · exact exec_inputChangeNotice hqueue

/-- A link request and a link-clear by whether the named press is HELD (R115, R116). -/
theorem followLinks : Clause.followLinks := by
  refine fun s => ⟨fun q rest hqueue => ?_, fun o press rest hqueue => ?_⟩
  · rw [exec_linkRequest hqueue]
    refine ⟨fun p deadline limit links hp hsequence hlife => ?_, fun hother => ?_⟩
    · exact congrArg _ (State.takeLinkRequest_held hp hsequence hlife)
    · exact congrArg _ (State.takeLinkRequest_none hother)
  · rw [exec_linkClear hqueue]
    refine ⟨fun p deadline limit links hp hsequence hlife => ?_, fun hother => ?_⟩
    · exact congrArg _ (State.takeLinkClear_held hp hsequence hlife)
    · exact congrArg _ (State.takeLinkClear_none hother)

/-- Settles O57: each clause by whether the record is HELD, and the notices by the invariance of the other records under
the end of one press. -/
theorem pressesEndAndFollow : Obligations.PressesEndAndFollow :=
  ⟨pressEnding, pressEnds, deadlineExpiries, endingNotices, followLinks⟩

end Sys2Proof.Machine
end

section
/-! SUPPORT. The relay unit: which record a press start finds, what an output answers to a relay offer, the two offers of a
press start with their outcome and link requests, and what a retire notice does to each record (R128 to R131, R136, R156). -/

namespace Sys2Proof.Machine

/-! ## The arrivals (R128, R131) -/

theorem exec_pressStart {s : State} {p : PressStart} {rest : List PressStart} (hqueue : s.mail.pressStarts = p :: rest) :
    exec .pressStart s =
      .next (({ s with mail := { s.mail with pressStarts := rest } } : State).takePressStart p) := by
  refine congrArg Host.Outcome.next ?_
  simp only [hqueue]
  rfl

theorem exec_relayRetireNotice {s : State} {h : Handle} {rest : List Handle} (hqueue : s.mail.retires = h :: rest) :
    exec .relayRetireNotice s =
      .next (({ s with mail := { s.mail with retires := rest } } : State).takeRetire h) := by
  refine congrArg Host.Outcome.next ?_
  simp only [hqueue]
  rfl

/-! ## The record of a source (R124, R128) -/

theorem State.relayOfSource_spec {s : State} {h : Handle} {n : RelayNo} {r : RelayRecord}
    (hfound : s.relayOfSource h = some (n, r)) : s.relays[n] = some r ∧ r.source = h := by
  obtain ⟨m, -, hm⟩ := List.exists_of_findSome?_eq_some hfound
  split at hm
  · rename_i q hq
    split at hm
    · rename_i hsource
      cases hm
      exact ⟨hq, hsource⟩
    · cases hm
  · cases hm

theorem State.relayOfSource_eq_none {s : State} {h : Handle}
    (hother : ∀ (n : RelayNo) (r : RelayRecord), s.relays[n] = some r → r.source ≠ h) : s.relayOfSource h = none := by
  cases hfound : s.relayOfSource h with
  | none => rfl
  | some found =>
    obtain ⟨hr, hsource⟩ := State.relayOfSource_spec hfound
    exact absurd hsource (hother _ _ hr)

/-- The search does not pass by a record that names the source. -/
theorem State.relayOfSource_isSome {s : State} {h : Handle} {n : RelayNo} {r : RelayRecord}
    (hr : s.relays[n] = some r) (hsource : r.source = h) : (s.relayOfSource h).isSome = true := by
  refine List.findSome?_isSome_iff.mpr ⟨n, List.mem_finRange n, ?_⟩
  simp only [hr, hsource, if_true, Option.isSome_some]

/-- The only record that names the source is the one found. -/
theorem State.relayOfSource_eq_some {s : State} {h : Handle} {n : RelayNo} {r : RelayRecord}
    (hr : s.relays[n] = some r) (hsource : r.source = h)
    (honly : ∀ (m : RelayNo) (q : RelayRecord), s.relays[m] = some q → q.source = h → m = n) :
    s.relayOfSource h = some (n, r) := by
  obtain ⟨⟨m, q⟩, hfound⟩ := Option.isSome_iff_exists.mp (State.relayOfSource_isSome hr hsource)
  obtain ⟨hq, hqsource⟩ := State.relayOfSource_spec hfound
  obtain rfl := honly m q hq hqsource
  rw [hfound, Option.some.inj (hq.symm.trans hr)]

/-! ## The answer to a relay offer (R136, R156) -/

section
variable {s : State} {o : OutputId} {item : Item} {press : PressName}

theorem State.offer_off (hoff : s.outputs[o].config.kind = .off) : s.offer o item = (s, .outputOff) := by
  simp only [State.offer, Output.answer, hoff, if_true]

theorem State.offer_relay_full (horigin : item.origin = .relay press) (hon : s.outputs[o].config.kind ≠ .off)
    (hfull : 8 ≤ s.outputs[o].queue.length) :
    s.offer o item =
      ((s.setOutput o { s.outputs[o] with relayRefused := true }).setOutputAttention o true, .queueFull) := by
  have hanswer : s.outputs[o].answer item = .queueFull := by
    rw [Output.answer, if_neg hon]
    exact if_pos hfull
  simp only [State.offer, hanswer, horigin]

theorem State.offer_relay_accepted (horigin : item.origin = .relay press) (hon : s.outputs[o].config.kind ≠ .off)
    (hroom : s.outputs[o].queue.length < 8) :
    s.offer o item =
      (if s.outputs[o].state = .idle then
          (s.setOutput o { s.outputs[o] with queue := s.outputs[o].queue ++ [item] }).startHead o
        else s.setOutput o { s.outputs[o] with queue := s.outputs[o].queue ++ [item] }, .accepted) := by
  have hanswer : s.outputs[o].answer item = .accepted := by
    have hnotFull : ¬ Config.queueDepth ≤ s.outputs[o].queue.length := Nat.not_le.mpr hroom
    simp only [Output.answer, if_neg hon, if_neg hnotFull, horigin]
  simp only [State.offer, hanswer]

/-- Only a host item can be refused for its tag. -/
theorem State.offer_relay_ne_duplicateTag (horigin : item.origin = .relay press) :
    (s.offer o item).2 ≠ .duplicateTag := by
  by_cases hoff : s.outputs[o].config.kind = .off
  · rw [State.offer_off hoff]
    nofun
  · rcases Nat.lt_or_ge s.outputs[o].queue.length 8 with hroom | hfull
    · rw [State.offer_relay_accepted horigin hoff hroom]
      nofun
    · rw [State.offer_relay_full horigin hoff hfull]
      nofun

end

/-! ## The two offers of a press start (R129, R130) -/

theorem RelayRecord.item_origin (r : RelayRecord) (press : PressName) : (r.item press).origin = .relay press := by
  unfold RelayRecord.item
  cases r.mode <;> rfl

/-- The state after one output of the mask has been offered the item, and its answer; an output outside the mask is left
alone, and stands as one that refused nothing. -/
def State.relayAnswer (s : State) (r : RelayRecord) (press : PressName) (o : OutputId) : State × OfferAnswer :=
  if OutputMask.has r.outputMask o then s.offer o (r.item press) else (s, .accepted)

/-- The link that a placed FOLLOW item asks for. -/
def RelayRecord.linkFor (r : RelayRecord) (o : OutputId) (a : OfferAnswer) : List OutputId :=
  if OutputMask.has r.outputMask o = true ∧ a = .accepted ∧ r.mode = .follow then [o] else []

/-- Without a FOLLOW item there is no link request; with one, each output of the mask that placed it asks for its own. -/
theorem RelayRecord.map_linkFor (r : RelayRecord) (press : PressName) (a b : OfferAnswer) :
    (r.linkFor 0 a ++ r.linkFor 1 b).map (fun o => (⟨o, press⟩ : LinkRequest)) =
      if r.mode = .follow then
        (if OutputMask.has r.outputMask 0 = true ∧ a = .accepted then [⟨0, press⟩] else [])
          ++ (if OutputMask.has r.outputMask 1 = true ∧ b = .accepted then [⟨1, press⟩] else [])
      else [] := by
  unfold RelayRecord.linkFor
  by_cases hmode : r.mode = .follow
  · simp only [hmode, and_true, if_true, List.map_append, apply_ite (List.map _), List.map_cons, List.map_nil]
  · simp [hmode]

theorem State.relayAnswer_ne_duplicateTag (s : State) (r : RelayRecord) (press : PressName) (o : OutputId) :
    (s.relayAnswer r press o).2 ≠ .duplicateTag := by
  unfold State.relayAnswer
  split
  · exact State.offer_relay_ne_duplicateTag (r.item_origin press)
  · nofun

/-- Of two answers the last refusal decides, in whatever order the outputs refuse. -/
theorem RelayOutcome.queued_after_after {a b : OfferAnswer} :
    a ≠ .duplicateTag → b ≠ .duplicateTag → (RelayOutcome.queued.after a).after b = match a, b with
      | _, .outputOff => .outputOff
      | _, .queueFull => .queueFull
      | .outputOff, _ => .outputOff
      | .queueFull, _ => .queueFull
      | _, _ => .queued := by
  intro ha hb
  cases a with
  | duplicateTag => exact absurd rfl ha
  | accepted | outputOff | queueFull =>
    cases b with
    | duplicateTag => exact absurd rfl hb
    | accepted | outputOff | queueFull => rfl

theorem State.relayOffer_eq (r : RelayRecord) (press : PressName) (acc : State × RelayOutcome × List OutputId)
    (o : OutputId) :
    State.relayOffer r press acc o =
      ((acc.1.relayAnswer r press o).1, acc.2.1.after (acc.1.relayAnswer r press o).2,
        acc.2.2 ++ r.linkFor o (acc.1.relayAnswer r press o).2) := by
  unfold State.relayOffer State.relayAnswer RelayRecord.linkFor
  cases OutputMask.has r.outputMask o with
  | false => simp [RelayOutcome.after]
  | true =>
    simp only [if_true, true_and]
    split <;> simp

theorem State.sendLinkRequests_eq (press : PressName) (os : List OutputId) (s : State) :
    os.foldl (fun s o => s.sendLinkRequest o press) s =
      { s with mail := { s.mail with
        linkRequests := s.mail.linkRequests ++ os.map (fun o => (⟨o, press⟩ : LinkRequest)) } } := by
  induction os generalizing s with
  | nil => simp
  | cons o os ih =>
    rw [List.foldl_cons, ih]
    simp [State.sendLinkRequest, State.setMail]

/-! ## The decision on a press start (R128 to R130) -/

section
variable {s : State} {n : RelayNo} {r : RelayRecord} {p : PressStart}

theorem State.relayPress_otherInput (hinput : InputMask.has r.inputMask p.input = false) : s.relayPress n r p = s := by
  simp only [State.relayPress, hinput, Bool.not_false, if_true]

theorem State.relayPress_stale (hinput : InputMask.has r.inputMask p.input = true) (hstale : r.stale = true) :
    s.relayPress n r p = s.setRelay n (some { r with lastOutcome := .targetStale }) := by
  simp [State.relayPress, hinput, hstale]

theorem State.relayPress_noTarget (hinput : InputMask.has r.inputMask p.input = true) (hvalid : r.stale = false)
    (htarget : s.currentEntry r.target = none) :
    s.relayPress n r p = s.setRelay n (some { r with stale := true, lastOutcome := .targetStale }) := by
  simp [State.relayPress, hinput, hvalid, htarget]

theorem State.relayPress_damaged {e : Installed} (hinput : InputMask.has r.inputMask p.input = true)
    (hvalid : r.stale = false) (htarget : s.currentEntry r.target = some e) (hstatus : e.status = .damaged) :
    s.relayPress n r p = s.setRelay n (some { r with lastOutcome := .targetDamaged }) := by
  simp [State.relayPress, hinput, hvalid, htarget, hstatus]

/-- The item is offered to TX0, then TX1; the record takes the outcome of the two answers, and the links follow. -/
theorem State.relayPress_offers {e : Installed} (hinput : InputMask.has r.inputMask p.input = true)
    (hvalid : r.stale = false) (htarget : s.currentEntry r.target = some e) (hstatus : e.status ≠ .damaged)
    {first second : State × OfferAnswer} (hfirst : s.relayAnswer r p.press 0 = first)
    (hsecond : first.1.relayAnswer r p.press 1 = second) :
    s.relayPress n r p =
      { second.1.setRelay n (some { r with lastOutcome := (RelayOutcome.queued.after first.2).after second.2 }) with
        mail := { second.1.mail with linkRequests := second.1.mail.linkRequests ++
          (r.linkFor 0 first.2 ++ r.linkFor 1 second.2).map (fun o => (⟨o, p.press⟩ : LinkRequest)) } } := by
  simp only [State.relayPress, hinput, hvalid, htarget, hstatus, List.foldl_cons, List.foldl_nil, State.relayOffer_eq,
    State.sendLinkRequests_eq, hfirst, hsecond]
  rfl

theorem State.takePressStart_found (hfound : s.relayOfSource p.handle = some (n, r)) :
    s.takePressStart p = s.relayPress n r p := by
  simp only [State.takePressStart, hfound]

theorem State.takePressStart_notFound (hfound : s.relayOfSource p.handle = none) : s.takePressStart p = s := by
  simp only [State.takePressStart, hfound]

end

/-! ## The relay unit takes its arrivals -/

/-- A press start by the record of its source, and a live target by the answers of the two outputs (R128 to R130). -/
theorem pressStarts : Clause.pressStarts := by
  intro s p rest hqueue taken put
  have hexec : exec .pressStart s = .next (taken.takePressStart p) := exec_pressStart hqueue
  rw [hexec]
  refine ⟨fun hother => ?_, fun n r hr hsource honly => ?_⟩
  · rw [State.takePressStart_notFound (State.relayOfSource_eq_none (s := taken) hother)]
  · rw [State.takePressStart_found (State.relayOfSource_eq_some (s := taken) hr hsource honly)]
    refine ⟨fun hinput => ?_, fun hinput => ⟨fun hstale => ?_, fun hvalid htarget => ?_,
      fun e hvalid htarget hstatus => ?_, fun e hvalid htarget hstatus => ?_⟩⟩
    · rw [State.relayPress_otherInput hinput]
    · rw [State.relayPress_stale hinput hstale]
      rfl
    · rw [State.relayPress_noTarget (s := taken) hinput hvalid htarget]
      rfl
    · rw [State.relayPress_damaged (s := taken) hinput hvalid htarget hstatus]
      rfl
    · intro item want first second outcome links
      have hitem : r.item p.press = item := by
        cases hmode : r.mode <;> simp [RelayRecord.item, newItem, item, hmode]
      have hfirst : taken.relayAnswer r p.press 0 = first := by rw [State.relayAnswer, hitem]
      have hsecond : first.1.relayAnswer r p.press 1 = second := by rw [State.relayAnswer, hitem]
      have houtcome : (RelayOutcome.queued.after first.2).after second.2 = outcome :=
        RelayOutcome.queued_after_after (hfirst ▸ taken.relayAnswer_ne_duplicateTag r p.press 0)
          (hsecond ▸ first.1.relayAnswer_ne_duplicateTag r p.press 1)
      have hlinks : (r.linkFor 0 first.2 ++ r.linkFor 1 second.2).map (fun o => (⟨o, p.press⟩ : LinkRequest)) = links :=
        r.map_linkFor p.press first.2 second.2
      rw [State.relayPress_offers (s := taken) hinput hvalid htarget hstatus hfirst hsecond, houtcome, hlinks]
      rfl

/-- A relay offer by the kind of the output and the room in its queue (R136, R156). -/
theorem relayOffers : Clause.relayOffers := fun _ _ _ _ horigin =>
  ⟨State.offer_off, State.offer_relay_full horigin, State.offer_relay_accepted horigin⟩

/-- A retire notice record by record (R131). -/
theorem relayRetires : Clause.relayRetires := by
  intro s h rest hqueue
  refine ⟨_, exec_relayRetireNotice hqueue, rfl, fun n => ?_⟩
  have hmap : (({ s with mail := { s.mail with retires := rest } } : State).takeRetire h).relays[n] =
      s.relays[n].bind (RelayRecord.afterRetire h) := Vector.getElem_map ..
  rw [hmap]
  cases s.relays[n] <;> rfl

/-- Settles O58: a press start by the search for its record and the answers of the outputs, an offer by the output's checks,
a retire notice record by record. -/
theorem relayUnitTakesItsArrivals : Obligations.RelayUnitTakesItsArrivals :=
  ⟨pressStarts, relayOffers, relayRetires⟩

end Sys2Proof.Machine
end

section
/-! SUPPORT. Where a frame begins: the operations of an output, and every command but a served frame grant, put no output
into FRAME that was not there; and the frame a served grant begins (R41, R53, R139, R141, R142). -/

namespace Sys2Proof.Machine

set_option Elab.async false

/-! ## Outputs that are in FRAME -/

theorem OutputState.frame?_isSome_iff {x : OutputState} : x.frame?.isSome = true ↔ ∃ f, x = .frame f := by
  cases x <;> simp [OutputState.frame?]

/-- An output that is in FRAME in `t` was in FRAME in `s`. -/
def State.StartsNoFrame (s t : State) : Prop :=
  ∀ o : OutputId, t.outputs[o].state.frame?.isSome = true → s.outputs[o].state.frame?.isSome = true

theorem State.StartsNoFrame.of_outputs {s t : State} (h : t.outputs = s.outputs) : s.StartsNoFrame t := by
  intro o hframe
  rwa [h] at hframe

theorem State.StartsNoFrame.refl (s : State) : s.StartsNoFrame s := .of_outputs rfl

theorem State.StartsNoFrame.trans {s t u : State} (h : s.StartsNoFrame t) (k : t.StartsNoFrame u) :
    s.StartsNoFrame u := fun o hframe => h o (k o hframe)

/-- An event that acts only when it is due. -/
theorem State.StartsNoFrame.ite {s t : State} {p : Prop} [Decidable p] (h : s.StartsNoFrame t) :
    s.StartsNoFrame (if p then t else s) := by
  split
  · exact h
  · exact .refl s

/-- What does not touch the outputs starts no frame. -/
theorem State.Within.startsNoFrame {l : List Part} {s t : State} (h : State.Within l s t)
    (houtputs : Part.outputs ∉ l) : s.StartsNoFrame t := .of_outputs (h .outputs houtputs)

/-- An operation on each output that leaves it out of FRAME unless it was there starts no frame. -/
theorem State.StartsNoFrame.of_map {s t : State} {f : Output → Output} (h : t.outputs = s.outputs.map f)
    (hf : ∀ x : Output, (f x).state.frame?.isSome = true → x.state.frame?.isSome = true) : s.StartsNoFrame t := by
  intro o hframe
  rw [h, Fin.getElem_fin, Vector.getElem_map] at hframe
  exact hf _ hframe

theorem State.outputs_setOutput_self (s : State) (o : OutputId) (x : Output) : (s.setOutput o x).outputs[o] = x :=
  Vector.getElem_set_self o.isLt

theorem State.outputs_setOutput_of_ne (s : State) {o o' : OutputId} (x : Output) (hne : o ≠ o') :
    (s.setOutput o x).outputs[o'] = s.outputs[o'] :=
  Vector.getElem_set_ne o.isLt o'.isLt (fun h => hne (Fin.ext h))

/-- A record that is in FRAME only if the output was. -/
theorem State.setOutput_startsNoFrame (s : State) (o : OutputId) {x : Output}
    (hx : x.state.frame?.isSome = true → s.outputs[o].state.frame?.isSome = true) :
    s.StartsNoFrame (s.setOutput o x) := by
  intro o' hframe
  by_cases hne : o = o'
  · subst hne
    rw [s.outputs_setOutput_self] at hframe
    exact hx hframe
  · rwa [s.outputs_setOutput_of_ne x hne] at hframe

/-- A record that changes in other fields than the state of the output. -/
theorem State.setOutput_sameState (s : State) (o : OutputId) {x : Output}
    (hx : x.state = s.outputs[o].state := by rfl) : s.StartsNoFrame (s.setOutput o x) :=
  s.setOutput_startsNoFrame o (fun hframe => hx ▸ hframe)

/-- A record that is not in FRAME. -/
theorem State.setOutput_notInFrame (s : State) (o : OutputId) {x : Output}
    (hx : x.state.frame? = none := by rfl) : s.StartsNoFrame (s.setOutput o x) :=
  s.setOutput_startsNoFrame o (fun hframe => by simp [hx] at hframe)

/-- Driving goes on with a frame and begins none (R143). -/
theorem State.advanceTo_startsNoFrame (s : State) (t : Time) : s.StartsNoFrame (s.advanceTo t) := by
  refine .of_map rfl fun x hframe => ?_
  obtain ⟨st, hdrive, hother, -⟩ := x.drive_frame s.pool (max s.timebase t)
  by_contra hnot
  have hnone : ∀ f, x.state ≠ .frame f := fun f hf => hnot (OutputState.frame?_isSome_iff.mpr ⟨f, hf⟩)
  rw [hdrive] at hframe
  rw [← hother hnone] at hnot
  exact hnot hframe

/-! ## The operations of one output (chapter 8) -/

theorem State.setOutputAttention_startsNoFrame (s : State) (o : OutputId) (b : Bool) :
    s.StartsNoFrame (s.setOutputAttention o b) := .of_outputs rfl

theorem State.raiseGrant_startsNoFrame (s : State) (o : OutputId) : s.StartsNoFrame (s.raiseGrant o) :=
  (s.raiseGrant_within o).startsNoFrame (by decide)

theorem State.withdrawGrant_startsNoFrame (s : State) (o : OutputId) : s.StartsNoFrame (s.withdrawGrant o) := by
  obtain ⟨x, h⟩ := s.withdrawGrant_frame o
  exact .of_outputs (by rw [h])

theorem State.dropFrame_startsNoFrame (s : State) (o : OutputId) : s.StartsNoFrame (s.dropFrame o) := by
  unfold State.dropFrame
  split
  · exact .of_outputs rfl
  · exact .refl s

/-- The head item waits for its grant in GRANT (R139); without one the output is IDLE (R138). -/
theorem State.startHead_startsNoFrame (s : State) (o : OutputId) : s.StartsNoFrame (s.startHead o) := by
  unfold State.startHead
  simp only
  split
  · exact s.setOutput_notInFrame o
  · exact (s.setOutput_notInFrame o).trans (State.raiseGrant_startsNoFrame _ o)

theorem State.reportItemEnd_startsNoFrame (s : State) (o : OutputId) (item : Item) (outcome : ItemOutcome) :
    s.StartsNoFrame (s.reportItemEnd o item outcome) := by
  unfold State.reportItemEnd
  split
  · exact (s.setOutput_sameState o).trans (State.setOutputAttention_startsNoFrame _ o true)
  · split
    · exact .of_outputs rfl
    · exact .refl s

theorem State.reportItemEnds_startsNoFrame (s : State) (o : OutputId) (outcome : ItemOutcome) (items : List Item) :
    s.StartsNoFrame (s.reportItemEnds o outcome items) := by
  unfold State.reportItemEnds
  induction items generalizing s with
  | nil => exact .refl s
  | cons item rest ih => exact (s.reportItemEnd_startsNoFrame o item outcome).trans (ih _)

/-- After the end of an item comes SPACE, or the next item (R150). -/
theorem State.endActive_startsNoFrame (s : State) (o : OutputId) (outcome : ItemOutcome) (t : Time) :
    s.StartsNoFrame (s.endActive o outcome t) := by
  unfold State.endActive
  split
  · exact .refl s
  · rename_i item _ _ _
    have hreported := (s.dropFrame_startsNoFrame o).trans (State.reportItemEnd_startsNoFrame _ o item outcome)
    simp only
    split
    · exact hreported.trans (State.setOutput_notInFrame _ o)
    · exact (hreported.trans (State.setOutput_sameState _ o)).trans (State.startHead_startsNoFrame _ o)

theorem State.endingCause_startsNoFrame (s : State) (o : OutputId) (outcome : ItemOutcome) :
    s.StartsNoFrame (s.endingCause o outcome) := by
  unfold State.endingCause
  split
  · exact .refl s
  · split
    · split
      · exact s.setOutput_sameState o
      · exact .refl s
    · split
      · exact s.setOutput_sameState o
      · exact .refl s
    · exact s.endActive_startsNoFrame o outcome _
    all_goals exact .refl s

theorem State.setHoldEnded_startsNoFrame (s : State) (o : OutputId) (p : Item → Bool) :
    s.StartsNoFrame (s.setHoldEnded o p).1 := by
  unfold State.setHoldEnded
  simp only
  split
  · have hmarked := s.setOutput_sameState o (x := { s.outputs[o] with queue := markHoldEnded p s.outputs[o].queue })
    split
    · split
      · exact hmarked.trans (State.endingCause_startsNoFrame _ o _)
      · exact hmarked
    · exact hmarked
  · exact .refl s

theorem State.offer_startsNoFrame (s : State) (o : OutputId) (item : Item) : s.StartsNoFrame (s.offer o item).1 := by
  unfold State.offer
  simp only
  split
  · have hqueued := s.setOutput_sameState o (x := { s.outputs[o] with queue := s.outputs[o].queue ++ [item] })
    simp only
    split
    · exact hqueued.trans (State.startHead_startsNoFrame _ o)
    · exact hqueued
  · split
    · exact (s.setOutput_sameState o).trans (State.setOutputAttention_startsNoFrame _ o true)
    · exact .refl s
  all_goals exact .refl s

theorem State.flush_startsNoFrame (s : State) (o : OutputId) : s.StartsNoFrame (s.flush o) := by
  unfold State.flush
  split
  · exact (s.reportItemEnds_startsNoFrame o _ _).trans (State.setOutput_sameState _ o)
  · rename_i item _ rest _
    have hqueued := (s.reportItemEnds_startsNoFrame o .flushed rest).trans (State.setOutput_sameState _ o
      (x := { (s.reportItemEnds o .flushed rest).outputs[o] with queue := [item] }))
    simp only
    split
    · exact (hqueued.trans (State.withdrawGrant_startsNoFrame _ o)).trans (State.endActive_startsNoFrame _ o _ _)
    all_goals exact hqueued.trans (State.endingCause_startsNoFrame _ o _)

theorem State.configureOutput_startsNoFrame (s : State) (o : OutputId) (c : OutputConfig) :
    s.StartsNoFrame (s.configureOutput o c) := by
  unfold State.configureOutput
  refine (((s.dropFrame_startsNoFrame o).trans (State.withdrawGrant_startsNoFrame _ o)).trans
    (State.reportItemEnds_startsNoFrame _ o _ _)).trans (State.setOutput_notInFrame _ o ?_)
  simp only
  split <;> rfl

theorem State.clearToggle_startsNoFrame (s : State) (g : GroupNo) : s.StartsNoFrame (s.clearToggle g) :=
  .of_map rfl fun _ => id

/-- A frame that has ended is followed by the end of its item or by INTERVAL (R143, R146). -/
theorem State.endFrame_startsNoFrame (s : State) (o : OutputId) (f : Frame) : s.StartsNoFrame (s.endFrame o f) := by
  unfold State.endFrame
  split
  · exact .refl s
  · rename_i item a rest _
    have hcounted : s.StartsNoFrame (s.setActive o { item with active := some a.counted } rest) :=
      s.setOutput_sameState o
    simp only
    split
    · exact hcounted.trans (State.endActive_startsNoFrame _ o _ _)
    · exact (hcounted.trans (.of_outputs rfl)).trans (State.setOutput_notInFrame _ o)

theorem State.cutFrame_startsNoFrame (s : State) (o : OutputId) (f : Frame) (c : CellNo) :
    s.StartsNoFrame (s.cutFrame o f c) := by
  unfold State.cutFrame
  split
  · exact .refl s
  · have hended := State.endActive_startsNoFrame (s.recordFault c) o .damaged f.runEnd
    exact State.StartsNoFrame.trans (.of_outputs rfl) (hended.trans (State.StartsNoFrame.trans (.of_outputs rfl)
      ((State.setOutput_sameState _ o).trans (State.setOutputAttention_startsNoFrame _ o true))))

/-! ## Press starts (R128) -/

theorem State.relayOffer_startsNoFrame (r : RelayRecord) (press : PressName)
    (acc : State × RelayOutcome × List OutputId) (o : OutputId) :
    acc.1.StartsNoFrame (State.relayOffer r press acc o).1 := by
  unfold State.relayOffer
  split
  · exact acc.1.offer_startsNoFrame o _
  · exact .refl _

theorem State.relayPress_startsNoFrame (s : State) (n : RelayNo) (r : RelayRecord) (p : PressStart) :
    s.StartsNoFrame (s.relayPress n r p) := by
  unfold State.relayPress
  split
  · exact .refl s
  · split
    · exact .of_outputs rfl
    · split
      · exact .of_outputs rfl
      · split
        · exact .of_outputs rfl
        · simp only [List.foldl_cons, List.foldl_nil, State.sendLinkRequests_eq]
          exact ((State.relayOffer_startsNoFrame r p.press _ 0).trans
            (State.relayOffer_startsNoFrame r p.press _ 1)).trans (.of_outputs rfl)

theorem State.takePressStart_startsNoFrame (s : State) (p : PressStart) : s.StartsNoFrame (s.takePressStart p) := by
  unfold State.takePressStart
  split
  · exact .refl s
  · exact s.relayPress_startsNoFrame _ _ p

/-! ## Requests of commands to the outputs -/

theorem State.finish_startsNoFrame (s : State) (task : Task) (held : Bool) (outcome : HostOutcome)
    (results : List Word) : s.StartsNoFrame (s.finish task held outcome results) :=
  (s.finish_within task held outcome results).startsNoFrame (by decide)

theorem State.hostCommand_startsNoFrame (s : State) (c : HostCommand) (part : HostPart)
    {work : Task → Bool → State → State} (hwork : ∀ task held u, State.StartsNoFrame u (work task held u)) :
    s.StartsNoFrame (s.hostCommand c part work) := by
  cases part with
  | commandWrite arg => exact (s.commandWrite_within c.code arg).startsNoFrame (by decide)
  | request =>
    show s.StartsNoFrame (s.blockRequest c work)
    rcases s.blockRequest_cases c work with he | ⟨task, held, he, -⟩ <;> rw [he]
    · exact .refl s
    · exact hwork task held s

theorem hostOffer_startsNoFrame (form : ItemForm) (tag : BitVec 8) (task : Task) (held : Bool) (s : State) :
    s.StartsNoFrame (hostOffer form tag task held s) := by
  unfold hostOffer
  split
  · exact s.finish_startsNoFrame task held _ []
  · exact (s.offer_startsNoFrame _ _).trans (State.finish_startsNoFrame _ task held _ [])

theorem outputConfigureWork_startsNoFrame (task : Task) (held : Bool) (s : State) :
    s.StartsNoFrame (outputConfigureWork task held s) :=
  (s.configureOutput_startsNoFrame _ _).trans (State.finish_startsNoFrame _ task held .ok [])

theorem outputStatusWork_startsNoFrame (task : Task) (held : Bool) (s : State) :
    s.StartsNoFrame (outputStatusWork task held s) :=
  ((s.setOutput_sameState _).trans (State.setOutputAttention_startsNoFrame _ _ false)).trans
    (State.finish_startsNoFrame _ task held .ok _)

theorem holdEndWork_startsNoFrame (task : Task) (held : Bool) (s : State) :
    s.StartsNoFrame (holdEndWork task held s) := by
  have hflagged := s.setHoldEnded_startsNoFrame (argOutput task.arg) (isHostHold (lowByte (task.word 0)))
  unfold holdEndWork
  split <;> rename_i hs <;> rw [hs] at hflagged <;> exact hflagged.trans (State.finish_startsNoFrame _ task held _ [])

theorem outputFlushWork_startsNoFrame (task : Task) (held : Bool) (s : State) :
    s.StartsNoFrame (outputFlushWork task held s) :=
  (s.flush_startsNoFrame _).trans (State.finish_startsNoFrame _ task held .ok [])

/-! ## Table steps that reach the outputs -/

theorem State.hostStep_startsNoFrame (s : State) (h : HostStep) {body : Task → Bool → State → State}
    (hbody : ∀ task held u, State.StartsNoFrame u (body task held u)) : s.StartsNoFrame (s.hostStep h body) := by
  rcases s.hostStep_cases h body with he | ⟨task, held, he, -⟩ <;> rw [he]
  · exact .refl s
  · exact State.StartsNoFrame.trans (.of_outputs rfl) (hbody task held _)

theorem State.defineGroup_startsNoFrame (s : State) (g : GroupNo) (settings : GroupSettings) (p : Option Pattern) :
    s.StartsNoFrame (s.defineGroup g settings p) := by
  unfold State.defineGroup
  simp only
  refine State.StartsNoFrame.trans ?_ (State.clearToggle_startsNoFrame _ g)
  split
  · exact State.StartsNoFrame.trans (.of_outputs rfl) ((State.joinBin_within _ _ _).startsNoFrame (by decide))
  · exact .of_outputs rfl

theorem groupDefineFinalBody_startsNoFrame (task : Task) (held : Bool) (s : State) :
    s.StartsNoFrame (groupDefineFinalBody task held s) := by
  unfold groupDefineFinalBody
  simp only
  split
  · have hchecked := (conflictCheck_marked [reservedRepeatContender task (s.newRepeat task)]
      (s.conflictSet (fun _ => false)) s).within.startsNoFrame (by decide)
    have hreturned : ∀ (u : State) (outcome : HostOutcome) (results : List Word),
        u.StartsNoFrame (u.returnReservation.finish task held outcome results) := fun u outcome results =>
      (u.returnReservation_within.startsNoFrame (by decide)).trans
        (State.finish_startsNoFrame _ task held outcome results)
    split <;> rename_i hs <;> rw [hs] at hchecked
    · exact hchecked.trans (hreturned _ _ _)
    · exact hchecked.trans (hreturned _ _ _)
    · exact (hchecked.trans (State.defineGroup_startsNoFrame _ _ _ _)).trans (State.finish_startsNoFrame _ task held _ _)
  · split
    · exact s.finish_startsNoFrame task held _ []
    · exact (s.defineGroup_startsNoFrame _ _ none).trans (State.finish_startsNoFrame _ task held _ _)

theorem groupRemoveBody_startsNoFrame (task : Task) (held : Bool) (s : State) :
    s.StartsNoFrame (groupRemoveBody task held s) := by
  unfold groupRemoveBody
  simp only
  split
  · exact s.finish_startsNoFrame task held _ []
  · split
    · exact s.finish_startsNoFrame task held _ []
    · rename_i group _ _
      have hreleased := (s.releaseRepeat_within (argGroup task.arg) group.repeatPattern).startsNoFrame (by decide)
      exact (hreleased.trans (.of_outputs rfl)).trans
        ((State.clearToggle_startsNoFrame _ _).trans (State.finish_startsNoFrame _ task held _ _))

theorem handleCheckBody_startsNoFrame (later : Bool) (task : Task) (held : Bool) (s : State) :
    s.StartsNoFrame (handleCheckBody later task held s) := by
  unfold handleCheckBody
  split
  · exact s.finish_startsNoFrame task held _ []
  · split
    · exact .refl s
    · unfold handleRequest
      split
      · exact (afterRetires_within _ _ relaySetWork_within task held s).startsNoFrame (by decide)
      · exact hostOffer_startsNoFrame _ _ task held s
      · exact hostOffer_startsNoFrame _ _ task held s
      · exact .refl s

theorem State.InputOnly.startsNoFrame {i : InputId} {s t : State} (h : State.InputOnly i s t) : s.StartsNoFrame t :=
  h.within.startsNoFrame (by decide)

theorem State.TrackerOnly.startsNoFrame {s t : State} (h : s.TrackerOnly t) : s.StartsNoFrame t :=
  h.within.startsNoFrame (by decide)

theorem State.inputEvent_startsNoFrame (s : State) (i : InputId) (t : Time) {event : State → State}
    (hevent : ∀ u, State.InputOnly i u (event u)) : s.StartsNoFrame (s.inputEvent i t event) := by
  unfold State.inputEvent
  exact (s.advanceTo_startsNoFrame t).trans (.ite (hevent _).startsNoFrame)

/-- INITIALIZE leaves every output OFF or IDLE (R157). -/
theorem State.initializeTable_startsNoFrame (s : State) : s.StartsNoFrame s.initializeTable := by
  refine .of_map (f := Output.cleared) rfl fun x => ?_
  simp only [Output.cleared]
  split <;> exact nofun

/-! ## All commands but the frame grant -/

/-- Only the service of a frame grant puts an output into FRAME. -/
theorem exec_startsNoFrame {c : Instr} {s t : State} (hgrant : ∀ o, c ≠ .frameGrant o) (h : exec c s = .next t) :
    s.StartsNoFrame t := by
  cases c
  case frameGrant o => exact absurd rfl (hgrant o)
  case hardwareReset =>
    cases h
    intro o hframe
    rw [show s.hardwareReset.outputs[o] = Output.resetValue from Vector.getElem_replicate o.isLt] at hframe
    exact absurd hframe nofun
  case initializeTableStep =>
    cases h
    exact s.hostStep_startsNoFrame _ fun _ _ u => u.initializeTable_startsNoFrame
  case memoryTestEnd failing time =>
    cases h
    exact (s.advanceTo_startsNoFrame time).trans
      (.ite ((State.endMemoryTest_within _ failing).startsNoFrame (by decide)))
  case transferTimeout time =>
    cases h
    exact (s.advanceTo_startsNoFrame time).trans ((State.transferExpiry_within _).startsNoFrame (by decide))
  case outputConfigure part =>
    cases h
    exact s.hostCommand_startsNoFrame _ part outputConfigureWork_startsNoFrame
  case outputStatus part =>
    cases h
    exact s.hostCommand_startsNoFrame _ part outputStatusWork_startsNoFrame
  case send part =>
    cases h
    exact s.hostCommand_startsNoFrame _ part fun task held u => hostOffer_startsNoFrame _ _ task held u
  case holdStart part =>
    cases h
    exact s.hostCommand_startsNoFrame _ part fun task held u => hostOffer_startsNoFrame _ _ task held u
  case holdEnd part =>
    cases h
    exact s.hostCommand_startsNoFrame _ part holdEndWork_startsNoFrame
  case outputFlush part =>
    cases h
    exact s.hostCommand_startsNoFrame _ part outputFlushWork_startsNoFrame
  case groupDefineFinalStep =>
    cases h
    exact s.hostStep_startsNoFrame _ groupDefineFinalBody_startsNoFrame
  case groupRemoveStep =>
    cases h
    exact s.hostStep_startsNoFrame _ groupRemoveBody_startsNoFrame
  case handleCheck later =>
    cases h
    exact s.hostStep_startsNoFrame _ (handleCheckBody_startsNoFrame later)
  case lineTransition i time =>
    cases h
    exact (s.advanceTo_startsNoFrame time).trans (State.inputTransition_only _ i).startsNoFrame
  case carrierGap i time =>
    cases h
    exact s.inputEvent_startsNoFrame i time fun u => u.inputGap_only i
  case glitchFloorReached i time =>
    cases h
    exact s.inputEvent_startsNoFrame i time fun u => u.inputFloor_only i
  case stuck i time =>
    cases h
    exact s.inputEvent_startsNoFrame i time fun u => u.inputStuck_only i
  case endGap i time =>
    cases h
    exact s.inputEvent_startsNoFrame i time fun u => u.inputEndGap_only i
  case discardingEndGap i time =>
    cases h
    exact s.inputEvent_startsNoFrame i time fun u => u.inputDiscardGap_only i
  case releaseExpiry r time =>
    cases h
    exact (s.advanceTo_startsNoFrame time).trans (.ite (State.endPress_only _ r _).startsNoFrame)
  case pressLimitExpiry r time =>
    cases h
    exact (s.advanceTo_startsNoFrame time).trans (.ite (State.endPress_only _ r _).startsNoFrame)
  case pressStart =>
    cases h
    split
    · exact .refl s
    · exact State.StartsNoFrame.trans (.of_outputs rfl) (State.takePressStart_startsNoFrame _ _)
  case holdEnded o =>
    cases h
    split
    · exact .refl s
    · exact State.StartsNoFrame.trans (.of_outputs rfl) (State.setHoldEnded_startsNoFrame _ o _)
  case frameEnd o time =>
    cases h
    refine (s.advanceTo_startsNoFrame time).trans ?_
    split
    · exact State.endFrame_startsNoFrame _ o _
    · exact .refl _
  case intervalEnd o time =>
    cases h
    exact (s.advanceTo_startsNoFrame time).trans
      (.ite ((State.setOutput_notInFrame _ o).trans (State.raiseGrant_startsNoFrame _ o)))
  case holdLimit o time =>
    cases h
    exact (s.advanceTo_startsNoFrame time).trans (.ite (State.endingCause_startsNoFrame _ o _))
  case spaceEnd o time =>
    cases h
    exact (s.advanceTo_startsNoFrame time).trans (.ite (State.startHead_startsNoFrame _ o))
  case frameParityFault o time =>
    cases h
    refine (s.advanceTo_startsNoFrame time).trans ?_
    split
    · exact State.cutFrame_startsNoFrame _ o _ _
    · exact .refl _
  all_goals exact (exec_within _ s t h).startsNoFrame (by simp only [touches]; decide)

/-! ## The frame a grant begins (R41, R141) -/

/-- Driving runs leaves the pattern of a frame as it was granted. -/
theorem driveRuns_pattern (pool : Pool) (now : Time) (fuel : Nat) (f : Frame) :
    (driveRuns pool now fuel f).sent = f.sent ∧ (driveRuns pool now fuel f).runCount = f.runCount ∧
      (driveRuns pool now fuel f).chain = f.chain := by
  induction fuel generalizing f with
  | zero => exact ⟨rfl, rfl, rfl⟩
  | succ fuel ih =>
    unfold driveRuns
    split
    · split
      · exact ih _
      all_goals exact ⟨rfl, rfl, rfl⟩
    · exact ⟨rfl, rfl, rfl⟩

/-- A first frame, and a later one without a fit repeat pattern, takes the entry's pattern of the variant; any other takes
the group's repeat pattern, which is not under REPEAT_DAMAGED (R41). -/
theorem chooseGrant_cases (e : Installed) (g : Group) (v : Variant) (first : Bool) :
    chooseGrant e g v first = ⟨.frame v, e.runCount, (e.chainOf v).getD e.main⟩ ∨
      ∃ p, chooseGrant e g v first = ⟨.repeatOf e.group, p.runCount, p.chain⟩ ∧ g.repeatPattern = some p ∧
        g.repeatDamaged = false ∧ first = false := by
  unfold chooseGrant
  simp only
  split
  · exact .inl rfl
  · split
    · exact .inr ⟨_, rfl, ‹_›, ‹_›, Bool.eq_false_iff.mpr ‹_›⟩
    · exact .inl rfl

/-- A served grant either ends the item or begins a frame of a current entry that is not DAMAGED (R41, R142). -/
theorem State.answerGrant_cases (s : State) (o : OutputId) :
    s.StartsNoFrame (s.answerGrant o) ∨
      ∃ item a rest e g, s.outputs[o].activeItem = some (item, a, rest) ∧ s.currentEntry item.handle = some e ∧
        e.status ≠ .damaged ∧ s.groups[e.group] = some g ∧
        s.answerGrant o = s.startFrame o
          ((chooseGrant e g a.variant (decide (a.framesSent = 0))).frame g.settings s.timebase) := by
  unfold State.answerGrant
  split
  · exact .inl (.refl s)
  · split
    · exact .inl (s.endActive_startsNoFrame o _ _)
    · split
      · exact .inl (s.endActive_startsNoFrame o _ _)
      · split
        · exact .inl (s.endActive_startsNoFrame o _ _)
        · exact .inr ⟨_, _, _, _, _, ‹_›, ‹_›, ‹_›, ‹_›, rfl⟩

/-- A frame that begins on an output puts that output alone into FRAME, with the granted pattern. -/
theorem State.startFrame_pattern {s : State} {o o' : OutputId} {f f' : Frame}
    (hout : s.outputs[o'].state.frame?.isSome = false) (h : (s.startFrame o f).outputs[o'].state = .frame f') :
    o' = o ∧ f'.sent = f.sent ∧ f'.runCount = f.runCount ∧ f'.chain = f.chain := by
  unfold State.startFrame at h
  simp only at h
  by_cases hne : o = o'
  · subst hne
    rw [State.outputs_setOutput_self] at h
    cases h
    exact ⟨rfl, driveRuns_pattern _ _ _ f⟩
  · rw [State.outputs_setOutput_of_ne _ _ hne, State.setPool_outputs] at h
    rw [h] at hout
    cases hout

/-! ## FRAME_GRANT (R41, R53, R142) -/

theorem exec_frameGrant_ready {s : State} {o : OutputId} (hready : s.grantReady o = true) :
    exec (.frameGrant o) s = .next ((s.served (.output o)).answerGrant o) :=
  congrArg Host.Outcome.next (if_pos hready)

theorem exec_frameGrant_notReady {s : State} {o : OutputId} (hready : s.grantReady o = false) :
    exec (.frameGrant o) s = .next s :=
  congrArg Host.Outcome.next (if_neg (Bool.eq_false_iff.mp hready))

theorem State.claim_of_grantReady {s : State} {o : OutputId} (hready : s.grantReady o = true) :
    s.claims.output[o] = some .frameGrant :=
  of_decide_eq_true (Bool.and_eq_true_iff.mp hready).1

/-- Settles O12: no other command starts a frame, and a served grant that starts one sends the pattern `chooseGrant`
answers for the current entry. -/
theorem framesStartOnlyFromFitPatterns : Obligations.FramesStartOnlyFromFitPatterns := by
  intro c s t o f h hnot hframe
  have hout : s.outputs[o].state.frame?.isSome = false := by
    rw [Bool.eq_false_iff, ne_eq, OutputState.frame?_isSome_iff]
    exact fun ⟨g, hg⟩ => hnot g hg
  have hstarts : ¬ s.StartsNoFrame t := fun hs =>
    Bool.eq_false_iff.mp hout (hs o (OutputState.frame?_isSome_iff.mpr ⟨f, hframe⟩))
  obtain ⟨o', rfl⟩ : ∃ o', c = .frameGrant o' := by
    by_contra hgrant
    exact hstarts (exec_startsNoFrame (fun o' hc => hgrant ⟨o', hc⟩) h)
  cases hready : s.grantReady o' with
  | false =>
    cases (exec_frameGrant_notReady hready).symm.trans h
    exact absurd (.refl s) hstarts
  | true =>
    cases (exec_frameGrant_ready hready).symm.trans h
    obtain hnone | ⟨item, a, rest, e, g, hactive, hentry, hstatus, hgroup, hanswer⟩ :=
      (s.served (.output o')).answerGrant_cases o'
    · exact absurd (State.StartsNoFrame.trans (.of_outputs rfl) hnone) hstarts
    · rw [hanswer] at hframe
      obtain ⟨rfl, hsent, hrunCount, hchain⟩ := State.startFrame_pattern (s := s.served (.output o')) hout hframe
      refine ⟨rfl, State.claim_of_grantReady hready, item, a, rest, e, hactive, hentry, hstatus, ?_⟩
      obtain hchoice | ⟨p, hchoice, hrepeat, hfit, hlater⟩ :=
          chooseGrant_cases e g a.variant (decide (a.framesSent = 0)) <;>
        rw [hchoice] at hsent hrunCount hchain
      · exact .inl ⟨hsent, hrunCount, fun chain hstored => by rw [hchain, Grant.frame, hstored]; rfl⟩
      · exact .inr ⟨g, p, hsent, hgroup, hrepeat, hfit, hchain, hrunCount,
          Nat.pos_of_ne_zero (of_decide_eq_false hlater)⟩

end Sys2Proof.Machine
end

section
/-! SUPPORT. The frame end of a FLAGS read: what the end of a captured or a void frame hands to its row, and the flags
that a FLAGS read then clears (R159, R160, R163, R178). -/

namespace Sys2Proof.Machine

/-! ## The end of a frame that its clocks have brought -/

/-- From the 8th clock to the 24th a read frame is the one its address byte names: its data bits count for nothing
(R159). -/
theorem SpiShift.fits_of_read {f : SpiShift} {address : BitVec 8} (w : Word) (hread : isRead address = true)
    (haddress : f.address = address) (hfrom : 8 ≤ f.clocks) (hto : f.clocks ≤ 24) : f.fits address w = true := by
  have hshift : address >>> (8 - f.clocks) = address := by rw [Nat.sub_eq_zero_of_le hfrom, BitVec.ushiftRight_zero]
  simp only [SpiShift.fits, hshift, haddress, hto, hread, decide_true, Bool.true_or, Bool.and_true]

/-- A read frame captured by a step of its own ends with what that capture fixed (R160). -/
theorem State.frameEnd_of_captured {s : State} {f : SpiShift} {address : BitVec 8} (w : Word)
    (hread : isRead address = true) (h : s.Captured address f) :
    s.frameEnd address w = (some (f.word, f.offered), s.setSpi .none) := by
  obtain ⟨hspi, haddress, hfrom, hto, hvoid⟩ := h
  have hfits : f.fits address w = true := SpiShift.fits_of_read w hread haddress hfrom hto
  simp only [State.frameEnd, hspi, hfits, hvoid, hfrom, if_true, Bool.false_eq_true, if_false]

/-- A frame that a reset has made void ends with nothing (R159, R178). -/
theorem State.frameEnd_of_void {s : State} {f : SpiShift} {address : BitVec 8} {w : Word}
    (hspi : s.port.spi = .frame f) (hfits : f.fits address w = true) (hvoid : f.void = true) :
    s.frameEnd address w = (none, s.setSpi .none) := by
  simp only [State.frameEnd, hspi, hfits, hvoid, if_true]

/-! ## FLAGS_READ (R163) -/

/-- A FLAGS read whose frame end hands over a word clears the flags which that word shows. -/
theorem exec_flagsRead_of_word {s t : State} {w : Word} {offered : Bool}
    (h : s.frameEnd (addressByte true 0) 0 = (some (w, offered), t)) :
    exec .flagsRead s = .next (t.clearReturned w) := by
  show Host.Outcome.next s.flagsRead = _
  rw [State.flagsRead, h]

/-- A FLAGS read whose frame end hands over no word clears nothing. -/
theorem exec_flagsRead_of_noWord {s t : State} (h : s.frameEnd (addressByte true 0) 0 = (none, t)) :
    exec .flagsRead s = .next t := by
  show Host.Outcome.next s.flagsRead = _
  rw [State.flagsRead, h]

/-- Settles O18: a captured frame ends with the word its capture fixed, and a void one with none. -/
theorem flagsReadClearsTheShownBits : Obligations.FlagsReadClearsTheShownBits := by
  intro s
  constructor
  · intro f hcaptured
    exact exec_flagsRead_of_word (State.frameEnd_of_captured 0 rfl hcaptured)
  · intro f hspi hfits hvoid
    exact exec_flagsRead_of_noWord (State.frameEnd_of_void hspi hfits hvoid)

end Sys2Proof.Machine
end

section
/-! SUPPORT. One step as a command or an idle microsecond; and law 7, the order of the send queues: what each operation of
an output leaves of it, and that every step keeps it (R134, R138). -/

namespace Sys2Proof.Machine

/-! ## One step -/

/-- A step is an idle microsecond, or a command on the state with the queue's rest. -/
theorem step_cases {s t : State} (h : step s = .next t) :
    t = s.advanceTo (s.timebase + 1) ∨ ∃ c rest, exec c (s.withPending rest) = .next t := by
  unfold step at h
  split at h
  · exact .inl (Host.Outcome.next.inj h).symm
  · exact .inr ⟨_, _, h⟩

/-- What does not depend on the queue of commands is kept by every step if the passing of time and every command keep it. -/
theorem step_keeps {P : State → Prop} (hqueue : ∀ s q, P s → P (s.withPending q))
    (htime : ∀ s t, P s → P (s.advanceTo t)) (hexec : ∀ c s t, exec c s = .next t → P s → P t) {s t : State}
    (h : step s = .next t) (hs : P s) : P t := by
  obtain rfl | ⟨c, rest, hc⟩ := step_cases h
  · exact htime _ _ hs
  · exact hexec c _ t hc (hqueue s rest hs)

/-! ## The queue of one output -/

/-- At most eight items, none but the head ACTIVE (R136, R138). -/
def QueueInOrder (queue : List Item) : Prop := queue.length ≤ 8 ∧ ∀ item ∈ queue.tail, item.active = none

theorem QueueInOrder.nil : QueueInOrder [] := ⟨by simp, by simp⟩

/-- Whatever stands at the head, the items behind it decide. -/
theorem QueueInOrder.head {item item' : Item} {rest : List Item} (h : QueueInOrder (item :: rest)) :
    QueueInOrder (item' :: rest) := h

theorem QueueInOrder.tail {item : Item} {rest : List Item} (h : QueueInOrder (item :: rest)) : QueueInOrder rest :=
  ⟨Nat.le_of_succ_le h.1, fun x hx => h.2 x (List.mem_of_mem_tail hx)⟩

theorem QueueInOrder.single (item : Item) : QueueInOrder [item] := ⟨by simp, by simp⟩

/-- A QUEUED item joins the tail. -/
theorem QueueInOrder.append {queue : List Item} {item : Item} (h : QueueInOrder queue) (hroom : queue.length < 8)
    (hitem : item.active = none) : QueueInOrder (queue ++ [item]) := by
  refine ⟨by simp; omega, fun x hx => ?_⟩
  cases queue with
  | nil => simp at hx
  | cons head rest =>
    rcases List.mem_append.1 (by simpa using hx : x ∈ rest ++ [item]) with hx | hx
    · exact h.2 x hx
    · rw [List.mem_singleton.1 hx, hitem]

/-- The states in which the head of the queue is ACTIVE (R134). -/
def OutputState.HoldsItem (x : OutputState) : Prop := x = .grant ∨ (∃ f, x = .frame f) ∨ ∃ next, x = .interval next

/-- Law 7 with the state of the head said once for all states. -/
theorem Output.queueLaw_iff (x : Output) : x.QueueLaw ↔
    QueueInOrder x.queue ∧ (x.config.kind = .off ↔ x.state = .off) ∧
      (x.state = .off ∨ x.state = .idle → x.queue = []) ∧ (x.activeItem.isSome = true ↔ x.state.HoldsItem) := by
  have hempty (h : x.queue = []) : x.activeItem = none := by simp [Output.activeItem, h]
  unfold Output.QueueLaw QueueInOrder OutputState.HoldsItem
  cases x.state <;> simp [and_assoc] <;> grind

theorem Output.QueueLaw.inOrder {x : Output} (h : x.QueueLaw) : QueueInOrder x.queue := ⟨h.1, h.2.1⟩

/-- An output with an ACTIVE item is in GRANT, FRAME or INTERVAL. -/
theorem Output.QueueLaw.state_of_active {x : Output} (h : x.QueueLaw) (hactive : x.activeItem.isSome = true) :
    x.state.HoldsItem := (x.queueLaw_iff.1 h).2.2.2.1 hactive

theorem Output.QueueLaw.kind_of_state {x : Output} (h : x.QueueLaw) (hstate : x.state ≠ .off) : x.config.kind ≠ .off :=
  fun hkind => hstate (h.2.2.1.1 hkind)

theorem Output.QueueLaw.kind_of_active {x : Output} (h : x.QueueLaw) (hactive : x.activeItem.isSome = true) :
    x.config.kind ≠ .off :=
  h.kind_of_state (by rcases h.state_of_active hactive with hx | ⟨_, hx⟩ | ⟨_, hx⟩ <;> simp [hx])

theorem Output.activeItem_congr {x y : Output} (h : y.queue = x.queue) : y.activeItem = x.activeItem := by
  simp only [Output.activeItem, h]

/-- The law is about the queue, the state and the kind. -/
theorem Output.QueueLaw.congr {x y : Output} (h : x.QueueLaw) (hqueue : y.queue = x.queue) (hstate : y.state = x.state)
    (hconfig : y.config = x.config) : y.QueueLaw := by
  simpa only [Output.QueueLaw, Output.activeItem, hqueue, hstate, hconfig] using h

theorem Output.activeItem_eq_some {x : Output} {item : Item} {a : ActiveItem} {rest : List Item} :
    x.activeItem = some (item, a, rest) ↔ x.queue = item :: rest ∧ item.active = some a := by
  unfold Output.activeItem
  cases x.queue with
  | nil => simp
  | cons head tail =>
    cases hactive : head.active <;> simp <;> grind

/-- The head ACTIVE, in a state that has it. -/
theorem Output.QueueLaw.of_active {x : Output} (hqueue : QueueInOrder x.queue) (hkind : x.config.kind ≠ .off)
    (hactive : x.activeItem.isSome = true) (hstate : x.state.HoldsItem) : x.QueueLaw := by
  have hbusy : x.state ≠ .off ∧ x.state ≠ .idle := by rcases hstate with hs | ⟨f, hs⟩ | ⟨next, hs⟩ <;> simp [hs]
  refine x.queueLaw_iff.2 ⟨hqueue, iff_of_false hkind hbusy.1, ?_, iff_of_true hactive hstate⟩
  rintro (hs | hs)
  · exact absurd hs hbusy.1
  · exact absurd hs hbusy.2

/-- SPACE, with the items that wait. -/
theorem Output.QueueLaw.of_space {x : Output} {finish : Time} (hqueue : QueueInOrder x.queue)
    (hkind : x.config.kind ≠ .off) (hstate : x.state = .space finish) (hactive : x.activeItem = none) : x.QueueLaw :=
  ⟨hqueue.1, hqueue.2, by simp [hstate, hkind], by simpa [hstate] using hactive⟩

/-- OFF or IDLE, as the kind says, with an empty queue. -/
theorem Output.QueueLaw.of_empty {x : Output} (hqueue : x.queue = [])
    (hstate : x.state = if x.config.kind = .off then .off else .idle) : x.QueueLaw := by
  refine ⟨by simp [hqueue], by simp [hqueue], ?_, ?_⟩ <;> split at hstate <;> simp_all

theorem Output.activeItem_none_of_queued {x : Output} (h : ∀ item ∈ x.queue, item.active = none) :
    x.activeItem = none := by
  unfold Output.activeItem
  split
  · rfl
  · rename_i item rest hqueue
    rw [h item (by simp [hqueue])]
    rfl

/-- The law with another queue that is in order, where the state still says whether its head is ACTIVE. -/
theorem Output.QueueLaw.with_queue {x : Output} (h : x.QueueLaw) {queue : List Item} (hqueue : QueueInOrder queue)
    (hempty : x.state = .off ∨ x.state = .idle → queue = [])
    (hactive : (Output.activeItem { x with queue := queue }).isSome = x.activeItem.isSome) :
    Output.QueueLaw { x with queue := queue } := by
  obtain ⟨-, hkind, -, hstate⟩ := x.queueLaw_iff.1 h
  exact (Output.queueLaw_iff _).2 ⟨hqueue, hkind, hempty, hactive ▸ hstate⟩

/-- Driving a frame keeps the law (R143). -/
theorem Output.QueueLaw.drive {x : Output} (h : x.QueueLaw) (pool : Pool) (now : Time) : (x.drive pool now).QueueLaw := by
  cases hstate : x.state with
  | frame f =>
    have hactive : x.activeItem.isSome = true := by simpa [hstate] using h.2.2.2
    have hdriven : x.drive pool now = { x with state := .frame (driveRuns pool now f.runCount f) } := by
      simp [Output.drive, hstate]
    rw [hdriven]
    exact .of_active h.inOrder (h.kind_of_active hactive) hactive (.inr (.inl ⟨_, rfl⟩))
  | off | idle | grant | interval _ | space _ =>
    have hsame : x.drive pool now = x := by simp [Output.drive, hstate]
    rwa [hsame]

/-! ## The operations of one output (chapter 8) -/

theorem State.QueueLaw.of_outputs {s t : State} (h : s.QueueLaw) (heq : t.outputs = s.outputs) : t.QueueLaw := by
  intro o
  rw [heq]
  exact h o

theorem State.QueueLaw.setMail {s : State} (h : s.QueueLaw) (m : Mail) : (s.setMail m).QueueLaw := h.of_outputs rfl
theorem State.QueueLaw.setPool {s : State} (h : s.QueueLaw) (p : Pool) : (s.setPool p).QueueLaw := h.of_outputs rfl
theorem State.QueueLaw.setPort {s : State} (h : s.QueueLaw) (p : Port) : (s.setPort p).QueueLaw := h.of_outputs rfl
theorem State.QueueLaw.setGroup {s : State} (h : s.QueueLaw) (g : GroupNo) (x : Option Group) :
    (s.setGroup g x).QueueLaw := h.of_outputs rfl
theorem State.QueueLaw.setRelay {s : State} (h : s.QueueLaw) (n : RelayNo) (x : Option RelayRecord) :
    (s.setRelay n x).QueueLaw := h.of_outputs rfl
theorem State.QueueLaw.served {s : State} (h : s.QueueLaw) (p : Position) : (s.served p).QueueLaw := h.of_outputs rfl

theorem State.QueueLaw.of_map {s t : State} {f : Output → Output} (h : s.QueueLaw) (heq : t.outputs = s.outputs.map f)
    (hf : ∀ x : Output, x.QueueLaw → (f x).QueueLaw) : t.QueueLaw := by
  intro o
  rw [heq, Fin.getElem_fin, Vector.getElem_map]
  exact hf _ (h o)

theorem State.QueueLaw.setOutput {s : State} (h : s.QueueLaw) (o : OutputId) {x : Output} (hx : x.QueueLaw) :
    (s.setOutput o x).QueueLaw := by
  intro o'
  by_cases hne : o = o'
  · subst hne
    rwa [s.outputs_setOutput_self]
  · rw [s.outputs_setOutput_of_ne x hne]
    exact h o'

/-- A record that changes in other fields than the queue, the state and the configuration. -/
theorem State.QueueLaw.setOutput_same {s : State} (h : s.QueueLaw) (o : OutputId) {x : Output}
    (hqueue : x.queue = s.outputs[o].queue := by rfl) (hstate : x.state = s.outputs[o].state := by rfl)
    (hconfig : x.config = s.outputs[o].config := by rfl) : (s.setOutput o x).QueueLaw :=
  h.setOutput o ((h o).congr hqueue hstate hconfig)

theorem State.QueueLaw.advanceTo {s : State} (h : s.QueueLaw) (t : Time) : (s.advanceTo t).QueueLaw :=
  h.of_map rfl fun _ hx => hx.drive _ _

theorem State.setOutput_setOutput (s : State) (o : OutputId) (x y : Output) :
    (s.setOutput o x).setOutput o y = s.setOutput o y := by
  simp [State.setOutput]

theorem State.setOutput_getElem (s : State) (o : OutputId) : s.setOutput o s.outputs[o] = s := by
  simp [State.setOutput]

theorem State.raiseGrant_outputs (s : State) (o : OutputId) : (s.raiseGrant o).outputs = s.outputs :=
  s.raiseGrant_within o .outputs (by decide)

theorem State.withdrawGrant_outputs (s : State) (o : OutputId) : (s.withdrawGrant o).outputs = s.outputs := by
  obtain ⟨x, h⟩ := s.withdrawGrant_frame o
  rw [h]

theorem State.dropFrame_outputs (s : State) (o : OutputId) : (s.dropFrame o).outputs = s.outputs := by
  unfold State.dropFrame
  split <;> rfl

theorem State.intervalDue_iff {s : State} {o : OutputId} :
    s.intervalDue o = true ↔ ∃ next, s.outputs[o].state = .interval next ∧ next ≤ s.timebase := by
  unfold State.intervalDue
  split <;> rename_i h <;> rw [h] <;> simp

theorem State.spaceDue_iff {s : State} {o : OutputId} :
    s.spaceDue o = true ↔ ∃ finish, s.outputs[o].state = .space finish ∧ finish ≤ s.timebase := by
  unfold State.spaceDue
  split <;> rename_i h <;> rw [h] <;> simp

/-- Whatever the output did before, the start of its head leaves it in order when it is not OFF (R138, R139). -/
theorem State.QueueLaw.startHead {s : State} (h : s.QueueLaw) (o : OutputId) {x : Output}
    (hqueue : QueueInOrder x.queue) (hkind : x.config.kind ≠ .off) : ((s.setOutput o x).startHead o).QueueLaw := by
  unfold State.startHead
  simp only [State.outputs_setOutput_self]
  split
  · rename_i hempty
    rw [State.setOutput_setOutput]
    exact h.setOutput o (.of_empty hempty (by simp [hkind]))
  · rename_i item rest hitems
    rw [State.setOutput_setOutput]
    refine (h.setOutput o ?_).of_outputs (State.raiseGrant_outputs _ o)
    exact .of_active (hitems ▸ hqueue).head hkind rfl (.inl rfl)

/-- The end of an item is reported in fields the law does not read (R149, R155). -/
theorem State.reportItemEnd_sameQueue (s : State) (o o' : OutputId) (item : Item) (outcome : ItemOutcome) :
    ((s.reportItemEnd o item outcome).outputs[o']).queue = s.outputs[o'].queue ∧
      ((s.reportItemEnd o item outcome).outputs[o']).state = s.outputs[o'].state ∧
      ((s.reportItemEnd o item outcome).outputs[o']).config = s.outputs[o'].config := by
  unfold State.reportItemEnd
  split
  · rename_i tag _
    by_cases hne : o = o'
    · subst hne
      simp [State.setOutputAttention]
    · simp only [State.setOutputAttention, State.setPort_outputs, s.outputs_setOutput_of_ne _ hne, and_self]
  · split <;> exact ⟨rfl, rfl, rfl⟩

theorem State.reportItemEnds_sameQueue (s : State) (o o' : OutputId) (outcome : ItemOutcome) (items : List Item) :
    ((s.reportItemEnds o outcome items).outputs[o']).queue = s.outputs[o'].queue ∧
      ((s.reportItemEnds o outcome items).outputs[o']).state = s.outputs[o'].state ∧
      ((s.reportItemEnds o outcome items).outputs[o']).config = s.outputs[o'].config := by
  unfold State.reportItemEnds
  induction items generalizing s with
  | nil => exact ⟨rfl, rfl, rfl⟩
  | cons item rest ih =>
    obtain ⟨hq, hs, hc⟩ := s.reportItemEnd_sameQueue o o' item outcome
    obtain ⟨hq', hs', hc'⟩ := ih (s.reportItemEnd o item outcome)
    exact ⟨hq'.trans hq, hs'.trans hs, hc'.trans hc⟩

theorem State.QueueLaw.reportItemEnd {s : State} (h : s.QueueLaw) (o : OutputId) (item : Item)
    (outcome : ItemOutcome) : (s.reportItemEnd o item outcome).QueueLaw := fun o' =>
  have ⟨hqueue, hstate, hconfig⟩ := s.reportItemEnd_sameQueue o o' item outcome
  (h o').congr hqueue hstate hconfig

theorem State.QueueLaw.reportItemEnds {s : State} (h : s.QueueLaw) (o : OutputId) (outcome : ItemOutcome)
    (items : List Item) : (s.reportItemEnds o outcome items).QueueLaw := fun o' =>
  have ⟨hqueue, hstate, hconfig⟩ := s.reportItemEnds_sameQueue o o' outcome items
  (h o').congr hqueue hstate hconfig

/-- After the end of the ACTIVE item come SPACE with the QUEUED ones, or the next item (R150). -/
theorem State.QueueLaw.endActive {s : State} (h : s.QueueLaw) (o : OutputId) (outcome : ItemOutcome) (t : Time) :
    (s.endActive o outcome t).QueueLaw := by
  unfold State.endActive
  split
  · exact h
  · rename_i item a rest hactive
    have hreported := (h.of_outputs (s.dropFrame_outputs o)).reportItemEnd o item outcome
    obtain ⟨hqueue, hstate, hconfig⟩ := (s.dropFrame o).reportItemEnd_sameQueue o o item outcome
    rw [s.dropFrame_outputs o] at hqueue hconfig
    have hitems := (Output.activeItem_eq_some.1 hactive).1
    have hrest : QueueInOrder rest := (hitems ▸ (h o).inOrder).tail
    have hkind := (h o).kind_of_active (by rw [hactive]; rfl)
    simp only
    split
    · refine hreported.setOutput o (.of_space hrest (by rwa [hconfig]) rfl ?_)
      exact Output.activeItem_none_of_queued (hitems ▸ (h o).inOrder).2
    · exact hreported.startHead o hrest (by rwa [hconfig])

/-- A change of the ACTIVE item that leaves it ACTIVE. -/
theorem State.QueueLaw.setActive {s : State} (h : s.QueueLaw) (o : OutputId) {item item' : Item} {a : ActiveItem}
    {rest : List Item} (hactive : s.outputs[o].activeItem = some (item, a, rest)) (hitem : item'.active.isSome = true) :
    (s.setActive o item' rest).QueueLaw := by
  obtain ⟨hitems, hitemActive⟩ := Output.activeItem_eq_some.1 hactive
  have hisSome : s.outputs[o].activeItem.isSome = true := by rw [hactive]; rfl
  refine h.setOutput o (.of_active (hitems ▸ (h o).inOrder).head ((h o).kind_of_active hisSome) ?_
    ((h o).state_of_active hisSome))
  simpa [Output.activeItem] using hitem

theorem State.QueueLaw.endingCause {s : State} (h : s.QueueLaw) (o : OutputId) (outcome : ItemOutcome) :
    (s.endingCause o outcome).QueueLaw := by
  unfold State.endingCause
  split
  · exact h
  · rename_i item a rest hactive
    have hpending : State.QueueLaw
        (if item.endPending.isNone then s.setActive o { item with endPending := some outcome } rest else s) := by
      split
      · exact h.setActive o hactive (by simp [(Output.activeItem_eq_some.1 hactive).2])
      · exact h
    split
    · exact hpending
    · exact hpending
    · exact h.endActive o outcome _
    all_goals exact h

/-- A hold-ended flag set changes neither the number of items nor which is ACTIVE. -/
theorem map_active_markHoldEnded (p : Item → Bool) (queue : List Item) :
    (markHoldEnded p queue).map Item.active = queue.map Item.active := by
  induction queue with
  | nil => rfl
  | cons item rest ih =>
    unfold markHoldEnded
    split <;> simp [ih]

/-- The law of an output whose items have changed in other fields than which of them are ACTIVE. -/
theorem Output.QueueLaw.of_sameActive {x : Output} (h : x.QueueLaw) {queue : List Item}
    (hsame : queue.map Item.active = x.queue.map Item.active) : Output.QueueLaw { x with queue := queue } := by
  have hlength : queue.length = x.queue.length := by simpa using congrArg List.length hsame
  refine h.with_queue ⟨hlength ▸ h.1, fun item hitem => ?_⟩ (fun hstate => ?_) ?_
  · have htail : queue.tail.map Item.active = x.queue.tail.map Item.active := by
      simpa only [List.map_tail] using congrArg List.tail hsame
    obtain ⟨old, hold, heq⟩ := List.mem_map.1 (htail ▸ List.mem_map_of_mem hitem)
    rw [← heq, h.2.1 old hold]
  · exact List.length_eq_zero_iff.1 (by rw [hlength, (x.queueLaw_iff.1 h).2.2.1 hstate]; rfl)
  · unfold Output.activeItem
    cases queue <;> cases hitems : x.queue <;> simp_all

theorem State.QueueLaw.setHoldEnded {s : State} (h : s.QueueLaw) (o : OutputId) (p : Item → Bool) :
    (s.setHoldEnded o p).1.QueueLaw := by
  unfold State.setHoldEnded
  simp only
  split
  · have hmarked := h.setOutput o ((h o).of_sameActive (map_active_markHoldEnded p s.outputs[o].queue))
    split
    · split
      · exact hmarked.endingCause o .sent
      · exact hmarked
    · exact hmarked
  · exact h

/-- An item that joins the tail leaves an output that does not wait in IDLE in order. -/
theorem Output.QueueLaw.join {x : Output} (h : x.QueueLaw) {item : Item} (hitem : item.active = none)
    (hkind : x.config.kind ≠ .off) (hroom : x.queue.length < 8) (hidle : x.state ≠ .idle) :
    Output.QueueLaw { x with queue := x.queue ++ [item] } := by
  refine h.with_queue (h.inOrder.append hroom hitem) ?_ ?_
  · rintro (hoff | hs)
    · exact absurd (h.2.2.1.2 hoff) hkind
    · exact absurd hs hidle
  · unfold Output.activeItem
    cases hitems : x.queue <;> simp_all

theorem Output.answer_accepted {x : Output} {item : Item} (h : x.answer item = .accepted) :
    x.config.kind ≠ .off ∧ x.queue.length < 8 := by
  unfold Output.answer at h
  split at h
  · cases h
  · split at h
    · cases h
    · rename_i hkind hroom
      exact ⟨hkind, Nat.lt_of_not_le hroom⟩

/-- An offered item that is QUEUED joins in order, and starts on an IDLE output (R136, R138). -/
theorem State.QueueLaw.offer {s : State} (h : s.QueueLaw) (o : OutputId) {item : Item} (hitem : item.active = none) :
    (s.offer o item).1.QueueLaw := by
  unfold State.offer
  simp only
  split
  · rename_i hanswer
    obtain ⟨hkind, hroom⟩ := Output.answer_accepted hanswer
    simp only
    split
    · exact h.startHead o ((h o).inOrder.append hroom hitem) hkind
    · rename_i hidle
      exact h.setOutput o ((h o).join hitem hkind hroom hidle)
  · split
    · exact (h.setOutput_same o).setPort _
    · exact h
  all_goals exact h

theorem State.QueueLaw.flush {s : State} (h : s.QueueLaw) (o : OutputId) : (s.flush o).QueueLaw := by
  unfold State.flush
  split
  · rename_i hactive
    have hends := h.reportItemEnds o .flushed s.outputs[o].queue
    have hnone : (s.reportItemEnds o .flushed s.outputs[o].queue).outputs[o].activeItem = none :=
      (Output.activeItem_congr (s.reportItemEnds_sameQueue o o .flushed s.outputs[o].queue).1).trans hactive
    exact hends.setOutput o ((hends o).with_queue .nil (fun _ => rfl) (by rw [hnone]; rfl))
  · rename_i item a rest hactive
    have hends := h.reportItemEnds o .flushed rest
    obtain ⟨hqueue, -, -⟩ := s.reportItemEnds_sameQueue o o .flushed rest
    have hactive' : (s.reportItemEnds o .flushed rest).outputs[o].activeItem = some (item, a, rest) := by
      rw [Output.activeItem_congr hqueue, hactive]
    have hisSome : (s.reportItemEnds o .flushed rest).outputs[o].activeItem.isSome = true := by rw [hactive']; rfl
    have hitem := (Output.activeItem_eq_some.1 hactive).2
    have hkept : (State.setOutput (s.reportItemEnds o .flushed rest) o
        { (s.reportItemEnds o .flushed rest).outputs[o] with queue := [item] }).QueueLaw :=
      hends.setOutput o (.of_active (QueueInOrder.single item) ((hends o).kind_of_active hisSome)
        (by simp [Output.activeItem, hitem]) ((hends o).state_of_active hisSome))
    simp only
    split
    · exact (hkept.of_outputs (State.withdrawGrant_outputs _ o)).endActive o _ _
    all_goals exact hkept.endingCause o _

theorem State.QueueLaw.configureOutput {s : State} (h : s.QueueLaw) (o : OutputId) (c : OutputConfig) :
    (s.configureOutput o c).QueueLaw := by
  unfold State.configureOutput
  have hdropped := (h.of_outputs (s.dropFrame_outputs o)).of_outputs (State.withdrawGrant_outputs (s.dropFrame o) o)
  exact (hdropped.reportItemEnds o .outputOff _).setOutput o (.of_empty rfl rfl)

/-- A frame that has ended is followed by the end of its item or by INTERVAL (R143, R146). -/
theorem State.QueueLaw.endFrame {s : State} (h : s.QueueLaw) (o : OutputId) (f : Frame) : (s.endFrame o f).QueueLaw := by
  unfold State.endFrame
  split
  · exact h
  · rename_i item a rest hactive
    have hcounted : (s.setActive o { item with active := some a.counted } rest).QueueLaw := h.setActive o hactive rfl
    have hnow : (s.setActive o { item with active := some a.counted } rest).outputs[o].activeItem.isSome = true := by
      rw [State.setActive, State.outputs_setOutput_self]
      rfl
    simp only
    split
    · exact hcounted.endActive o _ _
    · refine State.QueueLaw.setOutput (hcounted.of_outputs rfl) o ?_
      exact .of_active (hcounted o).inOrder ((hcounted o).kind_of_active hnow) hnow (.inr (.inr ⟨_, rfl⟩))

theorem State.QueueLaw.cutFrame {s : State} (h : s.QueueLaw) (o : OutputId) (f : Frame) (c : CellNo) :
    (s.cutFrame o f c).QueueLaw := by
  unfold State.cutFrame
  split
  · exact h
  · have hended := (h.setPool (s.pool.recordFault c)).endActive o .damaged f.runEnd
    have hclaim (x : Option OutputClaim) := State.QueueLaw.of_outputs hended
      (t := ((s.recordFault c).endActive o .damaged f.runEnd).setOutputClaim o x) rfl
    exact ((hclaim _).setOutput_same o).setPort _

/-- The item of an INTERVAL goes on to its next grant (R145). -/
theorem State.QueueLaw.endInterval {s : State} (h : s.QueueLaw) {o : OutputId} (hdue : s.intervalDue o = true) :
    ((s.setOutput o { s.outputs[o] with state := .grant }).raiseGrant o).QueueLaw := by
  obtain ⟨next, hstate, -⟩ := State.intervalDue_iff.1 hdue
  have hactive := ((Output.queueLaw_iff _).1 (h o)).2.2.2.2 (.inr (.inr ⟨next, hstate⟩))
  refine (h.setOutput o ?_).of_outputs (State.raiseGrant_outputs _ o)
  exact .of_active (h o).inOrder ((h o).kind_of_active hactive) hactive (.inl rfl)

/-- The head item starts behind the SPACE of the one before (R150). -/
theorem State.QueueLaw.endSpace {s : State} (h : s.QueueLaw) {o : OutputId} (hdue : s.spaceDue o = true) :
    (s.startHead o).QueueLaw := by
  obtain ⟨finish, hstate, -⟩ := State.spaceDue_iff.1 hdue
  have hstarted := h.startHead o (h o).inOrder ((h o).kind_of_state (by rw [hstate]; exact nofun))
  rwa [State.setOutput_getElem] at hstarted

/-- The answer to a grant ends the ACTIVE item or begins its frame (R41, R141). -/
theorem State.QueueLaw.answerGrant {s : State} (h : s.QueueLaw) (o : OutputId) : (s.answerGrant o).QueueLaw := by
  unfold State.answerGrant
  split
  · exact h
  · rename_i item a rest hactive
    have hisSome : s.outputs[o].activeItem.isSome = true := by rw [hactive]; rfl
    split
    · exact h.endActive o _ _
    · split
      · exact h.endActive o _ _
      · split
        · exact h.endActive o _ _
        · refine State.QueueLaw.setOutput (h.of_outputs rfl) o ?_
          exact .of_active (h o).inOrder ((h o).kind_of_active hisSome) hisSome (.inr (.inl ⟨_, rfl⟩))

/-! ## Press starts and requests of commands -/

theorem RelayRecord.item_active (r : RelayRecord) (press : PressName) : (r.item press).active = none := by
  unfold RelayRecord.item
  split <;> rfl

theorem State.QueueLaw.relayOffer {r : RelayRecord} {press : PressName} {acc : State × RelayOutcome × List OutputId}
    (h : acc.1.QueueLaw) (o : OutputId) : (State.relayOffer r press acc o).1.QueueLaw := by
  unfold State.relayOffer
  split
  · exact h.offer o (r.item_active press)
  · exact h

theorem State.QueueLaw.relayPress {s : State} (h : s.QueueLaw) (n : RelayNo) (r : RelayRecord) (p : PressStart) :
    (s.relayPress n r p).QueueLaw := by
  unfold State.relayPress
  split
  · exact h
  · split
    · exact h.setRelay n _
    · split
      · exact h.setRelay n _
      · split
        · exact h.setRelay n _
        · simp only [State.sendLinkRequests_eq]
          have hfirst : (State.relayOffer r p.press (s, .queued, []) 0).1.QueueLaw := State.QueueLaw.relayOffer h 0
          exact ((hfirst.relayOffer 1).setRelay n _).setMail _

theorem State.QueueLaw.takePressStart {s : State} (h : s.QueueLaw) (p : PressStart) : (s.takePressStart p).QueueLaw := by
  unfold State.takePressStart
  split
  · exact h
  · exact h.relayPress _ _ p

theorem State.QueueLaw.within {l : List Part} {s t : State} (h : s.QueueLaw) (hw : State.Within l s t)
    (houtputs : Part.outputs ∉ l) : t.QueueLaw := h.of_outputs (hw .outputs houtputs)

theorem State.QueueLaw.finish {s : State} (h : s.QueueLaw) {task : Task} {held : Bool} {outcome : HostOutcome}
    {results : List Word} : (s.finish task held outcome results).QueueLaw :=
  h.within (s.finish_within task held outcome results) (by decide)

theorem State.QueueLaw.hostCommand {s : State} (h : s.QueueLaw) (c : HostCommand) (part : HostPart)
    {work : Task → Bool → State → State} (hwork : ∀ task held u, State.QueueLaw u → (work task held u).QueueLaw) :
    (s.hostCommand c part work).QueueLaw := by
  cases part with
  | commandWrite arg => exact h.within (s.commandWrite_within c.code arg) (by decide)
  | request =>
    show (s.blockRequest c work).QueueLaw
    rcases s.blockRequest_cases c work with he | ⟨task, held, he, -⟩ <;> rw [he]
    · exact h
    · exact hwork task held s h

theorem hostOffer_keepsQueues (form : ItemForm) (tag : BitVec 8) (task : Task) (held : Bool) (s : State)
    (h : s.QueueLaw) : (hostOffer form tag task held s).QueueLaw := by
  unfold hostOffer
  split
  · exact h.finish
  · rename_i handle _
    exact State.QueueLaw.finish (h.offer (argOutput task.arg) (item := newItem (.host tag) form handle false) rfl)

theorem outputConfigureWork_keepsQueues (task : Task) (held : Bool) (s : State) (h : s.QueueLaw) :
    (outputConfigureWork task held s).QueueLaw := (h.configureOutput _ _).finish

theorem outputStatusWork_keepsQueues (task : Task) (held : Bool) (s : State) (h : s.QueueLaw) :
    (outputStatusWork task held s).QueueLaw :=
  State.QueueLaw.finish (State.QueueLaw.setPort (h.setOutput_same (argOutput task.arg)) _)

theorem holdEndWork_keepsQueues (task : Task) (held : Bool) (s : State) (h : s.QueueLaw) :
    (holdEndWork task held s).QueueLaw := by
  have hended := h.setHoldEnded (argOutput task.arg) (isHostHold (lowByte (task.word 0)))
  unfold holdEndWork
  split <;> rename_i hs <;> rw [hs] at hended <;> exact hended.finish

theorem outputFlushWork_keepsQueues (task : Task) (held : Bool) (s : State) (h : s.QueueLaw) :
    (outputFlushWork task held s).QueueLaw := (h.flush _).finish

/-! ## Table steps that reach the outputs -/

theorem State.QueueLaw.hostStep {s : State} (hs : s.QueueLaw) (h : HostStep) {body : Task → Bool → State → State}
    (hbody : ∀ task held u, State.QueueLaw u → (body task held u).QueueLaw) : (s.hostStep h body).QueueLaw := by
  rcases s.hostStep_cases h body with he | ⟨task, held, he, -⟩ <;> rw [he]
  · exact hs
  · exact hbody task held _ (hs.served _)

theorem State.QueueLaw.clearToggle {s : State} (h : s.QueueLaw) (g : GroupNo) : (s.clearToggle g).QueueLaw :=
  h.of_map rfl fun _ hx => hx.congr rfl rfl rfl

theorem State.QueueLaw.defineGroup {s : State} (h : s.QueueLaw) (g : GroupNo) (settings : GroupSettings)
    (p : Option Pattern) : (s.defineGroup g settings p).QueueLaw := by
  unfold State.defineGroup
  refine State.QueueLaw.clearToggle ?_ g
  cases p with
  | none => exact h.setGroup g _
  | some p => exact ((h.setGroup g _).setPool _).within (State.joinBin_within _ p.runCount _) (by decide)

theorem groupDefineFinalBody_keepsQueues (task : Task) (held : Bool) (s : State) (h : s.QueueLaw) :
    (groupDefineFinalBody task held s).QueueLaw := by
  by_cases hr : repeatChoice (task.word 0) = 1
  · obtain ⟨u, verdict, hc⟩ : ∃ u verdict, conflictCheck [reservedRepeatContender task (s.newRepeat task)]
        (s.conflictSet (fun _ => false)) s = (u, verdict) := ⟨_, _, rfl⟩
    have hchecked : u.QueueLaw := by
      have hmarked := conflictCheck_marked [reservedRepeatContender task (s.newRepeat task)]
        (s.conflictSet (fun _ => false)) s
      rw [hc] at hmarked
      exact h.within hmarked.within (by decide)
    have hreturned := hchecked.within u.returnReservation_within (by decide)
    rw [groupDefineFinalBody_checked held s hr hc]
    cases verdict with
    | clear => exact (hchecked.defineGroup _ _ _).finish
    | conflict other => exact hreturned.finish
    | unreadable => exact hreturned.finish
  · by_cases hg : s.groups[argGroup task.arg] = none
    · rw [groupDefineFinalBody_undefined held s hr hg]
      exact (h.defineGroup _ _ _).finish
    · rw [groupDefineFinalBody_defined held s hr hg]
      exact h.finish

theorem groupRemoveBody_keepsQueues (task : Task) (held : Bool) (s : State) (h : s.QueueLaw) :
    (groupRemoveBody task held s).QueueLaw := by
  unfold groupRemoveBody
  simp only
  split
  · exact h.finish
  · split
    · exact h.finish
    · exact (((h.within (s.releaseRepeat_within _ _) (by decide)).setGroup _ none).clearToggle _).finish

/-- The handle check touches an output only by the offer behind it (R136). -/
theorem handleCheckBody_keepsQueues (later : Bool) (task : Task) (held : Bool) (s : State) (h : s.QueueLaw) :
    (handleCheckBody later task held s).QueueLaw := by
  unfold handleCheckBody
  split
  · exact h.finish
  · split
    · exact h
    · unfold handleRequest
      split
      · exact h.within (afterRetires_within _ _ (fun task held u => relaySetWork_within task held u) task held s)
          (by decide)
      · exact hostOffer_keepsQueues _ _ task held s h
      · exact hostOffer_keepsQueues _ _ task held s h
      · exact h

/-! ## All commands -/

theorem State.QueueLaw.ite {s t : State} {p : Prop} [Decidable p] (ht : t.QueueLaw) (hs : s.QueueLaw) :
    (if p then t else s).QueueLaw := by
  split
  · exact ht
  · exact hs

theorem State.hardwareReset_queueLaw (s : State) : s.hardwareReset.QueueLaw := by
  intro o
  have hreset : s.hardwareReset.outputs[o] = Output.resetValue := Vector.getElem_replicate o.isLt
  rw [hreset]
  exact .of_empty rfl rfl

theorem exec_keepsQueues (c : Instr) (s t : State) (h : exec c s = .next t) (hs : s.QueueLaw) : t.QueueLaw := by
  cases c
  case hardwareReset =>
    cases h
    exact s.hardwareReset_queueLaw
  case initializeTableStep =>
    cases h
    exact hs.hostStep _ fun _ _ u hu => hu.of_map (f := Output.cleared) rfl fun _ _ => .of_empty rfl rfl
  case memoryTestEnd failing time =>
    cases h
    exact .ite ((hs.advanceTo time).within (State.endMemoryTest_within _ failing) (by decide)) (hs.advanceTo time)
  case transferTimeout time =>
    cases h
    exact (hs.advanceTo time).within (State.transferExpiry_within _) (by decide)
  case outputConfigure part =>
    cases h
    exact hs.hostCommand _ part outputConfigureWork_keepsQueues
  case outputStatus part =>
    cases h
    exact hs.hostCommand _ part outputStatusWork_keepsQueues
  case send part =>
    cases h
    exact hs.hostCommand _ part fun task held u => hostOffer_keepsQueues _ _ task held u
  case holdStart part =>
    cases h
    exact hs.hostCommand _ part fun task held u => hostOffer_keepsQueues _ _ task held u
  case holdEnd part =>
    cases h
    exact hs.hostCommand _ part holdEndWork_keepsQueues
  case outputFlush part =>
    cases h
    exact hs.hostCommand _ part outputFlushWork_keepsQueues
  case groupDefineFinalStep =>
    cases h
    exact hs.hostStep _ groupDefineFinalBody_keepsQueues
  case groupRemoveStep =>
    cases h
    exact hs.hostStep _ groupRemoveBody_keepsQueues
  case handleCheck later =>
    cases h
    exact hs.hostStep _ (handleCheckBody_keepsQueues later)
  case lineTransition i time =>
    cases h
    exact (hs.advanceTo time).within (State.inputTransition_only _ i).within (by decide)
  case carrierGap i time =>
    cases h
    exact .ite ((hs.advanceTo time).within (State.inputGap_only _ i).within (by decide)) (hs.advanceTo time)
  case glitchFloorReached i time =>
    cases h
    exact .ite ((hs.advanceTo time).within (State.inputFloor_only _ i).within (by decide)) (hs.advanceTo time)
  case stuck i time =>
    cases h
    exact .ite ((hs.advanceTo time).within (State.inputStuck_only _ i).within (by decide)) (hs.advanceTo time)
  case endGap i time =>
    cases h
    exact .ite ((hs.advanceTo time).within (State.inputEndGap_only _ i).within (by decide)) (hs.advanceTo time)
  case discardingEndGap i time =>
    cases h
    exact .ite ((hs.advanceTo time).within (State.inputDiscardGap_only _ i).within (by decide)) (hs.advanceTo time)
  case releaseExpiry r time =>
    cases h
    exact .ite ((hs.advanceTo time).within (State.endPress_only _ r _).within (by decide)) (hs.advanceTo time)
  case pressLimitExpiry r time =>
    cases h
    exact .ite ((hs.advanceTo time).within (State.endPress_only _ r _).within (by decide)) (hs.advanceTo time)
  case pressStart =>
    cases h
    split
    · exact hs
    · exact (hs.setMail _).takePressStart _
  case frameGrant o =>
    cases h
    exact .ite ((hs.served _).answerGrant o) hs
  case holdEnded o =>
    cases h
    split
    · exact hs
    · exact (hs.setMail _).setHoldEnded o _
  case frameEnd o time =>
    cases h
    split
    · exact (hs.advanceTo time).endFrame o _
    · exact hs.advanceTo time
  case intervalEnd o time =>
    cases h
    split
    · rename_i hdue
      exact (hs.advanceTo time).endInterval hdue
    · exact hs.advanceTo time
  case holdLimit o time =>
    cases h
    exact .ite ((hs.advanceTo time).endingCause o _) (hs.advanceTo time)
  case spaceEnd o time =>
    cases h
    split
    · rename_i hdue
      exact (hs.advanceTo time).endSpace hdue
    · exact hs.advanceTo time
  case frameParityFault o time =>
    cases h
    split
    · exact (hs.advanceTo time).cutFrame o _ _
    · exact hs.advanceTo time
  all_goals exact hs.within (exec_within _ s t h) (by simp only [touches]; decide)

/-- Settles O5: every command keeps the law, by what it does to an output, and so does the passing of time. -/
theorem stepKeepsQueueLaw : Obligations.StepKeepsQueueLaw := fun _ _ hlaw hstep =>
  step_keeps (fun _ _ hs => hs.of_outputs rfl) (fun _ t hs => hs.advanceTo t) exec_keepsQueues hstep hlaw

end Sys2Proof.Machine
end

section
/-! SUPPORT. The press tracker's records and report list under each of its operations: laws 4 and 5, which every step
keeps, and MATCH_RESULT (R93, R101 to R106, R110, R117, R118). -/

namespace Sys2Proof.Machine

/-! ## One record of sixteen -/

theorem getElem_set_fin {α : Type} {n : Nat} (v : Vector α n) (i j : Fin n) (x : α) :
    (v.set i x)[j] = if i = j then x else v[j] := by
  simp only [Fin.getElem_fin, Vector.getElem_set, Fin.ext_iff]

/-- The search for the HELD record of an input and a group. -/
theorem Tracker.findHeld_some {t : Tracker} {i : InputId} {g : GroupNo} {r : PressNo} {p : Press}
    (h : t.findHeld i g = some (r, p)) :
    t.presses[r] = some p ∧ p.isHeld = true ∧ p.input = i ∧ p.group = g := by
  obtain ⟨q, -, hq⟩ := List.exists_of_findSome?_eq_some h
  split at hq
  · rename_i p' hp'
    split at hq
    · rename_i hheld
      cases hq
      simpa [hp'] using hheld
    · cases hq
  · cases hq

theorem Tracker.findHeld_none {t : Tracker} {i : InputId} {g : GroupNo} (h : t.findHeld i g = none) {r : PressNo}
    {p : Press} (hp : t.presses[r] = some p) (hheld : p.isHeld = true) (hinput : p.input = i) : p.group ≠ g := by
  intro hgroup
  have hr := List.findSome?_eq_none_iff.1 h r (List.mem_finRange r)
  simp [-Fin.getElem_fin, hp, hheld, hinput, hgroup] at hr

theorem Tracker.lowestFree_some {t : Tracker} {r : PressNo} (h : t.lowestFree = some r) : t.presses[r] = none := by
  have hr := List.find?_some h
  simpa using hr

/-! ## What each operation does to the tracker -/

theorem State.sendHoldEndeds_tracker (s : State) (links : OutputMask) (press : PressName) :
    (s.sendHoldEndeds links press).tracker = s.tracker := by
  rw [State.sendHoldEndeds_eq]

/-- The record is on the list afterwards, at its place or at the tail (R117). -/
def joined (list : List PressNo) (r : PressNo) : List PressNo := if r ∈ list then list else list ++ [r]

theorem mem_joined {list : List PressNo} {r a : PressNo} : a ∈ joined list r ↔ a ∈ list ∨ a = r := by
  unfold joined
  split
  · grind
  · simp

theorem joined_nodup {list : List PressNo} {r : PressNo} (h : list.Nodup) : (joined list r).Nodup := by
  unfold joined
  split
  · exact h
  · rename_i hr
    exact h.append (List.nodup_singleton r) (by simpa [List.disjoint_singleton] using hr)

/-- A HELD record ended: the record and the list. -/
theorem State.endPress_tracker {s : State} {r : PressNo} {p : Press} (cause : EndCause)
    (hp : s.tracker.presses[r] = some p) (hheld : p.isHeld = true) :
    (s.endPress r cause).tracker = { s.tracker with
      presses := s.tracker.presses.set r (some { p with
        life := .ended cause (min ((p.lastCredit - p.startTime) / 1000) 65535), endPending := true })
      reportList := joined s.tracker.reportList r } := by
  obtain ⟨deadline, limit, links, hlife⟩ := p.isHeld_iff.1 hheld
  rw [State.endPress_held cause hp hlife, State.sendHoldEndeds_tracker, State.joinReports_eq]
  rfl

/-- A press created in a FREE record: the record, the list and the counter; without one, nothing. -/
theorem State.createPress_tracker (s : State) (m : MatchResult) (e : EntryMatch) :
    (s.tracker.lowestFree = none ∧ (s.createPress m e).tracker = s.tracker) ∨
    ∃ r, s.tracker.lowestFree = some r ∧ (s.createPress m e).tracker = {
      sequence := s.tracker.sequence + 1
      presses := s.tracker.presses.set r (some (newPress (s.tracker.sequence + 1) m e))
      reportList := joined s.tracker.reportList r } := by
  unfold State.createPress
  cases hfree : s.tracker.lowestFree with
  | none => exact .inl ⟨rfl, rfl⟩
  | some r =>
    refine .inr ⟨r, rfl, ?_⟩
    simp only [State.joinReports_eq]
    rfl

/-! ## What every operation of the tracker keeps, every command keeps -/

/-- A property of the tracker that each of its operations keeps. -/
structure Tracker.Kept (P : Tracker → Prop) : Prop where
  reset : P Tracker.resetValue
  ended : ∀ s r cause, P s.tracker → P (State.endPress s r cause).tracker
  matched : ∀ s m, P s.tracker → P (State.takeMatch s m).tracker
  linked : ∀ s q, P s.tracker → P (State.takeLinkRequest s q).tracker
  unlinked : ∀ s o press, P s.tracker → P (State.takeLinkClear s o press).tracker
  collected : ∀ s, P s.tracker → P (State.collectReport s).1.tracker

theorem State.takeNotice_keeps {P : Tracker → Prop} {s : State} {want : Notice → Option (State → State)} (h : P s.tracker)
    (hwant : ∀ n act u, want n = some act → P u.tracker → P (act u).tracker) : P (s.takeNotice want).tracker := by
  unfold State.takeNotice
  split
  · exact h
  · split
    · rename_i hact
      exact hwant _ _ (s.setMail _) hact h
    · exact h

theorem State.hostCommand_keeps {P : Tracker → Prop} {s : State} (c : HostCommand) (part : HostPart) {work : Task → Bool → State → State}
    (h : P s.tracker) (hwork : ∀ task held, P (work task held s).tracker) : P (s.hostCommand c part work).tracker := by
  cases part with
  | commandWrite arg =>
    rw [show (s.hostCommand c (.commandWrite arg) work).tracker = s.tracker from
      s.commandWrite_within c.code arg .tracker (by decide)]
    exact h
  | request =>
    show P (s.blockRequest c work).tracker
    rcases s.blockRequest_cases c work with he | ⟨task, held, he, -⟩ <;> rw [he]
    · exact h
    · exact hwork task held

theorem State.finish_keeps {P : Tracker → Prop} {s : State} (h : P s.tracker) (task : Task) (held : Bool) (outcome : HostOutcome)
    (results : List Word) : P (s.finish task held outcome results).tracker := by
  rw [s.finish_within task held outcome results .tracker (by decide)]
  exact h

section
variable {P : Tracker → Prop} (k : Tracker.Kept P)
include k

theorem Tracker.Kept.endPresses (s : State) (reaches : Press → Bool) (cause : EndCause) (h : P s.tracker) :
    P (s.endPresses reaches cause).tracker := by
  unfold State.endPresses
  generalize List.finRange 16 = l
  induction l generalizing s with
  | nil => exact h
  | cons r rest ih =>
    refine ih _ ?_
    show P (s.endPressIf reaches cause r).tracker
    rw [State.endPressIf_eq]
    split
    · exact k.ended s r cause h
    · exact h

theorem Tracker.Kept.exec (c : Instr) (s t : State) (h : exec c s = .next t) (hs : P s.tracker) : P t.tracker := by
  cases c
  case hardwareReset =>
    cases h
    exact k.reset
  case initializeTableStep =>
    cases h
    rcases s.hostStep_cases .initializeTable (fun _ _ s => s.initializeTable) with he | ⟨task, held, he, -⟩ <;> rw [he]
    · exact hs
    · exact k.reset
  case report part =>
    cases h
    refine State.hostCommand_keeps _ part hs fun task held => ?_
    have hcollected := k.collected s hs
    unfold reportWork
    split
    rename_i hc
    rw [hc] at hcollected
    exact State.finish_keeps hcollected ..
  case pressRead part =>
    cases h
    refine State.hostCommand_keeps _ part hs fun task held => ?_
    unfold pressReadWork
    simp only
    split
    · exact State.finish_keeps hs ..
    · exact State.finish_keeps hs ..
  case pressEnd part =>
    cases h
    refine State.hostCommand_keeps _ part hs fun task held => ?_
    unfold pressEndWork
    simp only
    split
    · exact State.finish_keeps (k.ended s _ _ hs) ..
    · exact State.finish_keeps hs ..
  case matchResult =>
    cases h
    refine State.takeNotice_keeps hs fun n act u hact hu => ?_
    split at hact
    · rw [← Option.some.inj hact]
      exact k.matched u _ hu
    all_goals exact nomatch hact
  case entryRetiredNotice | entrySuspendedNotice | entryDamagedNotice | groupChangedNotice =>
    cases h
    refine State.takeNotice_keeps hs fun n act u hact hu => ?_
    split at hact
    · rw [← Option.some.inj hact]
      exact k.endPresses u _ _ hu
    all_goals exact nomatch hact
  case inputChangeNotice =>
    cases h
    split
    · exact hs
    · exact k.endPresses (s.setMail _) _ _ hs
  case linkRequest =>
    cases h
    split
    · exact hs
    · exact k.linked (s.setMail _) _ hs
  case linkClear o =>
    cases h
    split
    · exact hs
    · exact k.unlinked (s.setMail _) o _ hs
  case releaseExpiry r time | pressLimitExpiry r time =>
    cases h
    split
    · exact k.ended (s.advanceTo time) r _ hs
    · exact hs
  all_goals
    rw [show t.tracker = s.tracker from exec_within _ s t h .tracker (by simp only [touches]; decide)]
    exact hs

theorem Tracker.Kept.step {s t : State} (h : step s = .next t) (hs : P s.tracker) : P t.tracker :=
  step_keeps (P := fun s => P s.tracker) (fun _ _ hs => hs) (fun _ _ hs => hs) k.exec h hs

end

/-! ## Law 4: one HELD press for an input and a group -/

/-- Law 4 on the tracker's records. -/
def Tracker.HeldLaw (t : Tracker) : Prop :=
  ∀ (a b : PressNo) (p q : Press), t.presses[a] = some p → t.presses[b] = some q →
    p.isHeld = true → q.isHeld = true → p.input = q.input → p.group = q.group → a = b

theorem State.heldLaw_iff (s : State) : s.HeldLaw ↔ s.tracker.HeldLaw := .rfl

/-- A record that, if it is HELD, is the only one HELD for its input and group. -/
theorem Tracker.HeldLaw.set {t t' : Tracker} (h : t.HeldLaw) {r : PressNo} {x : Option Press}
    (hpresses : t'.presses = t.presses.set r x)
    (honly : ∀ p, x = some p → p.isHeld = true → ∀ (a : PressNo) (q : Press), a ≠ r → t.presses[a] = some q →
      q.isHeld = true → q.input = p.input → q.group ≠ p.group) : t'.HeldLaw := by
  intro a b p q ha hb hp hq hinput hgroup
  rw [hpresses, getElem_set_fin] at ha hb
  by_cases har : r = a <;> by_cases hbr : r = b
  · exact har.symm.trans hbr
  · rw [if_pos har] at ha
    rw [if_neg hbr] at hb
    exact absurd hgroup.symm (honly p ha hp b q (Ne.symm hbr) hb hq hinput.symm)
  · rw [if_neg har] at ha
    rw [if_pos hbr] at hb
    exact absurd hgroup (honly q hb hq a p (Ne.symm har) ha hp hinput)
  · rw [if_neg har] at ha
    rw [if_neg hbr] at hb
    exact h a b p q ha hb hp hq hinput hgroup

/-- A record that stays HELD for its input and group, or is no longer HELD. -/
theorem Tracker.HeldLaw.update {t t' : Tracker} (h : t.HeldLaw) {r : PressNo} {x : Option Press}
    (hpresses : t'.presses = t.presses.set r x)
    (hsame : ∀ p, x = some p → p.isHeld = true →
      ∃ q, t.presses[r] = some q ∧ q.isHeld = true ∧ q.input = p.input ∧ q.group = p.group) : t'.HeldLaw := by
  refine h.set hpresses fun p hx hp a q ha hq hheld hinput hgroup => ?_
  obtain ⟨old, hold, holdHeld, hi, hg⟩ := hsame p hx hp
  exact ha (h a r q old hq hold hheld holdHeld (hinput.trans hi.symm) (hgroup.trans hg.symm))

theorem Press.credit_same (p : Press) (endTime : Time) (gap : Nat) :
    (p.credit endTime gap).isHeld = p.isHeld ∧ (p.credit endTime gap).input = p.input ∧
      (p.credit endTime gap).group = p.group ∧ (p.credit endTime gap).startPending = p.startPending ∧
      (p.credit endTime gap).endPending = p.endPending := by
  unfold Press.credit
  split <;> rename_i hlife <;> simp [Press.isHeld, Press.isEnded, hlife]

theorem Press.withLinks_same (p : Press) (f : OutputMask → OutputMask) :
    (p.withLinks f).isHeld = p.isHeld ∧ (p.withLinks f).input = p.input ∧
      (p.withLinks f).group = p.group ∧ (p.withLinks f).startPending = p.startPending ∧
      (p.withLinks f).endPending = p.endPending := by
  unfold Press.withLinks
  split <;> rename_i hlife <;> simp [Press.isHeld, Press.isEnded, hlife]

theorem State.heldNamed_some {s : State} {press : PressName} {p : Press} (h : s.heldNamed press = some p) :
    s.tracker.presses[press.record] = some p ∧ p.isHeld = true := by
  unfold State.heldNamed at h
  split at h
  · rename_i q hq
    split at h
    · rename_i hheld
      cases h
      simp only [Bool.and_eq_true] at hheld
      exact ⟨hq, hheld.1⟩
    · cases h
  · cases h

/-- A record is ended, or the state is as it was. -/
theorem State.endPress_tracker_cases (s : State) (r : PressNo) (cause : EndCause) :
    s.endPress r cause = s ∨ ∃ p, s.tracker.presses[r] = some p ∧ p.isHeld = true := by
  by_cases h : ∃ p, s.tracker.presses[r] = some p ∧ p.isHeld = true
  · exact .inr h
  · refine .inl (State.endPress_of_not_held cause fun p hp => ?_)
    by_contra hnot
    exact h ⟨p, hp, by simpa [Press.isHeld] using hnot⟩

theorem State.endPress_heldLaw (s : State) (r : PressNo) (cause : EndCause) (h : s.tracker.HeldLaw) :
    (s.endPress r cause).tracker.HeldLaw := by
  rcases s.endPress_tracker_cases r cause with he | ⟨p, hp, hheld⟩
  · rwa [he]
  · rw [State.endPress_tracker cause hp hheld]
    exact h.update rfl fun q hq hq' => by cases hq; cases hq'

/-- A press is created where no record is HELD for its input and group. -/
theorem State.createPress_heldLaw {s : State} {m : MatchResult} {e : EntryMatch} (h : s.tracker.HeldLaw)
    (hnone : ∀ (a : PressNo) (q : Press), s.tracker.presses[a] = some q → q.isHeld = true → q.input = m.input →
      q.group ≠ e.group) : (s.createPress m e).tracker.HeldLaw := by
  rcases s.createPress_tracker m e with ⟨-, he⟩ | ⟨r, -, he⟩ <;> rw [he]
  · exact h
  · refine h.set rfl fun p hp _ a q _ hq hheld => ?_
    cases hp
    exact hnone a q hq hheld

/-- After the end of the one HELD record of an input and a group none is HELD for them. -/
theorem State.endPress_none_held {s : State} {r : PressNo} {p : Press} (cause : EndCause) (h : s.tracker.HeldLaw)
    (hp : s.tracker.presses[r] = some p) (hheld : p.isHeld = true) {a : PressNo} {q : Press}
    (hq : (s.endPress r cause).tracker.presses[a] = some q) (hqheld : q.isHeld = true) (hinput : q.input = p.input) :
    q.group ≠ p.group := by
  rw [State.endPress_tracker cause hp hheld, getElem_set_fin] at hq
  intro hgroup
  split at hq
  · cases hq
    cases hqheld
  · rename_i hne
    exact hne (h r a p q hp hq hheld hqheld hinput.symm hgroup.symm)

theorem State.takeMatch_heldLaw (s : State) (m : MatchResult) (h : s.tracker.HeldLaw) :
    (s.takeMatch m).tracker.HeldLaw := by
  have hcredit {r : PressNo} {p : Press} (gap : Nat) (hp : s.tracker.presses[r] = some p) (hheld : p.isHeld = true) :
      (s.setPress r (some (p.credit m.endTime gap))).tracker.HeldLaw := by
    refine h.update rfl fun q hq _ => ?_
    cases hq
    obtain ⟨-, hinput, hgroup, -⟩ := p.credit_same m.endTime gap
    exact ⟨p, hp, hheld, hinput.symm, hgroup.symm⟩
  unfold State.takeMatch
  split
  · exact h
  · split
    · rename_i hfound
      obtain ⟨hp, hheld, -⟩ := Tracker.findHeld_some hfound
      exact hcredit _ hp hheld
    · exact h
  · split
    · rename_i hfound
      exact State.createPress_heldLaw h fun a q hq hheld hinput => Tracker.findHeld_none hfound hq hheld hinput
    · rename_i r p hfound
      obtain ⟨hp, hheld, hinput, hgroup⟩ := Tracker.findHeld_some hfound
      have hreplace (cause : EndCause) :=
        State.createPress_heldLaw (m := m) (e := ‹EntryMatch›) (s.endPress_heldLaw r cause h) fun a q hq hqheld hi =>
          hgroup ▸ State.endPress_none_held cause h hp hheld hq hqheld (hi.trans hinput.symm)
      split
      · split
        · exact hcredit _ hp hheld
        · exact hreplace _
      · exact hreplace _

/-- A change of the follow links of the named press. -/
theorem State.setLinks_heldLaw {s : State} {press : PressName} {p : Press} (f : OutputMask → OutputMask)
    (hnamed : s.heldNamed press = some p) (h : s.tracker.HeldLaw) :
    (s.setPress press.record (some (p.withLinks f))).tracker.HeldLaw := by
  obtain ⟨hp, hheld⟩ := State.heldNamed_some hnamed
  refine h.update rfl fun q hq _ => ?_
  cases hq
  obtain ⟨-, hinput, hgroup, -⟩ := p.withLinks_same f
  exact ⟨p, hp, hheld, hinput.symm, hgroup.symm⟩

/-- What REPORT leaves of a record: nothing of one that has ended, and no flag of one that is HELD (R118). -/
def Press.afterReport (p : Press) : Option Press :=
  if p.isEnded then none else some { p with startPending := false, endPending := false }

/-- REPORT takes the head from the list, and what is left of its record stays. -/
theorem State.collectReport_tracker (s : State) :
    (s.tracker.reportList = [] ∧ s.collectReport.1 = s) ∨ ∃ r rest, s.tracker.reportList = r :: rest ∧
      s.collectReport.1.tracker = { s.tracker with
        reportList := rest, presses := s.tracker.presses.set r (s.tracker.presses[r].bind Press.afterReport) } := by
  cases hlist : s.tracker.reportList with
  | nil => exact .inl ⟨rfl, by rw [State.collectReport_empty hlist]⟩
  | cons r rest =>
    refine .inr ⟨r, rest, rfl, ?_⟩
    cases hp : s.tracker.presses[r] with
    | none =>
      have hsame : s.tracker.presses.set r none = s.tracker.presses := by rw [← hp]; exact Vector.set_getElem_self _
      simp only [State.collectReport, hlist, hp, Option.bind_none, hsame]
    | some p => rw [State.collectReport_head hlist hp]; rfl

theorem State.collectReport_heldLaw (s : State) (h : s.tracker.HeldLaw) : s.collectReport.1.tracker.HeldLaw := by
  rcases s.collectReport_tracker with ⟨-, he⟩ | ⟨r, rest, -, he⟩ <;> rw [he]
  · exact h
  · refine h.update rfl fun p hp hheld => ?_
    obtain ⟨q, hq, hafter⟩ := Option.bind_eq_some_iff.1 hp
    unfold Press.afterReport at hafter
    split at hafter
    · cases hafter
    · cases hafter
      exact ⟨q, hq, hheld, rfl, rfl⟩

theorem Tracker.heldLaw_kept : Tracker.Kept Tracker.HeldLaw where
  reset a b p q ha _ _ _ _ _ := by
    rw [show Tracker.resetValue.presses[a] = none from Vector.getElem_replicate a.isLt] at ha
    cases ha
  ended := State.endPress_heldLaw
  matched := State.takeMatch_heldLaw
  linked s q h := by
    unfold State.takeLinkRequest
    split
    · exact State.setLinks_heldLaw _ ‹_› h
    · exact h
  unlinked s o press h := by
    unfold State.takeLinkClear
    split
    · exact State.setLinks_heldLaw _ ‹_› h
    · exact h
  collected := State.collectReport_heldLaw

/-- Settles O7: a press is created only where none is HELD for its input and group, and no other operation of the tracker
makes a record HELD. -/
theorem stepKeepsHeldLaw : Obligations.StepKeepsHeldLaw := fun _ _ hlaw hstep => Tracker.heldLaw_kept.step hstep hlaw

/-! ## Law 5: the report list -/

/-- Law 5 on the tracker. -/
def Tracker.ReportLaw (t : Tracker) : Prop :=
  t.reportList.Nodup ∧
  (∀ r : PressNo, r ∈ t.reportList ↔ ∃ p, t.presses[r] = some p ∧ (p.startPending = true ∨ p.endPending = true)) ∧
  (∀ (r : PressNo) (p : Press), t.presses[r] = some p → p.isEnded = true → p.endPending = true)

/-- One record and its place on the list replaced. -/
theorem Tracker.ReportLaw.set {t t' : Tracker} (h : t.ReportLaw) {r : PressNo} {x : Option Press}
    (hpresses : t'.presses = t.presses.set r x) (hnodup : t'.reportList.Nodup)
    (hothers : ∀ a, a ≠ r → (a ∈ t'.reportList ↔ a ∈ t.reportList))
    (hlisted : r ∈ t'.reportList ↔ ∃ p, x = some p ∧ (p.startPending = true ∨ p.endPending = true))
    (hended : ∀ p, x = some p → p.isEnded = true → p.endPending = true) : t'.ReportLaw := by
  obtain ⟨-, hlist, hend⟩ := h
  refine ⟨hnodup, fun a => ?_, fun a p hp => ?_⟩
  · rw [hpresses, getElem_set_fin]
    split
    · rename_i ha
      rw [← ha, hlisted]
    · rename_i ha
      rw [hothers a (Ne.symm ha), hlist a]
  · rw [hpresses, getElem_set_fin] at hp
    split at hp
    · exact hended p hp
    · exact hend a p hp

/-- A record that keeps its flags and stays HELD. -/
theorem Tracker.ReportLaw.update {t t' : Tracker} (h : t.ReportLaw) {r : PressNo} {p q : Press}
    (hp : t.presses[r] = some p) (hpresses : t'.presses = t.presses.set r (some q)) (hlist : t'.reportList = t.reportList)
    (hheld : q.isHeld = p.isHeld) (hstart : q.startPending = p.startPending) (hend : q.endPending = p.endPending) :
    t'.ReportLaw := by
  refine h.set hpresses (hlist ▸ h.1) (fun a _ => by rw [hlist]) ?_ fun x hx hxend => ?_
  · rw [hlist, h.2.1 r, hp]
    simp [hstart, hend]
  · cases hx
    rw [hend]
    exact h.2.2 r p hp (by simpa [Press.isHeld, hxend] using hheld.symm)

theorem State.endPress_reportLaw (s : State) (r : PressNo) (cause : EndCause) (h : s.tracker.ReportLaw) :
    (s.endPress r cause).tracker.ReportLaw := by
  rcases s.endPress_tracker_cases r cause with he | ⟨p, hp, hheld⟩
  · rwa [he]
  · rw [State.endPress_tracker cause hp hheld]
    refine h.set rfl (joined_nodup h.1) (fun a ha => ?_) ?_ fun q hq _ => ?_
    · simp [mem_joined, ha]
    · simp [mem_joined]
    · cases hq
      rfl

theorem State.createPress_reportLaw {s : State} (m : MatchResult) (e : EntryMatch) (h : s.tracker.ReportLaw) :
    (s.createPress m e).tracker.ReportLaw := by
  rcases s.createPress_tracker m e with ⟨-, he⟩ | ⟨r, -, he⟩ <;> rw [he]
  · exact h
  · refine h.set rfl (joined_nodup h.1) (fun a ha => ?_) ?_ fun q hq hend => ?_
    · simp [mem_joined, ha]
    · simp [mem_joined, newPress]
    · cases hq
      cases hend

theorem State.takeMatch_reportLaw (s : State) (m : MatchResult) (h : s.tracker.ReportLaw) :
    (s.takeMatch m).tracker.ReportLaw := by
  have hcredit {r : PressNo} {p : Press} (gap : Nat) (hp : s.tracker.presses[r] = some p) :
      (s.setPress r (some (p.credit m.endTime gap))).tracker.ReportLaw := by
    obtain ⟨hheld, -, -, hstart, hend⟩ := p.credit_same m.endTime gap
    exact h.update hp rfl rfl hheld hstart hend
  unfold State.takeMatch
  split
  · exact h
  · split
    · rename_i hfound
      exact hcredit _ (Tracker.findHeld_some hfound).1
    · exact h
  · split
    · exact State.createPress_reportLaw m _ h
    · rename_i hfound
      split
      · split
        · exact hcredit _ (Tracker.findHeld_some hfound).1
        · exact State.createPress_reportLaw m _ (s.endPress_reportLaw _ _ h)
      · exact State.createPress_reportLaw m _ (s.endPress_reportLaw _ _ h)

theorem State.setLinks_reportLaw {s : State} {press : PressName} {p : Press} (f : OutputMask → OutputMask)
    (hnamed : s.heldNamed press = some p) (h : s.tracker.ReportLaw) :
    (s.setPress press.record (some (p.withLinks f))).tracker.ReportLaw := by
  obtain ⟨hheld, -, -, hstart, hend⟩ := p.withLinks_same f
  exact h.update (State.heldNamed_some hnamed).1 rfl rfl hheld hstart hend

theorem State.collectReport_reportLaw (s : State) (h : s.tracker.ReportLaw) : s.collectReport.1.tracker.ReportLaw := by
  rcases s.collectReport_tracker with ⟨-, he⟩ | ⟨r, rest, hlist, he⟩ <;> rw [he]
  · exact h
  · have hnodup := List.nodup_cons.1 (hlist ▸ h.1)
    have hafter (p q : Press) (hq : p.afterReport = some q) :
        q.startPending = false ∧ q.endPending = false ∧ q.isEnded = false := by
      unfold Press.afterReport at hq
      split at hq
      · cases hq
      · rename_i hnot
        cases hq
        exact ⟨rfl, rfl, Bool.eq_false_iff.2 hnot⟩
    refine h.set rfl hnodup.2 (fun a ha => ?_) (iff_of_false hnodup.1 ?_) fun q hq hend => ?_
    · simp [hlist, ha]
    · rintro ⟨q, hq, hpending⟩
      obtain ⟨p, -, hpq⟩ := Option.bind_eq_some_iff.1 hq
      simp [hafter p q hpq] at hpending
    · obtain ⟨p, -, hpq⟩ := Option.bind_eq_some_iff.1 hq
      simp [hafter p q hpq] at hend

theorem Tracker.reportLaw_kept : Tracker.Kept Tracker.ReportLaw where
  reset := by
    have hfree (r : PressNo) : Tracker.resetValue.presses[r] = none := Vector.getElem_replicate r.isLt
    refine ⟨List.nodup_nil, fun r => ?_, fun r p hp => ?_⟩
    · rw [hfree r]
      simp [Tracker.resetValue]
    · rw [hfree r] at hp
      cases hp
  ended := State.endPress_reportLaw
  matched := State.takeMatch_reportLaw
  linked s q h := by
    unfold State.takeLinkRequest
    split
    · exact State.setLinks_reportLaw _ ‹_› h
    · exact h
  unlinked s o press h := by
    unfold State.takeLinkClear
    split
    · exact State.setLinks_reportLaw _ ‹_› h
    · exact h
  collected := State.collectReport_reportLaw

/-- Settles O6: each operation of the tracker that sets or clears a flag of a record puts it on the list or takes it off. -/
theorem stepKeepsReportLaw : Obligations.StepKeepsReportLaw := fun _ _ hlaw hstep =>
  Tracker.reportLaw_kept.step hstep hlaw

end Sys2Proof.Machine
end

section
/-! SUPPORT. The table steps of the host as one family, the entries under each command, and where the table changes
(R17, R22 to R24). -/

namespace Sys2Proof.Machine

/-! ## The table steps of the host -/

/-- The claim a row of the host serves, and what the table controller does for it; the clean-up stands apart. -/
def tableStepOf : Instr → Option (HostStep × (Task → Bool → State → State))
  | .installParameterStep => some (.installParameter, installParameterBody)
  | .installFinalStep => some (.installFinal, installFinalBody)
  | .groupParameterStep => some (.groupParameter, groupParameterBody)
  | .groupDefineFinalStep => some (.groupDefineFinal, groupDefineFinalBody)
  | .groupEditFinalStep => some (.groupEditFinal, groupEditFinalBody)
  | .groupRemoveStep => some (.groupRemove, groupRemoveBody)
  | .entryEditStep => some (.entryEdit, entryEditBody)
  | .suspend => some (.suspend, suspendBody)
  | .resume => some (.resume, resumeBody)
  | .retire => some (.retire, retireBody)
  | .entryReadStep => some (.entryRead, entryReadBody)
  | .groupReadStep => some (.groupRead, groupReadBody)
  | .entryFindStep => some (.entryFind, entryFindBody)
  | .entryListStep => some (.entryList, entryListBody)
  | .tableStatusStep => some (.tableStatus, tableStatusBody)
  | .handleCheck later => some (.handleCheck, handleCheckBody later)
  | .initializeTableStep => some (.initializeTable, fun _ _ s => s.initializeTable)
  | _ => none

theorem exec_of_tableStep {c : Instr} {h : HostStep} {body : Task → Bool → State → State}
    (hc : tableStepOf c = some (h, body)) (s : State) : exec c s = .next (s.hostStep h body) := by
  cases c <;> cases hc <;> rfl

/-- A table step of the host leaves the state as it is, or serves the claim of the command in progress. -/
theorem exec_tableStep_cases {c : Instr} {h : HostStep} {body : Task → Bool → State → State}
    (hc : tableStepOf c = some (h, body)) {s t : State} (ht : exec c s = .next t) :
    t = s ∨ ∃ task held, t = body task held (s.served .host) ∧ s.claims.host = some h ∧
      (s.port.engine = .execute task held ∨ s.port.engine = .parameter task (.step held)) := by
  rw [exec_of_tableStep hc] at ht
  rcases s.hostStep_cases h body with he | ⟨task, held, he, hclaim, -, hengine⟩
  · exact .inl ((Host.Outcome.next.inj ht).symm.trans he)
  · exact .inr ⟨task, held, (Host.Outcome.next.inj ht).symm.trans he, hclaim, hengine⟩

/-! ## Entries that keep what they are -/

/-- Every slot keeps its generation and its occupant, but for the status and the marks of an installed entry. -/
def State.SameEntries (s t : State) : Prop :=
  ∀ slot : SlotNo, t.entries[slot].generation = s.entries[slot].generation ∧
    (t.entries[slot].occupant = s.entries[slot].occupant ∨ ∃ e status m a, s.entries[slot].occupant = .installed e ∧
      t.entries[slot].occupant = .installed { e with status := status, mainDamaged := m, alternateDamaged := a })

theorem State.SameEntries.of_entries {s t : State} (h : t.entries = s.entries) : s.SameEntries t :=
  fun slot => by rw [h]; exact ⟨rfl, .inl rfl⟩

theorem State.SameEntries.refl (s : State) : s.SameEntries s := .of_entries rfl

theorem State.SameEntries.trans {s t u : State} (h : s.SameEntries t) (k : t.SameEntries u) : s.SameEntries u := by
  intro slot
  obtain ⟨hgen, hocc⟩ := h slot
  obtain ⟨kgen, kocc⟩ := k slot
  refine ⟨kgen.trans hgen, ?_⟩
  rcases kocc with kocc | ⟨e, st, m, a, he, kocc⟩
  · rw [kocc]; exact hocc
  · rcases hocc with hocc | ⟨e', st', m', a', he', hocc⟩
    · exact .inr ⟨e, st, m, a, hocc ▸ he, kocc⟩
    · obtain rfl := Occupant.installed.inj (hocc.symm.trans he)
      exact .inr ⟨e', st, m, a, he', kocc⟩

theorem State.Within.sameEntries {l : List Part} {s t : State} (h : State.Within l s t) (hl : Part.entries ∉ l) :
    s.SameEntries t := .of_entries (h .entries hl)

theorem State.Marked.sameEntries {s t : State} (h : s.Marked t) : s.SameEntries t := by
  intro slot
  rcases h.entry slot with h | ⟨e, m, a, he, h⟩
  · rw [h]; exact ⟨rfl, .inl rfl⟩
  · rw [h]; exact ⟨rfl, .inr ⟨e, _, m, a, he, rfl⟩⟩

theorem State.entries_setEntry (s : State) (slot other : SlotNo) (x : Entry) :
    (s.setEntry slot x).entries[other] = if slot = other then x else s.entries[other] := getElem_set_fin ..

theorem State.entries_setInstalled (s : State) (slot other : SlotNo) (e : Installed) :
    (s.setInstalled slot e).entries[other] =
      if slot = other then { s.entries[slot] with occupant := .installed e } else s.entries[other] :=
  getElem_set_fin ..

/-- A change of status. -/
theorem State.setInstalled_sameEntries {s : State} {slot : SlotNo} {e : Installed} (status : EntryStatus)
    (he : s.installedAt slot = some e) : s.SameEntries (s.setInstalled slot { e with status := status }) := by
  intro other
  rw [State.entries_setInstalled]
  split
  · rename_i heq
    exact heq ▸ ⟨rfl, .inr ⟨e, status, e.mainDamaged, e.alternateDamaged, State.installedAt_eq_some.1 he, rfl⟩⟩
  · exact ⟨rfl, .inl rfl⟩

theorem State.setBins_installedAt (s : State) (bins : Vector (List PatternRef) 63) (slot : SlotNo) :
    State.installedAt { s with bins := bins } slot = s.installedAt slot := rfl

theorem suspendBody_sameEntries (task : Task) (held : Bool) (s : State) :
    s.SameEntries (suspendBody task held s) := by
  unfold suspendBody
  split
  · exact (s.finish_within _ _ _ _).sameEntries (by decide)
  · rename_i h e hc
    split
    · exact (s.finish_within _ _ _ _).sameEntries (by decide)
    · exact (s.finish_within _ _ _ _).sameEntries (by decide)
    · have hleft := (s.leaveFrames_within h.slot e).sameEntries (by decide)
      have he : (s.leaveFrames h.slot e).installedAt h.slot = some e := by
        obtain ⟨bins, hbins⟩ := s.leaveFrames_frame h.slot e
        rw [hbins]
        exact s.installedAt_of_currentWord hc
      exact ((hleft.trans (State.setInstalled_sameEntries .suspended he)).trans
        ((State.sendNotice_within _ _).sameEntries (by decide))).trans
          ((State.finish_within _ _ _ _ _).sameEntries (by decide))

theorem resumeBody_sameEntries (task : Task) (held : Bool) (s : State) : s.SameEntries (resumeBody task held s) := by
  unfold resumeBody
  split
  · exact (s.finish_within _ _ _ _).sameEntries (by decide)
  · rename_i h e hc
    split
    · exact (s.finish_within _ _ _ _).sameEntries (by decide)
    · exact (s.finish_within _ _ _ _).sameEntries (by decide)
    · exact ((State.setInstalled_sameEntries .active (s.installedAt_of_currentWord hc)).trans
        ((State.joinFrames_within _ _ _).sameEntries (by decide))).trans ((State.finish_within _ _ _ _ _).sameEntries (by decide))

theorem groupDefineFinalBody_sameEntries (task : Task) (held : Bool) (s : State) :
    s.SameEntries (groupDefineFinalBody task held s) := by
  unfold groupDefineFinalBody
  simp only
  split
  · have hm := (conflictCheck_marked [reservedRepeatContender task (s.newRepeat task)]
      (s.conflictSet (fun _ => false)) s).sameEntries
    split <;> rename_i hs <;> rw [hs] at hm
    · exact (hm.trans ((State.returnReservation_within _).sameEntries (by decide))).trans
        ((State.finish_within _ _ _ _ _).sameEntries (by decide))
    · exact (hm.trans ((State.returnReservation_within _).sameEntries (by decide))).trans
        ((State.finish_within _ _ _ _ _).sameEntries (by decide))
    · exact (hm.trans ((State.defineGroup_within _ _ _ _).sameEntries (by decide))).trans
        ((State.finish_within _ _ _ _ _).sameEntries (by decide))
  · split
    · exact (s.finish_within _ _ _ _).sameEntries (by decide)
    · exact ((s.defineGroup_within _ _ _).sameEntries (by decide)).trans ((State.finish_within _ _ _ _ _).sameEntries (by decide))

theorem groupEditFinalBody_sameEntries (task : Task) (held : Bool) (s : State) :
    s.SameEntries (groupEditFinalBody task held s) := by
  unfold groupEditFinalBody
  simp only
  split
  · exact (s.finish_within _ _ _ _).sameEntries (by decide)
  · have hm := (conflictCheck_marked (s.editUnderTest (argGroup task.arg) task)
      (s.conflictSet (s.belongsTo (argGroup task.arg))) s).sameEntries
    split <;> rename_i hs <;> rw [hs] at hm
    · exact (hm.trans ((State.returnReservation_within _).sameEntries (by decide))).trans
        ((State.finish_within _ _ _ _ _).sameEntries (by decide))
    · exact (hm.trans ((State.returnReservation_within _).sameEntries (by decide))).trans
        ((State.finish_within _ _ _ _ _).sameEntries (by decide))
    · split
      · exact (hm.trans ((State.editGroup_within _ _ _ _).sameEntries (by decide))).trans
          ((State.finish_within _ _ _ _ _).sameEntries (by decide))
      · exact hm.trans ((State.finish_within _ _ _ _ _).sameEntries (by decide))

theorem entryReadBody_sameEntries (task : Task) (held : Bool) (s : State) :
    s.SameEntries (entryReadBody task held s) := by
  unfold entryReadBody
  split
  · exact (s.finish_within _ _ _ _).sameEntries (by decide)
  · rename_i h e _
    exact (s.readFrames_marked h.slot e).sameEntries.trans ((State.finish_within _ _ _ _ _).sameEntries (by decide))

theorem groupReadBody_sameEntries (task : Task) (held : Bool) (s : State) :
    s.SameEntries (groupReadBody task held s) := by
  unfold groupReadBody
  simp only
  split
  · exact (s.finish_within _ _ _ _).sameEntries (by decide)
  · rename_i group _
    exact (s.readRepeat_marked (argGroup task.arg) group.repeatPattern).sameEntries.trans
      ((State.finish_within _ _ _ _ _).sameEntries (by decide))

theorem exec_lookup_sameEntries {i : InputId} {s t : State} (h : exec (.lookup i) s = .next t) : s.SameEntries t := by
  cases h
  split
  · rename_i b _ _
    have hbegin : s.SameEntries (s.beginLookup i b) := .of_entries rfl
    unfold State.runLookup
    split
    · exact hbegin
    · exact (hbegin.trans (State.visits_marked ..).sameEntries).trans
        ((State.endLookup_within _ _ _).sameEntries (by decide))
  · exact .refl s

theorem State.takeDamage_sameEntries (s : State) (d : DamageReport) : s.SameEntries (s.takeDamage d) := by
  unfold State.takeDamage
  split
  · split
    · exact (s.damagePattern_marked _).sameEntries
    · exact .of_entries rfl
  · exact .of_entries rfl

theorem exec_damageNotice_sameEntries {o : OutputId} {s t : State} (h : exec (.damageNotice o) s = .next t) :
    s.SameEntries t := by
  cases h
  split
  · rename_i d _ _
    have hserved : s.SameEntries (s.served (.output o)) := .of_entries rfl
    exact (hserved.trans (State.takeDamage_sameEntries _ d)).trans
      ((State.raiseDeferred_within _ o).sameEntries (by decide))
  · exact .refl s

/-- The rows that put an entry into a slot, take one out of it or change its key value. -/
def changesEntries : Instr → Bool
  | .hardwareReset | .installParameterStep | .parameterPhaseCleanUp | .installFinalStep | .entryEditStep | .retire
  | .initializeTableStep => true
  | _ => false

theorem exec_sameEntries {c : Instr} {s t : State} (hc : changesEntries c = false) (h : exec c s = .next t) :
    s.SameEntries t := by
  have hstep : ∀ step body, tableStepOf c = some (step, body) →
      (∀ task held u, State.SameEntries u (body task held u)) → s.SameEntries t := by
    intro step body hbody hkeep
    rcases exec_tableStep_cases hbody h with rfl | ⟨task, held, rfl, -⟩
    · exact .refl _
    · exact .trans (.of_entries rfl) (hkeep task held _)
  cases c
  case suspend => exact hstep _ _ rfl suspendBody_sameEntries
  case resume => exact hstep _ _ rfl resumeBody_sameEntries
  case groupDefineFinalStep => exact hstep _ _ rfl groupDefineFinalBody_sameEntries
  case groupEditFinalStep => exact hstep _ _ rfl groupEditFinalBody_sameEntries
  case entryReadStep => exact hstep _ _ rfl entryReadBody_sameEntries
  case groupReadStep => exact hstep _ _ rfl groupReadBody_sameEntries
  case lookup i => exact exec_lookup_sameEntries h
  case damageNotice o => exact exec_damageNotice_sameEntries h
  case hardwareReset | installParameterStep | parameterPhaseCleanUp | installFinalStep | entryEditStep | retire |
      initializeTableStep => exact nomatch hc
  all_goals exact (exec_within _ s t h).sameEntries (by simp only [touches]; decide)

/-! ## Where the table and the generations change (O13) -/

/-- Every slot keeps its generation. -/
def State.SameGenerations (s t : State) : Prop :=
  ∀ slot : SlotNo, t.entries[slot].generation = s.entries[slot].generation

theorem State.SameEntries.sameGenerations {s t : State} (h : s.SameEntries t) : s.SameGenerations t :=
  fun slot => (h slot).1

theorem State.SameGenerations.trans {s t u : State} (h : s.SameGenerations t) (k : t.SameGenerations u) :
    s.SameGenerations u := fun slot => (k slot).trans (h slot)

theorem State.Within.sameGenerations {l : List Part} {s t : State} (h : State.Within l s t) (hl : Part.entries ∉ l) :
    s.SameGenerations t := (h.sameEntries hl).sameGenerations

theorem State.setEntry_sameGenerations (s : State) (slot : SlotNo) (occupant : Occupant) :
    s.SameGenerations (s.setEntry slot { s.entries[slot] with occupant := occupant }) := by
  intro other
  rw [State.entries_setEntry]
  split
  · rename_i heq; rw [heq]
  · rfl

theorem installParameterBody_sameGenerations (task : Task) (held : Bool) (s : State) :
    s.SameGenerations (installParameterBody task held s) := by
  unfold installParameterBody
  simp only
  iterate 5
    split
    · exact (s.stepFailed_within _ _).sameGenerations (by decide)
  exact (s.setEntry_sameGenerations _ _).trans
    (.trans (fun _ => rfl) ((State.stepPassed_within _ _ _).sameGenerations (by decide)))

theorem State.freeLoading_sameGenerations (s : State) : s.SameGenerations s.freeLoading := by
  unfold State.freeLoading
  split
  · exact s.setEntry_sameGenerations _ _
  · exact fun _ => rfl

theorem State.cleanUp_sameGenerations (s : State) : s.SameGenerations s.cleanUp := by
  unfold State.cleanUp
  split
  · split
    · exact ((s.served .host).freeLoading_sameGenerations.trans
        ((State.returnReservation_within _).sameGenerations (by decide))).trans
          ((State.endTask_within _ _ _ _).sameGenerations (by decide))
    all_goals exact fun _ => rfl
  · exact fun _ => rfl

theorem State.writeEdit_sameGenerations (s : State) (task : Task) (held : Bool) (slot : SlotNo) :
    s.SameGenerations (s.writeEdit task held slot) := by
  unfold State.writeEdit
  split
  · exact (s.finish_within _ _ _ _).sameGenerations (by decide)
  · split
    · exact (s.finish_within _ _ _ _).sameGenerations (by decide)
    · exact (s.setEntry_sameGenerations slot _).trans ((State.finish_within _ _ _ _ _).sameGenerations (by decide))

theorem entryEditBody_sameGenerations (task : Task) (held : Bool) (s : State) :
    s.SameGenerations (entryEditBody task held s) := by
  unfold entryEditBody
  split
  · exact (s.finish_within _ _ _ _).sameGenerations (by decide)
  · rename_i h e _
    split
    · exact (s.finish_within _ _ _ _).sameGenerations (by decide)
    split
    · exact (s.finish_within _ _ _ _).sameGenerations (by decide)
    have hm := (s.editCheck_marked h.slot e (editTolerance task e)).sameEntries.sameGenerations
    split <;> rename_i hs <;> rw [hs] at hm
    · exact hm.trans ((State.finish_within _ _ _ _ _).sameGenerations (by decide))
    · exact hm.trans (State.writeEdit_sameGenerations _ _ _ _)
    · exact hm.trans (State.writeEdit_sameGenerations _ _ _ _)

theorem State.retireEntry_sameGenerations (s : State) (h : Handle) (e : Installed) :
    s.SameGenerations (s.retireEntry h e) := by
  have hleft : s.SameGenerations (match e.status with
      | .active => s.leaveFrames h.slot e
      | .suspended | .damaged => s) := by
    split
    · exact (s.leaveFrames_within _ _).sameGenerations (by decide)
    all_goals exact fun _ => rfl
  have hsent : ∀ u : State, u.SameGenerations (u.sendRetire h) := fun _ _ => rfl
  exact ((((hleft.trans ((State.releaseFrames_within _ e).sameGenerations (by decide))).trans
    (State.setEntry_sameGenerations _ h.slot .free)).trans ((State.changeCount_within _ _ _).sameGenerations
      (by decide))).trans ((State.sendNotice_within _ _).sameGenerations (by decide))).trans (hsent _)

theorem retireBody_sameGenerations (task : Task) (held : Bool) (s : State) :
    s.SameGenerations (retireBody task held s) := by
  unfold retireBody
  split
  · exact (s.finish_within _ _ _ _).sameGenerations (by decide)
  · exact (s.retireEntry_sameGenerations _ _).trans ((State.finish_within _ _ _ _ _).sameGenerations (by decide))

theorem State.initializeTable_sameGenerations (s : State) : s.SameGenerations s.initializeTable := by
  intro slot
  simp [State.initializeTable]

theorem generationsChange : Clause.generationsChange := by
  intro c s t slot h hreset hfinal
  suffices hsame : s.SameGenerations t from hsame slot
  by_cases hc : changesEntries c = true
  · have hstep : ∀ step body, tableStepOf c = some (step, body) →
        (∀ task held u, State.SameGenerations u (body task held u)) → s.SameGenerations t := by
      intro step body hbody hkeep
      rcases exec_tableStep_cases hbody h with rfl | ⟨task, held, rfl, -⟩
      · exact fun _ => rfl
      · exact .trans (fun _ => rfl) (hkeep task held _)
    cases c
    case installParameterStep => exact hstep _ _ rfl installParameterBody_sameGenerations
    case entryEditStep => exact hstep _ _ rfl entryEditBody_sameGenerations
    case retire => exact hstep _ _ rfl retireBody_sameGenerations
    case initializeTableStep => exact hstep _ _ rfl fun _ _ u => u.initializeTable_sameGenerations
    case parameterPhaseCleanUp =>
      cases h
      exact s.cleanUp_sameGenerations
    case hardwareReset => exact absurd rfl hreset
    case installFinalStep => exact absurd rfl hfinal
    all_goals exact nomatch hc
  · exact (exec_sameEntries (Bool.eq_false_iff.2 hc) h).sameGenerations

theorem tableChanges : Clause.tableChanges := by
  intro c s t h hserves
  have hw := exec_within c s t h
  suffices hout : Part.entries ∉ touches c ∧ Part.groups ∉ touches c ∧ Part.bins ∉ touches c from
    ⟨hw .entries hout.1, hw .groups hout.2.1, hw .bins hout.2.2⟩
  cases c
  case hardwareReset | lookup | frameGrant | damageNotice | installParameterStep | parameterPhaseCleanUp |
      installFinalStep | groupParameterStep | groupDefineFinalStep | groupEditFinalStep | groupRemoveStep |
      entryEditStep | suspend | resume | retire | entryReadStep | groupReadStep | entryFindStep | entryListStep |
      tableStatusStep | handleCheck | initializeTableStep => exact nomatch hserves
  all_goals
    simp only [touches]
    decide

/-- Settles O13: the footprints of the rows that serve no claim, and the entries under those that do. -/
theorem tableChangesOnlyWhereServed : Obligations.TableChangesOnlyWhereServed := ⟨generationsChange, tableChanges⟩

end Sys2Proof.Machine
end

section
/-! SUPPORT. How the command engine and the claim of the host move in a step (R168 to R175), and law 10, which every step
keeps. -/

namespace Sys2Proof.Machine

/-! ## The moves of the engine -/

/-- The task with one more word taken. -/
def Task.push (task : Task) (w : Word) : Task := { task with words := task.words ++ [w] }

/-- The claim of the host after EXECUTE has been entered (R171). -/
def enteredClaim (c : HostCommand) (claim : Option HostStep) : Option HostStep :=
  match executeStep c with
  | some h => some h
  | none => claim

/-- A move of the engine and of the host's claim outside the table steps, READY and the reservation being as given. -/
inductive EngineMove (ready : Bool) (reservation : List CellNo) :
    Engine → Option HostStep → Engine → Option HostStep → Prop
  | stay (e h) : EngineMove ready reservation e h e h
  | refuse (e h) (hready : ready = true) (hbusy : e.busy = false) : EngineMove ready reservation e h .idle h
  | ask (e h since) (task : Task) (hready : ready = true) (hbusy : e.busy = false) (hwords : task.words = []) :
      EngineMove ready reservation e h (.parameter task (.word since)) h
  | start (e h) (task : Task) (hready : ready = true) (hbusy : e.busy = false)
      (hparameters : hasParameters task.command = false) :
      EngineMove ready reservation e h (.execute task false) (enteredClaim task.command h)
  | take (h w since now) (task : Task) (hverdict : wordVerdict task w = .next) :
      EngineMove ready reservation (.parameter task (.word since)) h (.parameter (task.push w) (.word now)) h
  | raise (h w since) (task : Task) (hverdict : wordVerdict task w = .step) :
      EngineMove ready reservation (.parameter task (.word since)) h (.parameter (task.push w) (.step false))
        (some (parameterStep task.command))
  | enter (h w since) (task : Task) (hverdict : wordVerdict task w = .last) :
      EngineMove ready reservation (.parameter task (.word since)) h (.execute (task.push w) false)
        (enteredClaim task.command h)
  | drop (h since task) (hreservation : reservation = []) :
      EngineMove ready reservation (.parameter task (.word since)) h .idle h
  | clean (h since task outcome) (hreservation : reservation ≠ []) :
      EngineMove ready reservation (.parameter task (.word since)) h (.cleanup task outcome) (some .cleanUp)
  | holdStep (h held task) :
      EngineMove ready reservation (.parameter task (.step held)) h (.parameter task (.step true)) h
  | hold (h held task) : EngineMove ready reservation (.execute task held) h (.execute task true) h
  | offer (h task outcome w ws since now) (w') (ws') :
      EngineMove ready reservation (.result task outcome w ws since) h (.result task outcome w' ws' now) h
  | finish (h task outcome w ws since) :
      EngineMove ready reservation (.result task outcome w ws since) h .idle h
  | answer (held task) (e : Engine) (hcommand : task.command ≠ .initializePart ∧ task.command ≠ .entryInstall)
      (he : e = .idle ∨ ∃ outcome w ws since, e = .result task outcome w ws since) :
      EngineMove ready reservation (.execute task held) none e none

/-- The move of the engine and of the host's claim from one state to another. -/
def State.PortMove (s t : State) : Prop :=
  EngineMove s.port.ready s.pool.reservation s.port.engine s.claims.host t.port.engine t.claims.host

theorem State.PortMove.of_eq {s t : State} (hengine : t.port.engine = s.port.engine)
    (hclaim : t.claims.host = s.claims.host) : s.PortMove t := by
  unfold State.PortMove
  rw [hengine, hclaim]
  exact .stay _ _

theorem State.Within.portMove {l : List Part} {s t : State} (h : State.Within l s t) (hl : Part.engine ∉ l)
    (hc : Part.hostClaim ∉ l) : s.PortMove t := .of_eq (h .engine hl) (h .hostClaim hc)

theorem State.writeFrame_portMove (s : State) (address : BitVec 8) (w : Word) {effect : State → State}
    (heffect : ∀ u, State.PortMove u (effect u)) : s.PortMove (s.writeFrame address w effect) := by
  obtain ⟨spi, miso, h | h⟩ := s.writeFrame_frame address w effect <;> rw [h]
  · exact heffect { s with port := { s.port with spi := spi, miso := miso } }
  · exact .of_eq rfl rfl

theorem State.enterExecute_port (s : State) (task : Task) :
    (s.enterExecute task).port.engine = .execute task false ∧
      (s.enterExecute task).claims.host = enteredClaim task.command s.claims.host := by
  unfold State.enterExecute enteredClaim
  cases executeStep task.command <;> exact ⟨rfl, rfl⟩

theorem State.takeCommand_portMove (s : State) (code arg : BitVec 8) (hready : s.port.ready = true)
    (hbusy : s.port.engine.busy = false) : s.PortMove (s.takeCommand code arg) := by
  unfold State.takeCommand
  simp only
  split
  · exact .refuse _ _ hready hbusy
  · rename_i c _
    split
    · split
      · exact .ask _ _ _ _ hready hbusy rfl
      · rename_i hparameters
        obtain ⟨hengine, hclaim⟩ := State.enterExecute_port
          (s.setPort { s.port with done := false, fault := false }) { command := c, arg := arg, words := [] }
        unfold State.PortMove
        rw [hengine, hclaim]
        exact .start _ _ _ hready hbusy (Bool.eq_false_iff.2 hparameters)
    · exact .refuse _ _ hready hbusy

theorem State.commandWrite_portMove (s : State) (code arg : BitVec 8) : s.PortMove (s.commandWrite code arg) := by
  refine s.writeFrame_portMove _ _ fun u => ?_
  split
  · rename_i hfree
    obtain ⟨hready, hbusy⟩ := (Bool.and_eq_true _ _).mp hfree
    exact u.takeCommand_portMove code arg hready ((Bool.not_eq_true' _).mp hbusy)
  · exact .of_eq rfl rfl

theorem State.endOrCleanUp_portMove (s : State) {task : Task} {since : Time} (outcome : HostOutcome)
    (hs : s.port.engine = .parameter task (.word since)) : s.PortMove (s.endOrCleanUp task outcome) := by
  unfold State.PortMove
  rw [hs]
  unfold State.endOrCleanUp
  split
  · rename_i hempty
    exact .drop _ _ _ (List.isEmpty_iff.1 hempty)
  · rename_i hempty
    exact .clean _ _ _ _ (fun h => hempty (List.isEmpty_iff.2 h))

theorem State.takeWord_portMove (s : State) {task : Task} {since : Time} (w : Word)
    (hs : s.port.engine = .parameter task (.word since)) : s.PortMove (s.takeWord task w) := by
  obtain ⟨cells, hstored⟩ := s.storeRun_frame task w
  unfold State.takeWord
  simp only
  split
  · exact s.endOrCleanUp_portMove _ hs
  · rename_i hverdict
    rw [hstored]
    unfold State.PortMove
    rw [hs]
    exact .take _ w since _ task hverdict
  · rename_i hverdict
    unfold State.PortMove
    rw [hs]
    exact .raise _ w since task hverdict
  · rename_i hverdict
    rw [hstored]
    obtain ⟨hengine, hclaim⟩ := State.enterExecute_port { s with pool := { s.pool with cells := cells } }
      { task with words := task.words ++ [w] }
    unfold State.PortMove
    rw [hs, hengine, hclaim]
    exact .enter _ w since task hverdict

theorem State.transferWrite_portMove (s : State) (w : Word) : s.PortMove (s.transferWrite w) := by
  refine s.writeFrame_portMove _ _ fun u => ?_
  split
  · exact u.takeWord_portMove w ‹_›
  all_goals exact .of_eq rfl rfl

theorem State.takeResult_portMove (s : State) : s.PortMove s.takeResult := by
  unfold State.takeResult
  split
  · rename_i hs
    unfold State.PortMove
    rw [hs]
    exact .finish ..
  · rename_i hs
    unfold State.PortMove
    rw [hs]
    exact .offer ..
  all_goals exact .of_eq rfl rfl

theorem State.transferRead_portMove (s : State) : s.PortMove s.transferRead := by
  have hframe : ∀ x u, s.frameEnd (addressByte true 1) 0 = (x, u) →
      u.port.engine = s.port.engine ∧ u.port.ready = s.port.ready ∧ u.pool = s.pool ∧ u.claims = s.claims := by
    intro x u hu
    rcases s.frameEnd_cases (addressByte true 1) 0 with h | ⟨y, h⟩ | h <;>
      (obtain ⟨-, rfl⟩ := Prod.mk.inj (hu.symm.trans h); exact ⟨rfl, rfl, rfl, rfl⟩)
  unfold State.transferRead
  split
  · rename_i u hu
    obtain ⟨hengine, hready, hpool, hclaims⟩ := hframe _ u hu
    have hmove := u.takeResult_portMove
    unfold State.PortMove at hmove ⊢
    rwa [hengine, hready, hpool, hclaims] at hmove
  · rename_i u hu
    obtain ⟨hengine, -, -, hclaims⟩ := hframe _ u hu
    exact .of_eq hengine (congrArg Claims.host hclaims)
  · rename_i u hu
    obtain ⟨hengine, -, -, hclaims⟩ := hframe _ u hu
    exact .of_eq hengine (congrArg Claims.host hclaims)

theorem State.abortCommand_portMove (s : State) : s.PortMove s.abortCommand := by
  unfold State.abortCommand
  split
  · exact .of_eq rfl rfl
  · exact .of_eq rfl rfl
  · exact .of_eq rfl rfl
  · exact s.endOrCleanUp_portMove _ ‹_›
  all_goals
    rename_i hs
    unfold State.PortMove
    rw [hs]
  · exact .holdStep ..
  · exact .hold ..
  · exact .finish ..

theorem State.controlWrite_portMove (s : State) (w : Word) : s.PortMove (s.controlWrite w) := by
  refine s.writeFrame_portMove _ _ fun u => ?_
  simp only
  split
  · exact State.abortCommand_portMove (u.setPort { u.port with enables := w.extractLsb' 0 4 })
  · exact .of_eq rfl rfl

theorem State.transferExpiry_portMove (s : State) : s.PortMove s.transferExpiry := by
  unfold State.transferExpiry
  split
  · split
    · exact s.endOrCleanUp_portMove _ ‹_›
    · exact .of_eq rfl rfl
  · rename_i hs
    split
    · unfold State.PortMove
      rw [hs]
      exact .finish ..
    · exact .of_eq rfl rfl
  all_goals exact .of_eq rfl rfl

/-! ### Requests to a block -/

/-- The command ends with its answer, or waits as it is, and no claim of the host is raised. -/
def State.Answers (task : Task) (s t : State) : Prop :=
  t.claims.host = s.claims.host ∧ (t.port.engine = s.port.engine ∨ t.port.engine = .idle ∨
    ∃ outcome w ws since, t.port.engine = .result task outcome w ws since)

theorem State.finish_answers {s u : State} (hclaim : u.claims.host = s.claims.host) (task : Task) (held : Bool)
    (outcome : HostOutcome) (results : List Word) : s.Answers task (u.finish task held outcome results) := by
  obtain ⟨p, hp, -, hengine⟩ := u.finish_frame task held outcome results
  rw [hp]
  refine ⟨hclaim, .inr ?_⟩
  rcases hengine with h | ⟨w, ws, h⟩
  · exact .inl h
  · exact .inr ⟨outcome, w, ws, u.timebase, h⟩

theorem State.hostCommand_portMove (s : State) (c : HostCommand) (part : HostPart)
    {work : Task → Bool → State → State} (hwork : ∀ task held, s.Answers task (work task held s))
    (hc : c ≠ .initializePart ∧ c ≠ .entryInstall) : s.PortMove (s.hostCommand c part work) := by
  cases part with
  | commandWrite arg => exact s.commandWrite_portMove c.code arg
  | request =>
    show s.PortMove (s.blockRequest c work)
    rcases s.blockRequest_cases c work with he | ⟨task, held, he, hengine, hcommand, hclaim⟩ <;> rw [he]
    · exact .of_eq rfl rfl
    · obtain ⟨hhost, hstays | hends⟩ := hwork task held
      · exact .of_eq hstays hhost
      · unfold State.PortMove
        rw [hengine, hhost, hclaim]
        exact .answer _ _ _ (hcommand ▸ hc) hends

theorem afterRetires_answers {work : Task → Bool → State → State} {s : State} {task : Task} {held : Bool}
    (hwork : s.Answers task (work task held s)) : s.Answers task (afterRetires work task held s) := by
  unfold afterRetires
  split
  · exact hwork
  · exact ⟨rfl, .inl rfl⟩

theorem reportWork_answers (s : State) (task : Task) (held : Bool) : s.Answers task (reportWork task held s) := by
  unfold reportWork
  exact State.finish_answers (s.collectReport_only.within .hostClaim (by decide)) ..

theorem pressReadWork_answers (s : State) (task : Task) (held : Bool) :
    s.Answers task (pressReadWork task held s) := by
  unfold pressReadWork
  simp only
  split <;> exact State.finish_answers rfl ..

theorem pressEndWork_answers (s : State) (task : Task) (held : Bool) : s.Answers task (pressEndWork task held s) := by
  unfold pressEndWork
  simp only
  split
  · exact State.finish_answers ((s.endPress_only _ _).within .hostClaim (by decide)) ..
  · exact State.finish_answers rfl ..

theorem relaySetWork_answers (s : State) (task : Task) (held : Bool) :
    s.Answers task (relaySetWork task held s) := by
  unfold relaySetWork
  split
  · rename_i source target _ _
    obtain ⟨relays, hrelays⟩ := s.relayWrite_frame (relayRecordOf source target (task.word 2))
    split <;> rename_i hwrite <;> rw [hwrite] at hrelays <;> subst hrelays <;> exact State.finish_answers rfl ..
  · exact State.finish_answers rfl ..

theorem relayClearWork_answers (s : State) (task : Task) (held : Bool) :
    s.Answers task (relayClearWork task held s) := by
  unfold relayClearWork
  split <;> exact State.finish_answers rfl ..

theorem hostOffer_answers (form : ItemForm) (tag : BitVec 8) (s : State) (task : Task) (held : Bool) :
    s.Answers task (hostOffer form tag task held s) := by
  unfold hostOffer
  split
  · exact State.finish_answers rfl ..
  · exact State.finish_answers ((s.offer_only _ _).within .hostClaim (by decide)) ..

theorem holdEndWork_answers (s : State) (task : Task) (held : Bool) : s.Answers task (holdEndWork task held s) := by
  unfold holdEndWork
  have hset := (s.setHoldEnded_only (argOutput task.arg) (isHostHold (lowByte (task.word 0)))).within .hostClaim
    (by decide)
  split <;> rename_i hs <;> rw [hs] at hset <;> exact State.finish_answers hset ..

theorem relayReadWork_answers (s : State) (task : Task) (held : Bool) : s.Answers task (relayReadWork task held s) :=
  State.finish_answers rfl task held _ _

theorem inputConfigureWork_answers (s : State) (task : Task) (held : Bool) :
    s.Answers task (inputConfigureWork task held s) :=
  State.finish_answers (s.configureInput_within _ _ .hostClaim (by decide)) task held _ _

theorem inputStatusWork_answers (s : State) (task : Task) (held : Bool) : s.Answers task (inputStatusWork task held s) :=
  State.finish_answers rfl task held _ _

theorem outputConfigureWork_answers (s : State) (task : Task) (held : Bool) :
    s.Answers task (outputConfigureWork task held s) :=
  State.finish_answers ((s.configureOutput_only _ _).within .hostClaim (by decide)) task held _ _

theorem outputStatusWork_answers (s : State) (task : Task) (held : Bool) :
    s.Answers task (outputStatusWork task held s) := State.finish_answers rfl task held _ _

theorem outputFlushWork_answers (s : State) (task : Task) (held : Bool) : s.Answers task (outputFlushWork task held s) :=
  State.finish_answers ((s.flush_only _).within .hostClaim (by decide)) task held _ _

/-- A row whose command is a request to a block: the command, the part of the row, and what the block does. -/
def requestOf : Instr → Option (HostCommand × HostPart × (Task → Bool → State → State))
  | .inputConfigure part => some (.inputConfigure, part, inputConfigureWork)
  | .inputStatus part => some (.inputStatus, part, inputStatusWork)
  | .report part => some (.report, part, reportWork)
  | .pressRead part => some (.pressRead, part, pressReadWork)
  | .pressEnd part => some (.pressEnd, part, pressEndWork)
  | .relaySet part => some (.relaySet, part, afterRetires relaySetWork)
  | .relayClear part => some (.relayClear, part, afterRetires relayClearWork)
  | .relayRead part => some (.relayRead, part, afterRetires relayReadWork)
  | .outputConfigure part => some (.outputConfigure, part, outputConfigureWork)
  | .outputStatus part => some (.outputStatus, part, outputStatusWork)
  | .send part => some (.send, part, sendWork)
  | .holdStart part => some (.holdStart, part, holdStartWork)
  | .holdEnd part => some (.holdEnd, part, holdEndWork)
  | .outputFlush part => some (.outputFlush, part, outputFlushWork)
  | _ => none

theorem exec_of_request {i : Instr} {c : HostCommand} {part : HostPart} {work : Task → Bool → State → State}
    (h : requestOf i = some (c, part, work)) (s : State) : exec i s = .next (s.hostCommand c part work) := by
  cases i <;> cases h <;> rfl

theorem requestOf_answers {i : Instr} {c : HostCommand} {part : HostPart} {work : Task → Bool → State → State}
    (h : requestOf i = some (c, part, work)) (s : State) (task : Task) (held : Bool) :
    s.Answers task (work task held s) := by
  cases i <;> cases h
  case inputConfigure => exact inputConfigureWork_answers s task held
  case inputStatus => exact inputStatusWork_answers s task held
  case report => exact reportWork_answers s task held
  case pressRead => exact pressReadWork_answers s task held
  case pressEnd => exact pressEndWork_answers s task held
  case relaySet => exact afterRetires_answers (relaySetWork_answers s task held)
  case relayClear => exact afterRetires_answers (relayClearWork_answers s task held)
  case relayRead => exact afterRetires_answers (relayReadWork_answers s task held)
  case outputConfigure => exact outputConfigureWork_answers s task held
  case outputStatus => exact outputStatusWork_answers s task held
  case send => exact hostOffer_answers _ _ s task held
  case holdStart => exact hostOffer_answers _ _ s task held
  case holdEnd => exact holdEndWork_answers s task held
  case outputFlush => exact outputFlushWork_answers s task held

theorem requestOf_command {i : Instr} {c : HostCommand} {part : HostPart} {work : Task → Bool → State → State}
    (h : requestOf i = some (c, part, work)) : c ≠ .initializePart ∧ c ≠ .entryInstall := by
  cases i <;> cases h <;> decide

/-- The rows that end the frame of a COMMAND write of a command without a request to a block. -/
def plainCommandOf : Instr → Option (HostCommand × BitVec 8)
  | .initializeCommand arg => some (.initializePart, arg)
  | .tableStatus arg => some (.tableStatus, arg)
  | .groupDefine arg => some (.groupDefine, arg)
  | .groupEdit arg => some (.groupEdit, arg)
  | .groupRemove arg => some (.groupRemove, arg)
  | .groupRead arg => some (.groupRead, arg)
  | .entryInstall arg => some (.entryInstall, arg)
  | .entryEdit arg => some (.entryEdit, arg)
  | .entrySuspend arg => some (.entrySuspend, arg)
  | .entryResume arg => some (.entryResume, arg)
  | .entryRetire arg => some (.entryRetire, arg)
  | .entryRead arg => some (.entryRead, arg)
  | .entryFind arg => some (.entryFind, arg)
  | .entryList arg => some (.entryList, arg)
  | _ => none

theorem exec_of_plainCommand {i : Instr} {c : HostCommand} {arg : BitVec 8} (h : plainCommandOf i = some (c, arg))
    (s : State) : exec i s = .next (s.commandWrite c.code arg) := by
  cases i <;> cases h <;> rfl

/-- The rows whose move of the engine is told apart from all others. -/
def movesApart : Instr → Bool
  | .hardwareReset | .memoryTestEnd .. | .parameterPhaseCleanUp => true
  | _ => false

theorem State.rowFrameEnd_portMove (s : State) (i : Instr) : s.PortMove (s.rowFrameEnd i) := by
  unfold State.rowFrameEnd
  split
  · exact State.Within.portMove (execFlagsRead_within s _ rfl) (by decide) (by decide)
  · exact s.transferRead_portMove
  · exact s.transferWrite_portMove _
  · exact s.controlWrite_portMove _
  · exact s.controlWrite_portMove _
  · exact s.writeFrame_portMove _ _ fun u => .of_eq rfl rfl
  · split
    · exact s.commandWrite_portMove _ _
    · exact .of_eq rfl rfl

theorem exec_capture_portMove {event : SpiEvent} {s t : State} (h : exec (.capture event) s = .next t) :
    s.PortMove t := by
  rcases exec_capture_cases event s with ⟨spi, miso, he⟩ | ⟨i, -, ⟨address, data, hdecode⟩, he⟩
  · obtain rfl := Host.Outcome.next.inj (he.symm.trans h)
    exact .of_eq rfl rfl
  · obtain rfl := Host.Outcome.next.inj ((exec_rowFrameEnd s hdecode).1.symm.trans (he.symm.trans h))
    exact s.rowFrameEnd_portMove i

theorem exec_portMove {i : Instr} {s t : State} (hstep : tableStepOf i = none) (hapart : movesApart i = false)
    (h : exec i s = .next t) : s.PortMove t := by
  cases hrequest : requestOf i with
  | some request =>
    obtain ⟨c, part, work⟩ := request
    rw [exec_of_request hrequest] at h
    obtain rfl := Host.Outcome.next.inj h
    exact s.hostCommand_portMove c part (requestOf_answers hrequest s) (requestOf_command hrequest)
  | none =>
    cases hplain : plainCommandOf i with
    | some command =>
      obtain ⟨c, arg⟩ := command
      rw [exec_of_plainCommand hplain] at h
      obtain rfl := Host.Outcome.next.inj h
      exact s.commandWrite_portMove c.code arg
    | none =>
      cases i <;> try contradiction
      case capture event => exact exec_capture_portMove h
      case transferRead => cases h; exact s.transferRead_portMove
      case transferWrite w => cases h; exact s.transferWrite_portMove w
      case transferTimeout time => cases h; exact (s.advanceTo time).transferExpiry_portMove
      case abort w => cases h; exact s.controlWrite_portMove w
      case interruptEnableWrite w => cases h; exact s.controlWrite_portMove w
      case badCommand code arg => cases h; exact s.commandWrite_portMove code arg
      all_goals
        exact (exec_within _ s t h).portMove (by simp only [touches]; decide) (by simp only [touches]; decide)

/-! ## Law 10 (R22, R168, R178) -/

/-- The claim of the host belongs to the phase of the engine. -/
def ClaimFits (e : Engine) (claim : Option HostStep) : Prop :=
  ∀ h, claim = some h →
    (∃ task held, e = .execute task held ∧ executeStep task.command = some h) ∨
    (∃ task held, e = .parameter task (.step held) ∧ h = parameterStep task.command) ∨
    ∃ task outcome, e = .cleanup task outcome ∧ h = .cleanUp

theorem State.hostClaimLaw_iff (s : State) : s.HostClaimLaw ↔ ClaimFits s.port.engine s.claims.host := .rfl

theorem ClaimFits.of_none (e : Engine) : ClaimFits e none := fun _ h => nomatch h

theorem ClaimFits.claim_none {e : Engine} {claim : Option HostStep} (h : ClaimFits e claim)
    (hexecute : ∀ task held, e ≠ .execute task held) (hstep : ∀ task held, e ≠ .parameter task (.step held))
    (hcleanup : ∀ task outcome, e ≠ .cleanup task outcome) : claim = none := by
  refine Option.eq_none_iff_forall_ne_some.2 fun x hx => ?_
  rcases h x hx with ⟨task, held, he, -⟩ | ⟨task, held, he, -⟩ | ⟨task, outcome, he, -⟩
  · exact hexecute task held he
  · exact hstep task held he
  · exact hcleanup task outcome he

theorem ClaimFits.claim_none_of_free {e : Engine} {claim : Option HostStep} (h : ClaimFits e claim)
    (hbusy : e.busy = false) : claim = none :=
  h.claim_none (fun _ _ he => nomatch he ▸ hbusy) (fun _ _ he => nomatch he ▸ hbusy)
    (fun _ _ he => nomatch he ▸ hbusy)

theorem ClaimFits.claim_none_of_word {task : Task} {since : Time} {claim : Option HostStep}
    (h : ClaimFits (.parameter task (.word since)) claim) : claim = none :=
  h.claim_none nofun nofun nofun

theorem ClaimFits.entered (task : Task) (held : Bool) :
    ClaimFits (.execute task held) (enteredClaim task.command none) := by
  intro h hh
  unfold enteredClaim at hh
  split at hh
  · exact .inl ⟨task, held, rfl, by rwa [‹executeStep _ = _›]⟩
  · cases hh

theorem EngineMove.claimFits {ready : Bool} {reservation : List CellNo} {e e' : Engine} {claim claim' : Option HostStep}
    (hmove : EngineMove ready reservation e claim e' claim') (h : ClaimFits e claim) : ClaimFits e' claim' := by
  cases hmove with
  | stay => exact h
  | refuse _ _ _ hbusy | ask _ _ _ _ _ hbusy => rw [h.claim_none_of_free hbusy]; exact .of_none _
  | start _ _ task _ hbusy => rw [h.claim_none_of_free hbusy]; exact .entered task false
  | take | drop => rw [h.claim_none_of_word]; exact .of_none _
  | enter claim w since task => rw [h.claim_none_of_word]; exact .entered (task.push w) false
  | raise claim w since task => exact fun x hx => .inr (.inl ⟨_, _, rfl, (Option.some.inj hx).symm⟩)
  | clean claim since task outcome => exact fun x hx => .inr (.inr ⟨_, _, rfl, (Option.some.inj hx).symm⟩)
  | holdStep claim held task =>
    intro x hx
    rcases h x hx with ⟨_, _, he, -⟩ | ⟨_, _, he, hstep⟩ | ⟨_, _, he, -⟩ <;> cases he
    exact .inr (.inl ⟨_, _, rfl, hstep⟩)
  | hold claim held task =>
    intro x hx
    rcases h x hx with ⟨_, _, he, hstep⟩ | ⟨_, _, he, -⟩ | ⟨_, _, he, -⟩ <;> cases he
    exact .inl ⟨_, _, rfl, hstep⟩
  | offer | finish => rw [h.claim_none nofun nofun nofun]; exact .of_none _
  | answer => exact .of_none _

/-- What the host port does while a memory test runs. -/
def TestFits (testing ready : Bool) (e : Engine) (claim : Option HostStep) : Prop :=
  testing = true → claim = none ∧
    (e = .testing ∧ ready = false ∨ ∃ task held, e = .execute task held ∧ task.command = .initializePart)

theorem State.testLaw_iff (s : State) :
    s.TestLaw ↔ TestFits s.memoryTest.isSome s.port.ready s.port.engine s.claims.host := .rfl

theorem EngineMove.testFits {testing ready : Bool} {reservation : List CellNo} {e e' : Engine}
    {claim claim' : Option HostStep} (hmove : EngineMove ready reservation e claim e' claim')
    (h : TestFits testing ready e claim) : TestFits testing ready e' claim' := by
  intro htesting
  obtain ⟨hclaim, hengine⟩ := h htesting
  cases hmove with
  | stay => exact ⟨hclaim, hengine⟩
  | refuse _ _ hready hbusy | ask _ _ _ _ hready hbusy | start _ _ _ hready hbusy =>
    rcases hengine with ⟨-, hready'⟩ | ⟨task, held, rfl, -⟩
    · exact nomatch hready.symm.trans hready'
    · exact nomatch hbusy
  | hold claim held task =>
    rcases hengine with ⟨he, -⟩ | ⟨task', held', he, hcommand⟩ <;> cases he
    exact ⟨hclaim, .inr ⟨task, true, rfl, hcommand⟩⟩
  | answer held task e' hcommand =>
    rcases hengine with ⟨he, -⟩ | ⟨task', held', he, hcommand'⟩ <;> cases he
    exact absurd hcommand' hcommand.1
  | take | raise | enter | drop | clean | holdStep | offer | finish =>
    rcases hengine with ⟨he, -⟩ | ⟨task', held', he, -⟩ <;> cases he

/-- The two laws of the host's claim. -/
def State.PortLaw (s : State) : Prop := s.HostClaimLaw ∧ s.TestLaw

theorem State.PortLaw.of_none {s : State} (hclaim : s.claims.host = none) (htest : s.memoryTest = none) : s.PortLaw :=
  ⟨fun h hh => (nomatch hclaim.symm.trans hh), fun h => by rw [htest] at h; cases h⟩

theorem State.TestLaw.memoryTest_none {s : State} (h : s.TestLaw) {step : HostStep} (hclaim : s.claims.host = some step) :
    s.memoryTest = none := by
  cases htest : s.memoryTest with
  | none => rfl
  | some start =>
    have hnone := (h (by rw [htest]; rfl)).1
    exact nomatch hnone.symm.trans hclaim

theorem State.reset_like_portLaw {t : State} (hclaim : t.claims.host = none) (hengine : t.port.engine = .testing)
    (hready : t.port.ready = false) : t.PortLaw :=
  ⟨fun _ h => (nomatch hclaim.symm.trans h), fun _ => ⟨hclaim, .inl ⟨hengine, hready⟩⟩⟩

theorem State.PortLaw.move {s t : State} (h : s.PortLaw) (hmove : s.PortMove t) (htest : t.memoryTest = s.memoryTest)
    (hready : t.port.ready = s.port.ready) : t.PortLaw := by
  refine ⟨t.hostClaimLaw_iff.2 (hmove.claimFits h.1), ?_⟩
  rw [State.testLaw_iff, htest, hready]
  exact hmove.testFits h.2

/-- Every body but that of INITIALIZE and of the parameter steps leaves the claim alone; these raise the clean-up. -/
theorem State.PortLaw.stepPassed {s : State} (hclaim : s.claims.host = none) (htest : s.memoryTest = none) (task : Task)
    (held : Bool) : (s.stepPassed task held).PortLaw := by
  obtain ⟨e, h, hs, hcases⟩ := s.stepPassed_frame task held
  rw [hs]
  rcases hcases with ⟨rfl, rfl⟩ | ⟨rfl, rfl⟩
  · exact ⟨fun x hx => .inr (.inr ⟨_, _, rfl, (Option.some.inj hx).symm⟩), fun h => by
      rw [show ({ s with port := _, claims := _ } : State).memoryTest = none from htest] at h; cases h⟩
  · exact .of_none hclaim htest

theorem installParameterBody_portLaw {s : State} (hclaim : s.claims.host = none) (htest : s.memoryTest = none)
    (task : Task) (held : Bool) : (installParameterBody task held s).PortLaw := by
  unfold installParameterBody
  simp only
  iterate 5
    split
    · exact .of_none hclaim htest
  exact State.PortLaw.stepPassed (s := State.setPool (s.setLoading _ _) _) hclaim htest task held

theorem groupParameterBody_portLaw {s : State} (hclaim : s.claims.host = none) (htest : s.memoryTest = none)
    (task : Task) (held : Bool) : (groupParameterBody task held s).PortLaw := by
  unfold groupParameterBody
  simp only
  iterate 3
    split
    · exact .of_none hclaim htest
  rename_i p _
  exact State.PortLaw.stepPassed (s := s.setPool p) hclaim htest task held

theorem State.initializeTable_portLaw {s : State} {task : Task} {held : Bool}
    (hengine : s.port.engine = .execute task held) (hcommand : task.command = .initializePart) :
    s.initializeTable.PortLaw :=
  ⟨fun _ h => (nomatch h), fun _ => ⟨rfl, .inr ⟨task, held, hengine, hcommand⟩⟩⟩

theorem command_of_initializeTable {c : HostCommand} (h : executeStep c = some .initializeTable) :
    c = .initializePart := by
  cases c <;> first | rfl | cases h

theorem parameterStep_ne_initializeTable (c : HostCommand) : parameterStep c ≠ .initializeTable := by
  cases c <;> decide

theorem tableStepOf_portLaw {c : Instr} {h : HostStep} {body : Task → Bool → State → State}
    (hc : tableStepOf c = some (h, body)) {s : State} (hclaim : s.claims.host = none) (htest : s.memoryTest = none)
    {task : Task} {held : Bool}
    (hinit : h = .initializeTable → ∃ task held, s.port.engine = .execute task held ∧ task.command = .initializePart) :
    (body task held s).PortLaw := by
  have hnone : ∀ {l : List Part}, State.Within l s (body task held s) → Part.hostClaim ∉ l → Part.memoryTest ∉ l →
      (body task held s).PortLaw :=
    fun hw h1 h2 => .of_none ((hw .hostClaim h1).trans hclaim) ((hw .memoryTest h2).trans htest)
  cases c <;> cases hc
  case installParameterStep => exact installParameterBody_portLaw hclaim htest task held
  case groupParameterStep => exact groupParameterBody_portLaw hclaim htest task held
  case initializeTableStep =>
    obtain ⟨task', held', hengine, hcommand⟩ := hinit rfl
    exact s.initializeTable_portLaw hengine hcommand
  case installFinalStep => exact hnone (installFinalBody_within task held s) (by decide) (by decide)
  case groupDefineFinalStep => exact hnone (groupDefineFinalBody_within task held s) (by decide) (by decide)
  case groupEditFinalStep => exact hnone (groupEditFinalBody_within task held s) (by decide) (by decide)
  case groupRemoveStep => exact hnone (groupRemoveBody_within task held s) (by decide) (by decide)
  case entryEditStep => exact hnone (entryEditBody_within task held s) (by decide) (by decide)
  case suspend => exact hnone (suspendBody_within task held s) (by decide) (by decide)
  case resume => exact hnone (resumeBody_within task held s) (by decide) (by decide)
  case retire => exact hnone (retireBody_within task held s) (by decide) (by decide)
  case entryReadStep => exact hnone (entryReadBody_within task held s) (by decide) (by decide)
  case groupReadStep => exact hnone (groupReadBody_within task held s) (by decide) (by decide)
  case entryFindStep => exact hnone (entryFindBody_within task held s) (by decide) (by decide)
  case entryListStep => exact hnone (entryListBody_within task held s) (by decide) (by decide)
  case tableStatusStep => exact hnone (tableStatusBody_within task held s) (by decide) (by decide)
  case handleCheck later => exact hnone (handleCheckBody_within later task held s) (by decide) (by decide)

theorem exec_tableStep_portLaw {c : Instr} {h : HostStep} {body : Task → Bool → State → State}
    (hc : tableStepOf c = some (h, body)) {s t : State} (ht : exec c s = .next t) (hs : s.PortLaw) : t.PortLaw := by
  rcases exec_tableStep_cases hc ht with rfl | ⟨task, held, rfl, hclaim, -⟩
  · exact hs
  refine tableStepOf_portLaw hc (s := s.served .host) rfl (hs.2.memoryTest_none hclaim) fun hh => ?_
  subst hh
  rcases hs.1 _ hclaim with ⟨task', held', he, hstep⟩ | ⟨task', held', he, hstep⟩ | ⟨task', outcome, he, hstep⟩
  · exact ⟨task', held', he, command_of_initializeTable hstep⟩
  · exact absurd hstep.symm (parameterStep_ne_initializeTable _)
  · cases hstep

theorem State.cleanUp_portLaw {s : State} (hs : s.PortLaw) : s.cleanUp.PortLaw := by
  unfold State.cleanUp
  split
  · rename_i hturn
    have htest := hs.2.memoryTest_none hturn.1
    split
    · have hfreed := (State.freeLoading_within (s.served .host)).trans (State.returnReservation_within _)
      exact .of_none (hfreed .hostClaim (by decide)) ((hfreed .memoryTest (by decide)).trans htest)
    all_goals exact hs
  · exact hs

theorem State.testEnded_within (s : State) : State.Within [.ready, .engine, .portBits] s s.testEnded := by
  unfold State.testEnded
  split
  · intro p hp
    cases p <;> first | rfl | exact absurd (by decide) hp
  · exact (s.endTask_within _ false _).mono (by decide)
  all_goals exact .refl _ s

theorem State.placeInputs_within (s : State) (l : List InputId) :
    State.Within inputParts s (l.foldl (fun s i => s.placeInput i) s) := by
  induction l generalizing s with
  | nil => exact .refl _ s
  | cons i rest ih => exact ((s.placeInput_only i).within.trans (ih _)).mono (by decide)

theorem State.endMemoryTest_memoryTest (s : State) (failing : List CellNo) :
    (s.endMemoryTest failing).memoryTest = none := by
  unfold State.endMemoryTest State.afterTest
  simp only
  rw [State.raiseTable_frame]
  exact ((State.testEnded_within _) .memoryTest (by decide)).trans ((State.placeInputs_within _ _) .memoryTest (by decide))

theorem State.endMemoryTest_portLaw {s : State} (hs : s.PortLaw) (hdue : s.testDue = true) (failing : List CellNo) :
    (s.endMemoryTest failing).PortLaw := by
  have hclaim : s.claims.host = none := by
    refine (hs.2 ?_).1
    unfold State.testDue at hdue
    split at hdue
    · rename_i h; rw [h]; rfl
    · cases hdue
  exact .of_none (((s.endMemoryTest_within failing) .hostClaim (by decide)).trans hclaim)
    (s.endMemoryTest_memoryTest failing)

theorem exec_portLaw (c : Instr) (s t : State) (h : exec c s = .next t) (hs : s.PortLaw) : t.PortLaw := by
  cases hstep : tableStepOf c with
  | some x => exact exec_tableStep_portLaw hstep h hs
  | none =>
    by_cases hapart : movesApart c = true
    · cases c
      case hardwareReset =>
        cases h
        exact State.reset_like_portLaw rfl rfl rfl
      case memoryTestEnd failing time =>
        cases h
        split
        · exact State.endMemoryTest_portLaw (s := s.advanceTo time) hs ‹_› failing
        · exact hs
      case parameterPhaseCleanUp =>
        cases h
        exact State.cleanUp_portLaw hs
      all_goals cases hapart
    · have hapart := Bool.eq_false_iff.2 hapart
      have hw := exec_within c s t h
      refine hs.move (exec_portMove hstep hapart h) (hw .memoryTest ?_) (hw .ready ?_)
      all_goals
        cases c <;> first | contradiction | (simp only [touches]; decide)

/-- Law 10 is a property of the phases of the engine. -/
theorem Engine.requestLaw (s : State) : s.RequestLaw := by
  unfold State.RequestLaw
  cases s.port.engine with
  | parameter task wait => cases wait with
    | word => exact ⟨fun _ => rfl, nofun⟩
    | step => exact ⟨nofun, nofun⟩
  | result => exact ⟨fun _ => rfl, fun _ => rfl⟩
  | testing | idle | execute | cleanup => exact ⟨nofun, nofun⟩

/-- Settles O11: the moves of the engine keep the claim with its phase, and so does every served table step. -/
theorem stepKeepsHostClaimLaw : Obligations.StepKeepsHostClaimLaw := by
  intro s t hclaim htest hstep
  obtain ⟨hclaim', htest'⟩ := step_keeps (P := State.PortLaw) (fun _ _ hs => hs) (fun _ _ hs => hs) exec_portLaw hstep
    ⟨hclaim, htest⟩
  exact ⟨hclaim', htest', Engine.requestLaw t⟩

end Sys2Proof.Machine
end

section
/-! SUPPORT. The relay map under each command: law 6, the sources apart and current (R124 to R131). -/

namespace Sys2Proof.Machine

/-! ## The records' sources -/

/-- Every record that is not EMPTY names the source it named before. -/
def State.SameSources (s t : State) : Prop :=
  ∀ (n : RelayNo) (r : RelayRecord), t.relays[n] = some r → ∃ q, s.relays[n] = some q ∧ q.source = r.source

theorem State.SameSources.of_relays {s t : State} (h : t.relays = s.relays) : s.SameSources t :=
  fun _ r hr => ⟨r, h ▸ hr, rfl⟩

theorem State.SameSources.trans {s t u : State} (h : s.SameSources t) (k : t.SameSources u) : s.SameSources u := by
  intro n r hr
  obtain ⟨q, hq, hsource⟩ := k n r hr
  obtain ⟨p, hp, hsource'⟩ := h n q hq
  exact ⟨p, hp, hsource'.trans hsource⟩

theorem State.Within.sameSources {l : List Part} {s t : State} (h : State.Within l s t) (hl : Part.relays ∉ l) :
    s.SameSources t := .of_relays (h .relays hl)

theorem State.relays_setRelay (s : State) (n m : RelayNo) (x : Option RelayRecord) :
    (s.setRelay n x).relays[m] = if n = m then x else s.relays[m] := getElem_set_fin ..

/-- A record replaced by one of the same source, or emptied. -/
theorem State.setRelay_sameSources (s : State) (n : RelayNo) {x : Option RelayRecord}
    (hx : ∀ r, x = some r → ∃ q, s.relays[n] = some q ∧ q.source = r.source) : s.SameSources (s.setRelay n x) := by
  intro m r hr
  rw [State.relays_setRelay] at hr
  split at hr
  · rename_i heq
    exact heq ▸ hx r hr
  · exact ⟨r, hr, rfl⟩

theorem State.relayOffers_relays (s : State) (r : RelayRecord) (press : PressName) :
    ([0, 1].foldl (State.relayOffer r press) (s, .queued, [])).1.relays = s.relays := by
  have hfirst := (State.relayOffer_only r press (s, .queued, []) 0).within .relays (by decide)
  have hsecond := (State.relayOffer_only r press (State.relayOffer r press (s, .queued, []) 0) 1).within .relays
    (by decide)
  exact hsecond.trans hfirst

theorem State.sendLinkRequests_sameSources (s : State) (press : PressName) (os : List OutputId) :
    s.SameSources (os.foldl (fun s o => s.sendLinkRequest o press) s) := by
  obtain ⟨q, hq⟩ := State.sendLinkRequests_frame press os s
  rw [hq]
  exact .of_relays rfl

theorem State.relayPress_sameSources {s : State} {n : RelayNo} {r : RelayRecord} (hr : s.relays[n] = some r)
    (p : PressStart) : s.SameSources (s.relayPress n r p) := by
  have hset : ∀ {u : State} {q : RelayRecord}, u.relays = s.relays → q.source = r.source →
      s.SameSources (u.setRelay n (some q)) := fun hu hq =>
    .trans (.of_relays hu) (State.setRelay_sameSources _ n fun q' hq' =>
      ⟨r, hu ▸ hr, hq.symm.trans (congrArg RelayRecord.source (Option.some.inj hq'))⟩)
  unfold State.relayPress
  split
  · exact .of_relays rfl
  split
  · exact hset rfl rfl
  split
  · exact hset rfl rfl
  split
  · exact hset rfl rfl
  · simp only
    refine .trans ?_ (State.sendLinkRequests_sameSources _ _ _)
    exact hset (s.relayOffers_relays r p.press) rfl

theorem exec_pressStart_sameSources {s t : State} (h : exec .pressStart s = .next t) : s.SameSources t := by
  cases h
  split
  · exact .of_relays rfl
  · rename_i p rest _
    unfold State.takePressStart
    split
    · exact .of_relays rfl
    · rename_i n r hfound
      have hr := (State.relayOfSource_spec hfound).1
      have htaken : s.SameSources (s.setMail { s.mail with pressStarts := rest }) := .of_relays rfl
      exact htaken.trans (State.relayPress_sameSources hr p)

theorem State.takeRetire_relay {s : State} {h : Handle} {n : RelayNo} {r : RelayRecord}
    (hr : (s.takeRetire h).relays[n] = some r) : ∃ q, s.relays[n] = some q ∧ q.source = r.source ∧ r.source ≠ h := by
  simp only [State.takeRetire, Fin.getElem_fin, Vector.getElem_map, Option.bind_eq_some_iff] at hr
  obtain ⟨q, hq, hafter⟩ := hr
  refine ⟨q, hq, ?_⟩
  unfold RelayRecord.afterRetire at hafter
  split at hafter
  · cases hafter
  · rename_i hsource
    split at hafter <;> (obtain rfl := Option.some.inj hafter; exact ⟨rfl, hsource⟩)

theorem relayClearWork_sameSources (task : Task) (held : Bool) (s : State) :
    s.SameSources (relayClearWork task held s) := by
  unfold relayClearWork
  split
  · exact (s.setRelay_sameSources _ (x := none) nofun).trans
      ((State.finish_within _ _ _ _ _).sameSources (by decide))
  · exact (s.finish_within _ _ _ _).sameSources (by decide)

/-- A RELAY SET that the relay unit takes writes a record of the source of its first word, or leaves the map. -/
theorem relaySetWork_relays (task : Task) (held : Bool) (s : State) :
    (relaySetWork task held s).relays = s.relays ∨ ∃ r, Handle.ofWord (task.word 0) = some r.source ∧
      (relaySetWork task held s).relays = (s.relayWrite r).1.relays := by
  unfold relaySetWork
  split
  · rename_i source target hsource _
    refine .inr ⟨relayRecordOf source target (task.word 2), hsource, ?_⟩
    split <;> rename_i hwrite <;> rw [hwrite] <;> exact (State.finish_within _ _ _ _ _) .relays (by decide)
  · exact .inl ((s.finish_within _ _ _ _) .relays (by decide))

/-- The relay map is as it was but for one record, whose source no other record names. -/
theorem State.relayWrite_cases (s : State) (r : RelayRecord) :
    (s.relayWrite r).1 = s ∨ ∃ n, (s.relayWrite r).1 = s.setRelay n (some r) ∧
      (∃ q, s.relays[n] = some q ∧ q.source = r.source ∨ ∀ (m : RelayNo) (q : RelayRecord), s.relays[m] = some q →
        q.source ≠ r.source) := by
  unfold State.relayWrite
  split
  · rename_i n q hfound
    obtain ⟨hq, hsource⟩ := State.relayOfSource_spec hfound
    exact .inr ⟨n, rfl, q, .inl ⟨hq, hsource⟩⟩
  · rename_i hnone
    split
    · rename_i n _
      refine .inr ⟨n, rfl, r, .inr fun m q hq hsource => ?_⟩
      have hsome := State.relayOfSource_isSome hq hsource
      rw [hnone] at hsome
      cases hsome
    · exact .inl rfl

/-! ## The sources apart (law 6, first part) -/

theorem State.RelayLaw.of_sameSources {s t : State} (h : s.RelayLaw) (hsame : s.SameSources t) : t.RelayLaw := by
  intro a b p q hp hq hsource
  obtain ⟨p', hp', hps⟩ := hsame a p hp
  obtain ⟨q', hq', hqs⟩ := hsame b q hq
  exact h a b p' q' hp' hq' (hps.trans (hsource.trans hqs.symm))

theorem State.RelayLaw.of_relays {s t : State} (h : s.RelayLaw) (heq : t.relays = s.relays) : t.RelayLaw :=
  h.of_sameSources (.of_relays heq)

theorem State.RelayLaw.of_empty {t : State} (h : ∀ n : RelayNo, t.relays[n] = none) : t.RelayLaw :=
  fun a _ _ _ hp => nomatch (h a).symm.trans hp

theorem State.RelayLaw.relayWrite {s : State} (h : s.RelayLaw) (r : RelayRecord) : (s.relayWrite r).1.RelayLaw := by
  rcases s.relayWrite_cases r with he | ⟨n, he, q, ⟨hq, hsource⟩ | hnone⟩ <;> rw [he]
  · exact h
  · exact h.of_sameSources (s.setRelay_sameSources n fun r' hr' => ⟨q, hq, Option.some.inj hr' ▸ hsource⟩)
  · intro a b p p' hp hp' hsource
    rw [State.relays_setRelay] at hp hp'
    split at hp <;> split at hp'
    · rename_i ha hb
      exact ha.symm.trans hb
    · exact absurd ((Option.some.inj hp ▸ hsource).symm) (hnone b p' hp')
    · exact absurd (Option.some.inj hp' ▸ hsource) (hnone a p hp)
    · exact h a b p p' hp hp' hsource

theorem relaySetWork_relayLaw (task : Task) (held : Bool) {s : State} (h : s.RelayLaw) :
    (relaySetWork task held s).RelayLaw := by
  rcases relaySetWork_relays task held s with he | ⟨r, -, he⟩
  · exact h.of_relays he
  · exact (h.relayWrite r).of_relays he

theorem afterRetires_relayLaw {work : Task → Bool → State → State} (task : Task) (held : Bool) {s : State}
    (h : s.RelayLaw) (hwork : (work task held s).RelayLaw) : (afterRetires work task held s).RelayLaw := by
  unfold afterRetires
  split
  · exact hwork
  · exact h

theorem handleCheckBody_relayLaw (later : Bool) (task : Task) (held : Bool) {s : State} (h : s.RelayLaw) :
    (handleCheckBody later task held s).RelayLaw := by
  unfold handleCheckBody
  split
  · exact h.of_relays ((s.finish_within _ _ _ _) .relays (by decide))
  · split
    · exact h
    · unfold handleRequest
      split
      · exact afterRetires_relayLaw task held h (relaySetWork_relayLaw task held h)
      · exact h.of_relays ((hostOffer_within _ _ task held s) .relays (by decide))
      · exact h.of_relays ((hostOffer_within _ _ task held s) .relays (by decide))
      · exact h

theorem State.RelayLaw.hostCommand {s : State} (h : s.RelayLaw) (c : HostCommand) (part : HostPart)
    {work : Task → Bool → State → State} (hwork : ∀ task held, (work task held s).RelayLaw) :
    (s.hostCommand c part work).RelayLaw := by
  cases part with
  | commandWrite arg => exact h.of_relays ((s.commandWrite_within c.code arg) .relays (by decide))
  | request =>
    show (s.blockRequest c work).RelayLaw
    rcases s.blockRequest_cases c work with he | ⟨task, held, he, -⟩ <;> rw [he]
    · exact h
    · exact hwork task held

theorem exec_relayLaw (c : Instr) (s t : State) (h : exec c s = .next t) (hs : s.RelayLaw) : t.RelayLaw := by
  cases c
  case hardwareReset =>
    cases h
    exact .of_empty fun n => by simp [State.hardwareReset, State.reset]
  case initializeTableStep =>
    rcases exec_tableStep_cases rfl h with rfl | ⟨task, held, rfl, -⟩
    · exact hs
    · exact .of_empty fun n => by simp [State.initializeTable]
  case relaySet part =>
    cases h
    exact hs.hostCommand _ part fun task held => afterRetires_relayLaw task held hs (relaySetWork_relayLaw task held hs)
  case relayClear part =>
    cases h
    exact hs.hostCommand _ part fun task held =>
      afterRetires_relayLaw task held hs (hs.of_sameSources (relayClearWork_sameSources task held s))
  case relayRead part =>
    cases h
    exact hs.hostCommand _ part fun task held =>
      afterRetires_relayLaw task held hs (hs.of_relays ((s.finish_within _ _ _ _) .relays (by decide)))
  case handleCheck later =>
    rcases exec_tableStep_cases rfl h with rfl | ⟨task, held, rfl, -⟩
    · exact hs
    · exact handleCheckBody_relayLaw later task held (hs.of_relays rfl)
  case pressStart => exact hs.of_sameSources (exec_pressStart_sameSources h)
  case relayRetireNotice =>
    cases h
    split
    · exact hs
    · exact hs.of_sameSources fun n r hr => by
        obtain ⟨q, hq, hsource, -⟩ := State.takeRetire_relay hr
        exact ⟨q, hq, hsource⟩
  all_goals exact hs.of_relays (exec_within _ s t h .relays (by simp only [touches]; decide))

/-! ## Handles that stay current -/

/-- Every current handle is current afterwards. -/
def State.KeepsCurrent (s t : State) : Prop :=
  ∀ h : Handle, (s.currentEntry h).isSome = true → (t.currentEntry h).isSome = true

theorem State.KeepsCurrent.trans {s t u : State} (h : s.KeepsCurrent t) (k : t.KeepsCurrent u) : s.KeepsCurrent u :=
  fun x hx => k x (h x hx)

theorem State.currentEntry_isSome_iff {s : State} {h : Handle} : (s.currentEntry h).isSome = true ↔
    s.entries[h.slot].generation = h.gen ∧ h.gen ≠ 0 ∧ ∃ e, s.entries[h.slot].occupant = .installed e := by
  unfold State.currentEntry
  split
  · rename_i hgen
    rw [Option.isSome_iff_exists]
    exact ⟨fun ⟨e, he⟩ => ⟨hgen.1, hgen.2, e, State.installedAt_eq_some.1 he⟩,
      fun ⟨_, _, e, he⟩ => ⟨e, State.installedAt_eq_some.2 he⟩⟩
  · rename_i hgen
    exact ⟨nofun, fun ⟨h1, h2, _⟩ => absurd ⟨h1, h2⟩ hgen⟩

theorem State.SameEntries.keepsCurrent {s t : State} (h : s.SameEntries t) : s.KeepsCurrent t := by
  intro x hx
  rw [State.currentEntry_isSome_iff] at hx ⊢
  obtain ⟨hgen, hzero, e, he⟩ := hx
  obtain ⟨hsame, hocc | ⟨e', st, m, a, -, hocc⟩⟩ := h x.slot
  · exact ⟨hsame.trans hgen, hzero, e, hocc.trans he⟩
  · exact ⟨hsame.trans hgen, hzero, _, hocc⟩

theorem State.Within.keepsCurrent {l : List Part} {s t : State} (h : State.Within l s t) (hl : Part.entries ∉ l) :
    s.KeepsCurrent t := (h.sameEntries hl).keepsCurrent

theorem State.setEntry_keepsCurrent {s : State} {slot : SlotNo} (x : Entry) (hslot : s.installedAt slot = none) :
    s.KeepsCurrent (s.setEntry slot x) := by
  intro h hh
  rw [State.currentEntry_isSome_iff] at hh ⊢
  obtain ⟨hgen, hzero, e, he⟩ := hh
  have hne : slot ≠ h.slot := fun heq => by
    rw [heq, State.installedAt_eq_some.2 he] at hslot
    cases hslot
  rw [State.entries_setEntry, if_neg hne]
  exact ⟨hgen, hzero, e, he⟩

theorem State.setInstalled_keepsCurrent (s : State) (slot : SlotNo) (e : Installed) :
    s.KeepsCurrent (s.setInstalled slot e) := by
  intro h hh
  rw [State.currentEntry_isSome_iff] at hh ⊢
  obtain ⟨hgen, hzero, e', he⟩ := hh
  rw [State.entries_setInstalled]
  split
  · rename_i heq
    exact ⟨heq ▸ hgen, hzero, e, rfl⟩
  · exact ⟨hgen, hzero, e', he⟩

theorem State.lowestFreeSlot_free {s : State} {slot : SlotNo} (h : s.lowestFreeSlot = some slot) :
    s.entries[slot].occupant = .free := by
  simpa using List.find?_some h

theorem State.loadingSlot_loading {s : State} {slot : SlotNo} (h : s.loadingSlot = some slot) :
    ∃ l, s.entries[slot].occupant = .loading l := by
  have hslot := List.find?_some h
  split at hslot
  · exact ⟨_, ‹_›⟩
  all_goals cases hslot

theorem State.loading?_eq_some {s : State} {slot : SlotNo} {l : Loading} (h : s.loading? = some (slot, l)) :
    s.entries[slot].occupant = .loading l := by
  unfold State.loading? at h
  obtain ⟨slot', -, hslot⟩ := Option.bind_eq_some_iff.1 h
  split at hslot
  · cases hslot
    exact ‹_›
  all_goals cases hslot

theorem State.installedAt_none_of_loading {s : State} {slot : SlotNo} {l : Loading}
    (h : s.entries[slot].occupant = .loading l) : s.installedAt slot = none := by
  unfold State.installedAt
  rw [h]

theorem installParameterBody_keepsCurrent (task : Task) (held : Bool) (s : State) :
    s.KeepsCurrent (installParameterBody task held s) := by
  unfold installParameterBody
  simp only
  split
  · exact (s.stepFailed_within _ _).keepsCurrent (by decide)
  split
  · exact (s.stepFailed_within _ _).keepsCurrent (by decide)
  split
  · exact (s.stepFailed_within _ _).keepsCurrent (by decide)
  split
  · exact (s.stepFailed_within _ _).keepsCurrent (by decide)
  rename_i slot hfree
  split
  · exact (s.stepFailed_within _ _).keepsCurrent (by decide)
  · have hslot : s.installedAt slot = none := by
      unfold State.installedAt
      rw [State.lowestFreeSlot_free hfree]
    have hpool : ∀ (u : State) (p : Pool), u.KeepsCurrent (u.setPool p) := fun _ _ _ h => h
    exact ((State.setEntry_keepsCurrent _ hslot).trans (hpool _ _)).trans
      ((State.stepPassed_within _ _ _).keepsCurrent (by decide))

theorem State.freeLoading_keepsCurrent (s : State) : s.KeepsCurrent s.freeLoading := by
  unfold State.freeLoading
  split
  · rename_i slot hslot
    obtain ⟨l, hl⟩ := State.loadingSlot_loading hslot
    exact State.setEntry_keepsCurrent _ (State.installedAt_none_of_loading hl)
  · exact fun _ h => h

theorem State.cleanUp_keepsCurrent (s : State) : s.KeepsCurrent s.cleanUp := by
  unfold State.cleanUp
  split
  · split
    · exact ((s.served .host).freeLoading_keepsCurrent.trans
        ((State.returnReservation_within _).keepsCurrent (by decide))).trans
          ((State.endTask_within _ _ _ _).keepsCurrent (by decide))
    all_goals exact fun _ h => h
  · exact fun _ h => h

theorem installFinalBody_keepsCurrent (task : Task) (held : Bool) (s : State) :
    s.KeepsCurrent (installFinalBody task held s) := by
  unfold installFinalBody
  split
  · exact fun _ h => h
  · rename_i slot l hloading
    have hm := conflictCheck_marked (s.installUnderTest l) (s.conflictSet (fun _ => false)) s
    have hslot : ∀ u : State, s.Marked u → u.installedAt slot = none := fun u hu =>
      State.installedAt_none_of_loading ((hu.loading slot l).2 (State.loading?_eq_some hloading))
    have hreturned : ∀ u : State, s.Marked u → ∀ outcome words,
        s.KeepsCurrent ((u.freeSlot slot).returnReservation.finish task held outcome words) := fun u hu _ _ =>
      ((hu.sameEntries.keepsCurrent.trans (State.setEntry_keepsCurrent _ (hslot u hu))).trans
        ((State.returnReservation_within _).keepsCurrent (by decide))).trans
          ((State.finish_within _ _ _ _ _).keepsCurrent (by decide))
    split <;> rename_i hs <;> rw [hs] at hm
    · exact hreturned _ hm _ _
    · exact hreturned _ hm _ _
    · rename_i u
      have hpool : ∀ (u : State) (p : Pool), u.KeepsCurrent (u.setPool p) := fun _ _ _ h => h
      exact ((((hm.sameEntries.keepsCurrent.trans (State.setEntry_keepsCurrent _ (hslot u hm))).trans (hpool _ _)).trans
        ((State.joinFrames_within _ _ _).keepsCurrent (by decide))).trans
          ((State.changeCount_within _ _ _).keepsCurrent (by decide))).trans
            ((State.finish_within _ _ _ _ _).keepsCurrent (by decide))

theorem State.writeEdit_keepsCurrent (s : State) (task : Task) (held : Bool) (slot : SlotNo) :
    s.KeepsCurrent (s.writeEdit task held slot) := by
  unfold State.writeEdit
  split
  · exact (s.finish_within _ _ _ _).keepsCurrent (by decide)
  · split
    · exact (s.finish_within _ _ _ _).keepsCurrent (by decide)
    · exact (s.setInstalled_keepsCurrent _ _).trans ((State.finish_within _ _ _ _ _).keepsCurrent (by decide))

theorem entryEditBody_keepsCurrent (task : Task) (held : Bool) (s : State) :
    s.KeepsCurrent (entryEditBody task held s) := by
  unfold entryEditBody
  split
  · exact (s.finish_within _ _ _ _).keepsCurrent (by decide)
  · rename_i h e _
    split
    · exact (s.finish_within _ _ _ _).keepsCurrent (by decide)
    split
    · exact (s.finish_within _ _ _ _).keepsCurrent (by decide)
    have hm := (s.editCheck_marked h.slot e (editTolerance task e)).sameEntries.keepsCurrent
    split <;> rename_i hs <;> rw [hs] at hm
    · exact hm.trans ((State.finish_within _ _ _ _ _).keepsCurrent (by decide))
    · exact hm.trans (State.writeEdit_keepsCurrent _ _ _ _)
    · exact hm.trans (State.writeEdit_keepsCurrent _ _ _ _)

/-- Only a reset, INITIALIZE and RETIRE take a handle out of use. -/
theorem exec_keepsCurrent {c : Instr} {s t : State} (hreset : c ≠ .hardwareReset) (hinit : c ≠ .initializeTableStep)
    (hretire : c ≠ .retire) (h : exec c s = .next t) : s.KeepsCurrent t := by
  by_cases hc : changesEntries c = true
  · have hstep : ∀ step body, tableStepOf c = some (step, body) →
        (∀ task held u, State.KeepsCurrent u (body task held u)) → s.KeepsCurrent t := by
      intro step body hbody hkeep
      rcases exec_tableStep_cases hbody h with rfl | ⟨task, held, rfl, -⟩
      · exact fun _ h => h
      · exact fun x hx => hkeep task held (s.served .host) x hx
    cases c
    case installParameterStep => exact hstep _ _ rfl installParameterBody_keepsCurrent
    case installFinalStep => exact hstep _ _ rfl installFinalBody_keepsCurrent
    case entryEditStep => exact hstep _ _ rfl entryEditBody_keepsCurrent
    case parameterPhaseCleanUp =>
      cases h
      exact s.cleanUp_keepsCurrent
    case hardwareReset => exact absurd rfl hreset
    case initializeTableStep => exact absurd rfl hinit
    case retire => exact absurd rfl hretire
    all_goals exact nomatch hc
  · exact (exec_sameEntries (Bool.eq_false_iff.2 hc) h).keepsCurrent

/-! ## The engine after a table step -/

/-- The command has ended, or its first result word is on offer. -/
def Engine.Settled (e : Engine) : Prop := e = .idle ∨ ∃ task outcome w ws since, e = .result task outcome w ws since

theorem Engine.Settled.not_execute {e : Engine} (h : e.Settled) (task : Task) (held : Bool) : e ≠ .execute task held := by
  rcases h with rfl | ⟨task', outcome, w, ws, since, rfl⟩ <;> exact nofun

theorem Engine.Settled.not_parameter {e : Engine} (h : e.Settled) (task : Task) (wait : Await) :
    e ≠ .parameter task wait := by
  rcases h with rfl | ⟨task', outcome, w, ws, since, rfl⟩ <;> exact nofun

/-- The engine is as it was, or its command has ended. -/
def State.EngineRests (s t : State) : Prop := t.port.engine = s.port.engine ∨ t.port.engine.Settled

theorem State.finish_settled (s : State) (task : Task) (held : Bool) (outcome : HostOutcome) (results : List Word) :
    (s.finish task held outcome results).port.engine.Settled := by
  obtain ⟨p, hp, -, hengine⟩ := s.finish_frame task held outcome results
  rw [hp]
  exact hengine.imp id fun ⟨w, ws, he⟩ => ⟨task, outcome, w, ws, s.timebase, he⟩

theorem State.finish_engineRests (s u : State) (task : Task) (held : Bool) (outcome : HostOutcome)
    (results : List Word) : s.EngineRests (u.finish task held outcome results) :=
  .inr (u.finish_settled task held outcome results)

theorem hostOffer_engineRests (form : ItemForm) (tag : BitVec 8) (task : Task) (held : Bool) (s : State) :
    s.EngineRests (hostOffer form tag task held s) := by
  unfold hostOffer
  split <;> exact State.finish_engineRests ..

theorem relaySetWork_settled (task : Task) (held : Bool) (s : State) :
    (relaySetWork task held s).port.engine.Settled := by
  unfold relaySetWork
  split
  · split <;> exact State.finish_settled ..
  · exact State.finish_settled ..

theorem handleCheckBody_engineRests (later : Bool) (task : Task) (held : Bool) (s : State) :
    s.EngineRests (handleCheckBody later task held s) := by
  unfold handleCheckBody
  split
  · exact State.finish_engineRests ..
  · split
    · exact .inl rfl
    · unfold handleRequest
      split
      · unfold afterRetires
        split
        · exact .inr (relaySetWork_settled task held s)
        · exact .inl rfl
      · exact hostOffer_engineRests ..
      · exact hostOffer_engineRests ..
      · exact .inl rfl

/-- The end of a parameter step: the next word, the clean-up, or the end of the command. -/
def Engine.AfterParameterStep (task : Task) (e : Engine) : Prop :=
  e = .idle ∨ e = .cleanup task .aborted ∨ ∃ since, e = .parameter task (.word since)

theorem Engine.AfterParameterStep.not_execute {task : Task} {e : Engine} (h : e.AfterParameterStep task) (task' : Task)
    (held : Bool) : e ≠ .execute task' held := by
  rcases h with rfl | rfl | ⟨since, rfl⟩ <;> exact nofun

theorem State.stepPassed_engine (s : State) (task : Task) (held : Bool) :
    (s.stepPassed task held).port.engine.AfterParameterStep task := by
  obtain ⟨e, h, hs, hcases⟩ := s.stepPassed_frame task held
  rw [hs]
  rcases hcases with ⟨rfl, -⟩ | ⟨rfl, -⟩
  · exact .inr (.inl rfl)
  · exact .inr (.inr ⟨_, rfl⟩)

theorem installParameterBody_engine (task : Task) (held : Bool) (s : State) :
    (installParameterBody task held s).port.engine.AfterParameterStep task := by
  unfold installParameterBody
  simp only
  iterate 5
    split
    · exact .inl rfl
  exact State.stepPassed_engine ..

theorem groupParameterBody_engine (task : Task) (held : Bool) (s : State) :
    (groupParameterBody task held s).port.engine.AfterParameterStep task := by
  unfold groupParameterBody
  simp only
  iterate 3
    split
    · exact .inl rfl
  exact State.stepPassed_engine ..

theorem installFinalBody_engineRests (task : Task) (held : Bool) (s : State) :
    s.EngineRests (installFinalBody task held s) := by
  unfold installFinalBody
  split
  · exact .inl rfl
  · split <;> exact State.finish_engineRests ..

theorem groupDefineFinalBody_settled (task : Task) (held : Bool) (s : State) :
    (groupDefineFinalBody task held s).port.engine.Settled := by
  unfold groupDefineFinalBody
  simp only
  split
  · split <;> exact State.finish_settled ..
  · split <;> exact State.finish_settled ..

theorem groupEditFinalBody_engineRests (task : Task) (held : Bool) (s : State) :
    s.EngineRests (groupEditFinalBody task held s) := by
  unfold groupEditFinalBody
  simp only
  split
  · exact State.finish_engineRests ..
  · split
    · exact State.finish_engineRests ..
    · exact State.finish_engineRests ..
    · split <;> exact State.finish_engineRests ..

theorem groupRemoveBody_engineRests (task : Task) (held : Bool) (s : State) :
    s.EngineRests (groupRemoveBody task held s) := by
  unfold groupRemoveBody
  simp only
  split
  · exact State.finish_engineRests ..
  · split <;> exact State.finish_engineRests ..

theorem State.writeEdit_engineRests (s u : State) (task : Task) (held : Bool) (slot : SlotNo) :
    s.EngineRests (u.writeEdit task held slot) := by
  unfold State.writeEdit
  split
  · exact State.finish_engineRests ..
  · split <;> exact State.finish_engineRests ..

theorem entryEditBody_engineRests (task : Task) (held : Bool) (s : State) :
    s.EngineRests (entryEditBody task held s) := by
  unfold entryEditBody
  split
  · exact State.finish_engineRests ..
  · split
    · exact State.finish_engineRests ..
    split
    · exact State.finish_engineRests ..
    split
    · exact State.finish_engineRests ..
    · exact State.writeEdit_engineRests ..
    · exact State.writeEdit_engineRests ..

theorem suspendBody_engineRests (task : Task) (held : Bool) (s : State) :
    s.EngineRests (suspendBody task held s) := by
  unfold suspendBody
  split
  · exact State.finish_engineRests ..
  · split <;> exact State.finish_engineRests ..

theorem resumeBody_engineRests (task : Task) (held : Bool) (s : State) :
    s.EngineRests (resumeBody task held s) := by
  unfold resumeBody
  split
  · exact State.finish_engineRests ..
  · split <;> exact State.finish_engineRests ..

theorem retireBody_engineRests (task : Task) (held : Bool) (s : State) :
    s.EngineRests (retireBody task held s) := by
  unfold retireBody
  split <;> exact State.finish_engineRests ..

theorem entryReadBody_engineRests (task : Task) (held : Bool) (s : State) :
    s.EngineRests (entryReadBody task held s) := by
  unfold entryReadBody
  split <;> exact State.finish_engineRests ..

theorem groupReadBody_engineRests (task : Task) (held : Bool) (s : State) :
    s.EngineRests (groupReadBody task held s) := by
  unfold groupReadBody
  simp only
  split <;> exact State.finish_engineRests ..

theorem entryFindBody_engineRests (task : Task) (held : Bool) (s : State) :
    s.EngineRests (entryFindBody task held s) := by
  unfold entryFindBody
  simp only
  split
  · exact State.finish_engineRests ..
  · split <;> exact State.finish_engineRests ..

theorem entryListBody_engineRests (task : Task) (held : Bool) (s : State) :
    s.EngineRests (entryListBody task held s) := by
  unfold entryListBody
  simp only
  split <;> exact State.finish_engineRests ..

theorem tableStepOf_engineRests {c : Instr} {h : HostStep} {body : Task → Bool → State → State}
    (hc : tableStepOf c = some (h, body)) (task : Task) (held : Bool) (s : State) :
    s.EngineRests (body task held s) ∨
      (h = .installParameter ∨ h = .groupParameter) ∧ (body task held s).port.engine.AfterParameterStep task := by
  cases c <;> cases hc
  case installParameterStep => exact .inr ⟨.inl rfl, installParameterBody_engine task held s⟩
  case groupParameterStep => exact .inr ⟨.inr rfl, groupParameterBody_engine task held s⟩
  case installFinalStep => exact .inl (installFinalBody_engineRests task held s)
  case groupDefineFinalStep => exact .inl (.inr (groupDefineFinalBody_settled task held s))
  case groupEditFinalStep => exact .inl (groupEditFinalBody_engineRests task held s)
  case groupRemoveStep => exact .inl (groupRemoveBody_engineRests task held s)
  case entryEditStep => exact .inl (entryEditBody_engineRests task held s)
  case suspend => exact .inl (suspendBody_engineRests task held s)
  case resume => exact .inl (resumeBody_engineRests task held s)
  case retire => exact .inl (retireBody_engineRests task held s)
  case entryReadStep => exact .inl (entryReadBody_engineRests task held s)
  case groupReadStep => exact .inl (groupReadBody_engineRests task held s)
  case entryFindStep => exact .inl (entryFindBody_engineRests task held s)
  case entryListStep => exact .inl (entryListBody_engineRests task held s)
  case tableStatusStep => exact .inl (State.finish_engineRests ..)
  case handleCheck later => exact .inl (handleCheckBody_engineRests later task held s)
  case initializeTableStep => exact .inl (.inl rfl)

/-! ## The sources current (law 6, second part) -/

theorem State.SourceLaw.of_same {s t : State} (h : s.SourceLaw) (hsame : s.SameSources t) (hcurrent : s.KeepsCurrent t)
    (hretires : ∀ x ∈ s.mail.retires, x ∈ t.mail.retires) : t.SourceLaw := by
  intro n r hr
  obtain ⟨q, hq, hsource⟩ := hsame n r hr
  rw [← hsource]
  exact (h n q hq).imp (hcurrent _) (hretires _)

theorem State.SourceLaw.of_eq {s t : State} (h : s.SourceLaw) (hentries : t.entries = s.entries)
    (hrelays : t.relays = s.relays) (hretires : t.mail.retires = s.mail.retires) : t.SourceLaw :=
  h.of_same (.of_relays hrelays) (State.SameEntries.of_entries hentries).keepsCurrent fun _ hx => hretires ▸ hx

theorem State.SourceLaw.of_empty {t : State} (h : ∀ n : RelayNo, t.relays[n] = none) : t.SourceLaw :=
  fun n _ hr => nomatch (h n).symm.trans hr

theorem State.SourceLaw.relayWrite {s : State} (h : s.SourceLaw) {r : RelayRecord}
    (hcurrent : (s.currentEntry r.source).isSome = true) : (s.relayWrite r).1.SourceLaw := by
  rcases s.relayWrite_cases r with he | ⟨n, he, -⟩ <;> rw [he]
  · exact h
  · intro m q hq
    rw [State.relays_setRelay] at hq
    split at hq
    · exact .inl (Option.some.inj hq ▸ hcurrent)
    · exact h m q hq

theorem State.currentEntry_of_currentWord {s : State} {w : Word} {h : Handle}
    (hcurrent : (s.currentWord w).isSome = true) (hh : Handle.ofWord w = some h) :
    (s.currentEntry h).isSome = true := by
  unfold State.currentWord at hcurrent
  rw [hh] at hcurrent
  simpa using hcurrent

theorem State.KeepsCurrent.currentWord {s t : State} (h : s.KeepsCurrent t) {w : Word}
    (hw : (s.currentWord w).isSome = true) : (t.currentWord w).isSome = true := by
  unfold State.currentWord at hw ⊢
  split at hw
  · cases hw
  · simp only [Option.isSome_map] at hw ⊢
    exact h _ hw

theorem relaySetWork_sourceLaw (task : Task) (held : Bool) {s : State} (h : s.SourceLaw)
    (hcurrent : (s.currentWord (task.word 0)).isSome = true) : (relaySetWork task held s).SourceLaw := by
  have hw := relaySetWork_within task held s
  rcases relaySetWork_relays task held s with he | ⟨r, hsource, he⟩
  · exact h.of_eq (hw .entries (by decide)) he (hw .retires (by decide))
  · have hwritten := h.relayWrite (State.currentEntry_of_currentWord hcurrent hsource)
    obtain ⟨relays, hrelays⟩ := s.relayWrite_frame r
    rw [hrelays] at hwritten he
    exact hwritten.of_eq (hw .entries (by decide)) he (hw .retires (by decide))

theorem afterRetires_sourceLaw {work : Task → Bool → State → State} (task : Task) (held : Bool) {s : State}
    (h : s.SourceLaw) (hwork : (work task held s).SourceLaw) : (afterRetires work task held s).SourceLaw := by
  unfold afterRetires
  split
  · exact hwork
  · exact h

theorem State.handleFailure_relaySet {s : State} {task : Task} (hcommand : task.command = .relaySet)
    (h : s.handleFailure task = none) :
    (s.currentWord (task.word 0)).isSome = true ∧ (s.currentWord (task.word 1)).isSome = true := by
  unfold State.handleFailure at h
  rw [hcommand] at h
  simp only at h
  split at h
  · rename_i hboth
    exact (Bool.and_eq_true _ _).mp hboth
  · cases h

theorem handleCheckBody_sourceLaw (later : Bool) (task : Task) (held : Bool) {s : State} (h : s.SourceLaw) :
    (handleCheckBody later task held s).SourceLaw := by
  have hw := handleCheckBody_within later task held s
  have hsame : (handleCheckBody later task held s).relays = s.relays → (handleCheckBody later task held s).SourceLaw :=
    fun hrelays => h.of_eq (hw .entries (by decide)) hrelays (hw .retires (by decide))
  revert hsame
  clear hw
  unfold handleCheckBody
  split
  · exact fun hsame => hsame ((s.finish_within _ _ _ _) .relays (by decide))
  · rename_i hpassed
    split
    · exact fun hsame => hsame rfl
    · unfold handleRequest
      split
      · rename_i hcommand
        exact fun _ => afterRetires_sourceLaw task held h
          (relaySetWork_sourceLaw task held h (State.handleFailure_relaySet hcommand hpassed).1)
      · exact fun hsame => hsame ((hostOffer_within _ _ task held s) .relays (by decide))
      · exact fun hsame => hsame ((hostOffer_within _ _ task held s) .relays (by decide))
      · exact fun hsame => hsame rfl

theorem State.changeCount_frame (s : State) (g : GroupNo) (f : Nat → Nat) :
    s.changeCount g f = { s with groups := (s.changeCount g f).groups } := by
  unfold State.changeCount
  split <;> rfl

/-- A group's entry count changes as the group records alone say. -/
theorem State.changeCount_groups {s t : State} (h : t.groups = s.groups) (g : GroupNo) (f : Nat → Nat) :
    (t.changeCount g f).groups = (s.changeCount g f).groups := by
  unfold State.changeCount State.setGroup
  rw [h]
  split
  · rfl
  · exact h

/-- A retired entry: its slot, its patterns in the bins, its group's count, and the messages (R34). -/
theorem State.retireEntry_parts (s : State) (h : Handle) (e : Installed) :
    s.retireEntry h e = { s with
      entries := s.entries.set h.slot { s.entries[h.slot] with occupant := .free }
      bins := if e.status = .active then (s.leaveFrames h.slot e).bins else s.bins
      groups := (s.changeCount e.group (· - 1)).groups
      mail := { s.mail with
        path := s.mail.path ++ [.entryRetired h], retires := s.mail.retires ++ [h]
        releases := s.mail.releases ++ e.main :: e.alternate.toList } } := by
  have hrest : ∀ bins,
      (((((State.releaseFrames { s with bins := bins } e).freeSlot h.slot).changeCount e.group (· - 1)).sendNotice
        (.entryRetired h)).sendRetire h) = { s with
          entries := s.entries.set h.slot { s.entries[h.slot] with occupant := .free }
          bins := bins
          groups := (s.changeCount e.group (· - 1)).groups
          mail := { s.mail with
            path := s.mail.path ++ [.entryRetired h], retires := s.mail.retires ++ [h]
            releases := s.mail.releases ++ e.main :: e.alternate.toList } } := by
    intro bins
    rw [State.releaseFrames_eq, State.changeCount_frame, State.changeCount_groups (s := s) (t := State.freeSlot { s with
      bins := bins, mail := { s.mail with releases := s.mail.releases ++ e.main :: e.alternate.toList } } h.slot) rfl]
    rfl
  cases hstatus : e.status with
  | active =>
    obtain ⟨bins, hbins⟩ := s.leaveFrames_frame h.slot e
    simp only [State.retireEntry, hstatus, hbins]
    exact hrest bins
  | suspended | damaged =>
    simp only [State.retireEntry, hstatus]
    exact hrest s.bins

theorem State.retireEntry_current {s : State} {h : Handle} {e : Installed} {x : Handle}
    (hcurrent : (s.currentEntry h).isSome = true) (hx : (s.currentEntry x).isSome = true) :
    x = h ∨ ((s.retireEntry h e).currentEntry x).isSome = true := by
  by_cases hslot : h.slot = x.slot
  · obtain ⟨hgen, -⟩ := State.currentEntry_isSome_iff.1 hcurrent
    obtain ⟨xgen, -⟩ := State.currentEntry_isSome_iff.1 hx
    left
    cases h; cases x
    simp only at hslot hgen xgen
    subst hslot
    rw [← hgen, ← xgen]
  · right
    rw [State.retireEntry_parts]
    rw [State.currentEntry_isSome_iff] at hx ⊢
    simp only
    rw [getElem_set_fin, if_neg hslot]
    exact hx

theorem State.SourceLaw.retireEntry {s : State} (h : s.SourceLaw) {hd : Handle} (e : Installed)
    (hcurrent : (s.currentEntry hd).isSome = true) : (s.retireEntry hd e).SourceLaw := by
  have hrelays := (s.retireEntry_within hd e) .relays (by decide)
  have hretires : (s.retireEntry hd e).mail.retires = s.mail.retires ++ [hd] := by
    rw [State.retireEntry_parts]
  intro n r hr
  rw [hretires]
  rcases h n r (hrelays ▸ hr) with hsource | hsource
  · rcases State.retireEntry_current (e := e) hcurrent hsource with heq | hkept
    · exact .inr (List.mem_append_right _ (heq ▸ List.mem_singleton_self _))
    · exact .inl hkept
  · exact .inr (List.mem_append_left _ hsource)

theorem State.currentWord_eq_some {s : State} {w : Word} {h : Handle} {e : Installed} :
    s.currentWord w = some (h, e) ↔ Handle.ofWord w = some h ∧ s.currentEntry h = some e := by
  unfold State.currentWord
  split
  · rename_i hw
    simp [hw]
  · rename_i x hw
    rw [hw]
    simp only [Option.map_eq_some_iff, Prod.mk.injEq, Option.some.injEq]
    constructor
    · rintro ⟨e', he', rfl, rfl⟩
      exact ⟨rfl, he'⟩
    · rintro ⟨rfl, he⟩
      exact ⟨e, he, rfl, rfl⟩

theorem retireBody_sourceLaw (task : Task) (held : Bool) {s : State} (h : s.SourceLaw) :
    (retireBody task held s).SourceLaw := by
  have hfinish : ∀ (u : State) outcome, u.SourceLaw → (u.finish task held outcome []).SourceLaw := fun u outcome hu =>
    have hw := u.finish_within task held outcome []
    hu.of_eq (hw .entries (by decide)) (hw .relays (by decide)) (hw .retires (by decide))
  unfold retireBody
  split
  · exact hfinish _ _ h
  · rename_i hd e hcurrent
    exact hfinish _ _ (h.retireEntry e (by rw [(State.currentWord_eq_some.1 hcurrent).2]; rfl))

theorem exec_sourceLaw {c : Instr} {s t : State} (h : exec c s = .next t) (hs : s.SourceLaw) (hset : s.RelaySetLaw) :
    t.SourceLaw := by
  have hw := exec_within c s t h
  have hcommand : ∀ x part work, requestOf c = some (x, part, work) →
      (∀ task held, task.command = x → s.port.engine = .execute task held → s.claims.host = none →
        (work task held s).SourceLaw) → t.SourceLaw := by
    intro x part work hrequest hwork
    rw [exec_of_request hrequest] at h
    obtain rfl := Host.Outcome.next.inj h
    cases part with
    | commandWrite arg =>
      have hw := s.commandWrite_within x.code arg
      exact hs.of_eq (hw .entries (by decide)) (hw .relays (by decide)) (hw .retires (by decide))
    | request =>
      show (s.blockRequest x work).SourceLaw
      rcases s.blockRequest_cases x work with he | ⟨task, held, he, hengine, hx, hclaim⟩ <;> rw [he]
      · exact hs
      · exact hwork task held hx hengine hclaim
  by_cases hreset : c = .hardwareReset
  · subst hreset
    cases h
    exact .of_empty fun n => by simp [State.hardwareReset, State.reset]
  by_cases hinit : c = .initializeTableStep
  · subst hinit
    rcases exec_tableStep_cases rfl h with rfl | ⟨task, held, rfl, -⟩
    · exact hs
    · exact .of_empty fun n => by simp [State.initializeTable]
  by_cases hretire : c = .retire
  · subst hretire
    rcases exec_tableStep_cases rfl h with rfl | ⟨task, held, rfl, -⟩
    · exact hs
    · exact retireBody_sourceLaw task held (s := s.served .host) hs
  have hcurrent := exec_keepsCurrent hreset hinit hretire h
  cases c
  case relaySet part =>
    exact hcommand _ _ _ rfl fun task held hx hengine hclaim =>
      afterRetires_sourceLaw task held hs (relaySetWork_sourceLaw task held hs (hset task held hengine hx hclaim).1)
  case relayClear part =>
    refine hcommand _ _ _ rfl fun task held _ _ _ => afterRetires_sourceLaw task held hs ?_
    have hwork := relayClearWork_within task held s
    exact hs.of_same (relayClearWork_sameSources task held s) (hwork.keepsCurrent (by decide)) fun x hx => by
      rw [hwork .retires (by decide)]
      exact hx
  case relayRead part =>
    refine hcommand _ _ _ rfl fun task held _ _ _ => afterRetires_sourceLaw task held hs ?_
    have hwork := s.finish_within task held .ok (relayWords s.relays[Fin.ofNat 64 (task.word 0).toNat])
    exact hs.of_eq (hwork .entries (by decide)) (hwork .relays (by decide)) (hwork .retires (by decide))
  case handleCheck later =>
    rcases exec_tableStep_cases rfl h with rfl | ⟨task, held, rfl, -⟩
    · exact hs
    · exact handleCheckBody_sourceLaw later task held (s := s.served .host) hs
  case pressStart =>
    refine hs.of_same (exec_pressStart_sameSources h) hcurrent fun x hx => ?_
    rw [hw .retires (by simp only [touches]; decide)]
    exact hx
  case relayRetireNotice =>
    cases h
    split
    · exact hs
    · rename_i hd rest hretires
      intro n r hr
      obtain ⟨q, hq, hsource, hne⟩ := State.takeRetire_relay hr
      rcases hs n q hq with hx | hx
      · exact .inl (hsource ▸ hx)
      · rw [hretires, hsource] at hx
        exact .inr (List.mem_of_ne_of_mem hne hx)
  case hardwareReset => exact absurd rfl hreset
  case initializeTableStep => exact absurd rfl hinit
  case retire => exact absurd rfl hretire
  all_goals
    have hrelays := hw .relays (by simp only [touches]; decide)
    have hretires := hw .retires (by simp only [touches]; decide)
    exact hs.of_same (.of_relays hrelays) hcurrent fun x hx => hretires ▸ hx

/-! ## A RELAY SET on its way -/

theorem EngineMove.of_execute {ready : Bool} {reservation : List CellNo} {e e' : Engine} {claim claim' : Option HostStep}
    (hmove : EngineMove ready reservation e claim e' claim') {task : Task} {held : Bool}
    (he : e' = .execute task held) (hclaim : claim' = none) (hcommand : task.command = .relaySet) :
    claim = none ∧ ∃ held', e = .execute task held' := by
  cases hmove with
  | stay => exact ⟨hclaim, held, he⟩
  | hold claim held' task' =>
    cases he
    exact ⟨hclaim, held', rfl⟩
  | start _ _ task' =>
    obtain ⟨rfl, -⟩ := Engine.execute.inj he
    rw [hcommand] at hclaim
    cases hclaim
  | enter _ w _ task' =>
    obtain ⟨rfl, -⟩ := Engine.execute.inj he
    rw [show task'.command = .relaySet from hcommand] at hclaim
    cases hclaim
  | answer held' task' e' _ hends =>
    rcases hends with rfl | ⟨outcome, w, ws, since, rfl⟩ <;> cases he
  | refuse | ask | take | raise | drop | clean | holdStep | offer | finish => cases he

theorem handleCheckBody_passed {later : Bool} {task task' : Task} {held held' : Bool} {s : State}
    (h : (handleCheckBody later task held s).port.engine = .execute task' held') : s.handleFailure task = none := by
  unfold handleCheckBody at h
  split at h
  · exact absurd h ((State.finish_settled ..).not_execute _ _)
  · assumption

theorem handleCheck_of_relaySet {c : Instr} {h : HostStep} {body : Task → Bool → State → State}
    (hc : tableStepOf c = some (h, body)) (hstep : executeStep .relaySet = some h) : ∃ later, c = .handleCheck later := by
  cases c <;> cases hc <;> first | exact ⟨_, rfl⟩ | cases hstep

theorem exec_tableStep_relaySetLaw {c : Instr} {h : HostStep} {body : Task → Bool → State → State}
    (hc : tableStepOf c = some (h, body)) {s t : State} (ht : exec c s = .next t) (hclaimLaw : s.HostClaimLaw)
    (hs : s.RelaySetLaw) : t.RelaySetLaw := by
  rcases exec_tableStep_cases hc ht with rfl | ⟨task, held, rfl, hclaim, hengine⟩
  · exact hs
  intro task' held' hexecute hcommand _
  rcases tableStepOf_engineRests hc task held (s.served .host) with (hsame | hnot) | ⟨-, hnot⟩
  · have hbefore : s.port.engine = .execute task' held' := hsame.symm.trans hexecute
    obtain ⟨rfl, rfl⟩ : task' = task ∧ held' = held := by
      rcases hengine with he | he
      · exact Engine.execute.inj (hbefore.symm.trans he)
      · exact nomatch hbefore.symm.trans he
    have hstep : executeStep .relaySet = some h := by
      rcases hclaimLaw h hclaim with ⟨_, _, he, hstep⟩ | ⟨_, _, he, -⟩ | ⟨_, _, he, -⟩
      · obtain ⟨rfl, -⟩ := Engine.execute.inj (hbefore.symm.trans he)
        rwa [hcommand] at hstep
      · exact nomatch hbefore.symm.trans he
      · exact nomatch hbefore.symm.trans he
    obtain ⟨later, rfl⟩ := handleCheck_of_relaySet hc hstep
    cases hc
    have hkeeps : (s.served .host).KeepsCurrent (handleCheckBody later task' held' (s.served .host)) :=
      (handleCheckBody_within later task' held' (s.served .host)).keepsCurrent (by decide)
    exact (State.handleFailure_relaySet hcommand (handleCheckBody_passed hexecute)).imp hkeeps.currentWord
      hkeeps.currentWord
  · exact absurd hexecute (hnot.not_execute task' held')
  · exact absurd hexecute (hnot.not_execute task' held')

theorem State.RelaySetLaw.of_notExecute {t : State} (h : ∀ task held, t.port.engine ≠ .execute task held) :
    t.RelaySetLaw := fun task held he _ _ => absurd he (h task held)

theorem State.cleanUp_relaySetLaw {s : State} (hs : s.RelaySetLaw) : s.cleanUp.RelaySetLaw := by
  unfold State.cleanUp
  split
  · split
    · exact .of_notExecute nofun
    all_goals exact hs
  · exact hs

theorem State.endMemoryTest_notExecute (s : State) (failing : List CellNo) (task : Task) (held : Bool) :
    (s.endMemoryTest failing).port.engine ≠ .execute task held := by
  unfold State.endMemoryTest State.afterTest
  simp only
  generalize List.foldl _ _ _ = u
  unfold State.testEnded
  split
  · exact nofun
  · exact nofun
  all_goals
    rename_i hu
    rw [hu]
    exact nofun

theorem exec_relaySetLaw {c : Instr} {s t : State} (h : exec c s = .next t) (hclaimLaw : s.HostClaimLaw)
    (hs : s.RelaySetLaw) : t.RelaySetLaw := by
  cases hstep : tableStepOf c with
  | some x => exact exec_tableStep_relaySetLaw hstep h hclaimLaw hs
  | none =>
    by_cases hapart : movesApart c = true
    · cases c
      case hardwareReset =>
        cases h
        exact .of_notExecute nofun
      case memoryTestEnd failing time =>
        cases h
        split
        · exact .of_notExecute (State.endMemoryTest_notExecute _ failing)
        · exact hs
      case parameterPhaseCleanUp =>
        cases h
        exact State.cleanUp_relaySetLaw hs
      all_goals cases hapart
    · intro task held hexecute hcommand hclaim
      obtain ⟨hnone, held', he⟩ := (exec_portMove hstep (Bool.eq_false_iff.2 hapart) h).of_execute hexecute hclaim
        hcommand
      have hkeeps : s.KeepsCurrent t := by
        refine exec_keepsCurrent ?_ ?_ ?_ h
        · rintro rfl; exact hapart rfl
        · rintro rfl; exact nomatch hstep
        · rintro rfl; exact nomatch hstep
      exact (hs task held' he hcommand hnone).imp hkeeps.currentWord hkeeps.currentWord

/-- Settles O8: what each command writes into the map, and which handles it takes out of use. -/
theorem stepKeepsRelayLaw : Obligations.StepKeepsRelayLaw := by
  intro s t hstep
  refine ⟨fun hrelay => step_keeps (P := State.RelayLaw) (fun _ _ hs => hs) (fun _ _ hs => hs) exec_relayLaw hstep hrelay,
    fun hclaim hsource hset => ?_⟩
  rcases step_cases hstep with rfl | ⟨c, rest, hc⟩
  · exact ⟨hsource, hset⟩
  · have hsource' : (s.withPending rest).SourceLaw := hsource
    exact ⟨exec_sourceLaw hc hsource' hset, exec_relaySetLaw hc hclaim hset⟩

end Sys2Proof.Machine
end

section
/-! SUPPORT. The code table under each command: laws 3, 8 and 9, the keys of a group apart, the bins exact, the entry
counts right, and what the command in progress has made sure of (R18, R20, R21, R26). -/

namespace Sys2Proof.Machine

/-! ## The keys of a group (law 3) -/

/-- Every key value that a slot holds, it held before. -/
def State.FewerKeys (s t : State) : Prop :=
  ∀ (slot : SlotNo) (g : GroupNo) (key : Word),
    t.entries[slot].occupant.holdsKey g key = true → s.entries[slot].occupant.holdsKey g key = true

theorem State.FewerKeys.trans {s t u : State} (h : s.FewerKeys t) (k : t.FewerKeys u) : s.FewerKeys u :=
  fun slot g key hx => h slot g key (k slot g key hx)

theorem State.SameEntries.holdsKey {s t : State} (h : s.SameEntries t) (slot : SlotNo) (g : GroupNo) (key : Word) :
    t.entries[slot].occupant.holdsKey g key = s.entries[slot].occupant.holdsKey g key := by
  rcases (h slot).2 with hocc | ⟨e, status, m, a, he, hocc⟩ <;> rw [hocc]
  rw [he]
  rfl

theorem State.SameEntries.fewerKeys {s t : State} (h : s.SameEntries t) : s.FewerKeys t :=
  fun slot g key hx => (h.holdsKey slot g key).symm.trans hx

theorem State.Within.fewerKeys {l : List Part} {s t : State} (h : State.Within l s t) (hl : Part.entries ∉ l) :
    s.FewerKeys t := (h.sameEntries hl).fewerKeys

theorem State.setEntry_fewerKeys (s : State) (slot : SlotNo) {x : Entry}
    (hx : ∀ g key, x.occupant.holdsKey g key = true → s.entries[slot].occupant.holdsKey g key = true) :
    s.FewerKeys (s.setEntry slot x) := by
  intro other g key h
  rw [State.entries_setEntry] at h
  split at h
  · rename_i heq
    exact heq ▸ hx g key h
  · exact h

theorem State.freeSlot_fewerKeys (s : State) (slot : SlotNo) : s.FewerKeys (s.freeSlot slot) :=
  s.setEntry_fewerKeys slot nofun

theorem State.freeLoading_fewerKeys (s : State) : s.FewerKeys s.freeLoading := by
  unfold State.freeLoading
  split
  · exact s.freeSlot_fewerKeys _
  · exact fun _ _ _ h => h

theorem State.cleanUp_fewerKeys (s : State) : s.FewerKeys s.cleanUp := by
  unfold State.cleanUp
  split
  · split
    · exact ((s.served .host).freeLoading_fewerKeys.trans
        ((State.returnReservation_within _).fewerKeys (by decide))).trans
          ((State.endTask_within _ _ _ _).fewerKeys (by decide))
    all_goals exact fun _ _ _ h => h
  · exact fun _ _ _ h => h

/-- The entry of a successful install holds the key value that its slot held while LOADING. -/
theorem State.completeInstall_fewerKeys {s : State} {slot : SlotNo} {l : Loading}
    (hl : s.entries[slot].occupant = .loading l) : s.FewerKeys (s.completeInstall slot l).1 := by
  have hset : s.FewerKeys (s.setEntry slot {
      generation := nextGeneration s.entries[slot].generation, occupant := .installed (l.install s.pool.reservation) }) :=
    s.setEntry_fewerKeys slot fun g key h => by rw [hl]; exact h
  have hpool : ∀ (u : State) (p : Pool), u.FewerKeys (u.setPool p) := fun _ _ _ _ _ h => h
  exact ((hset.trans (hpool _ _)).trans ((State.joinFrames_within _ _ _).fewerKeys (by decide))).trans
    ((State.changeCount_within _ _ _).fewerKeys (by decide))

theorem installFinalBody_fewerKeys (task : Task) (held : Bool) (s : State) :
    s.FewerKeys (installFinalBody task held s) := by
  unfold installFinalBody
  split
  · exact fun _ _ _ h => h
  · rename_i slot l hloading
    have hm := conflictCheck_marked (s.installUnderTest l) (s.conflictSet (fun _ => false)) s
    have hreturned : ∀ u : State, s.Marked u → ∀ outcome words,
        s.FewerKeys ((u.freeSlot slot).returnReservation.finish task held outcome words) := fun u hu _ _ =>
      ((hu.sameEntries.fewerKeys.trans (State.freeSlot_fewerKeys _ _)).trans
        ((State.returnReservation_within _).fewerKeys (by decide))).trans
          ((State.finish_within _ _ _ _ _).fewerKeys (by decide))
    split <;> rename_i hs <;> rw [hs] at hm
    · exact hreturned _ hm _ _
    · exact hreturned _ hm _ _
    · exact (hm.sameEntries.fewerKeys.trans (State.completeInstall_fewerKeys
        ((hm.loading slot l).2 (State.loading?_eq_some hloading)))).trans
          ((State.finish_within _ _ _ _ _).fewerKeys (by decide))

theorem State.retireEntry_fewerKeys (s : State) (h : Handle) (e : Installed) : s.FewerKeys (s.retireEntry h e) := by
  rw [State.retireEntry_parts]
  exact s.freeSlot_fewerKeys h.slot

theorem retireBody_fewerKeys (task : Task) (held : Bool) (s : State) : s.FewerKeys (retireBody task held s) := by
  unfold retireBody
  split
  · exact (s.finish_within _ _ _ _).fewerKeys (by decide)
  · exact (s.retireEntry_fewerKeys _ _).trans ((State.finish_within _ _ _ _ _).fewerKeys (by decide))

theorem State.KeyLaw.of_fewer {s t : State} (h : s.KeyLaw) (hfewer : s.FewerKeys t) : t.KeyLaw :=
  fun a b g key ha hb => h a b g key (hfewer a g key ha) (hfewer b g key hb)

/-- A slot that takes a key value no other slot holds. -/
theorem State.KeyLaw.setEntry {s : State} (h : s.KeyLaw) (slot : SlotNo) {x : Entry}
    (hx : ∀ g key, x.occupant.holdsKey g key = true → ∀ other : SlotNo, other ≠ slot →
      s.entries[other].occupant.holdsKey g key = false) : (s.setEntry slot x).KeyLaw := by
  intro a b g key ha hb
  rw [State.entries_setEntry] at ha hb
  split at ha <;> split at hb
  · rename_i h1 h2
    exact h1.symm.trans h2
  · rename_i h1 h2
    exact nomatch (hx g key ha b (Ne.symm h2)).symm.trans hb
  · rename_i h1 h2
    exact nomatch (hx g key hb a (Ne.symm h1)).symm.trans ha
  · exact h a b g key ha hb

theorem State.keyHeld_eq_false {s : State} {g : GroupNo} {key : Word} {except : Option SlotNo} :
    s.keyHeld g key except = false ↔
      ∀ slot : SlotNo, some slot ≠ except → s.entries[slot].occupant.holdsKey g key = false := by
  simp [State.keyHeld]

theorem installParameterBody_keyLaw (task : Task) (held : Bool) {s : State} (h : s.KeyLaw) :
    (installParameterBody task held s).KeyLaw := by
  unfold installParameterBody
  simp only
  have hfailed : ∀ outcome, (s.stepFailed task outcome).KeyLaw := fun outcome =>
    h.of_fewer ((s.stepFailed_within _ _).fewerKeys (by decide))
  split
  · exact hfailed _
  split
  · exact hfailed _
  split
  · exact hfailed _
  rename_i hkey
  split
  · exact hfailed _
  rename_i slot hfree
  split
  · exact hfailed _
  · rename_i p _
    have hloading : (s.setLoading slot task.loading).KeyLaw := by
      refine h.setEntry slot fun g key hx other _ => ?_
      obtain ⟨rfl, rfl⟩ : task.loading.group = g ∧ task.loading.key = key := by simpa [Occupant.holdsKey] using hx
      exact State.keyHeld_eq_false.1 (Bool.eq_false_iff.2 hkey) other nofun
    have hpool : ((s.setLoading slot task.loading).setPool p).KeyLaw := hloading
    exact hpool.of_fewer ((State.stepPassed_within _ _ _).fewerKeys (by decide))

theorem State.writeEdit_keyLaw {s : State} (h : s.KeyLaw) (task : Task) (held : Bool) {slot : SlotNo}
    (hkey : ∀ e, s.installedAt slot = some e → editKey task e ≠ e.key →
      s.keyHeld e.group (editKey task e) (some slot) = false) : (s.writeEdit task held slot).KeyLaw := by
  have hfinish : ∀ (u : State) outcome, u.KeyLaw → (u.finish task held outcome []).KeyLaw := fun u outcome hu =>
    hu.of_fewer ((u.finish_within _ _ _ _).fewerKeys (by decide))
  unfold State.writeEdit
  split
  · exact hfinish _ _ h
  · rename_i e he
    split
    · exact hfinish _ _ h
    · refine hfinish _ _ (State.KeyLaw.setEntry h slot fun g key hx other hother => ?_)
      obtain ⟨rfl, rfl⟩ : e.group = g ∧ editKey task e = key := by simpa [Occupant.holdsKey] using hx
      by_cases hsame : editKey task e = e.key
      · refine Bool.eq_false_iff.2 fun hheld => hother (h other slot _ _ hheld ?_)
        rw [State.installedAt_eq_some.1 he, hsame]
        simp [Occupant.holdsKey]
      · exact State.keyHeld_eq_false.1 (hkey e he hsame) other (fun heq => hother (Option.some.inj heq))

theorem State.SameEntries.keyHeld {s t : State} (h : s.SameEntries t) (g : GroupNo) (key : Word)
    (except : Option SlotNo) : t.keyHeld g key except = s.keyHeld g key except := by
  simp only [State.keyHeld, h.holdsKey]

theorem State.SameEntries.installedAt {s t : State} (h : s.SameEntries t) {slot : SlotNo} {e : Installed}
    (he : t.installedAt slot = some e) : ∃ e', s.installedAt slot = some e' ∧
      ∃ status m a, e = { e' with status := status, mainDamaged := m, alternateDamaged := a } := by
  simp only [State.installedAt_eq_some] at he ⊢
  rcases (h slot).2 with hocc | ⟨e', status, m, a, he', hocc⟩
  · exact ⟨e, hocc ▸ he, e.status, e.mainDamaged, e.alternateDamaged, rfl⟩
  · exact ⟨e', he', status, m, a, Occupant.installed.inj (he.symm.trans hocc)⟩

theorem entryEditBody_keyLaw (task : Task) (held : Bool) {s : State} (h : s.KeyLaw) :
    (entryEditBody task held s).KeyLaw := by
  have hfinish : ∀ (u : State) outcome words, u.KeyLaw → (u.finish task held outcome words).KeyLaw :=
    fun u outcome words hu => hu.of_fewer ((u.finish_within _ _ _ _).fewerKeys (by decide))
  unfold entryEditBody
  split
  · exact hfinish _ _ _ h
  · rename_i hd e hcurrent
    split
    · exact hfinish _ _ _ h
    split
    · exact hfinish _ _ _ h
    rename_i hduplicate
    have hm := (s.editCheck_marked hd.slot e (editTolerance task e)).sameEntries
    have hedit : ∀ u, s.SameEntries u → (u.writeEdit task held hd.slot).KeyLaw := by
      intro u hu
      refine State.writeEdit_keyLaw (h.of_fewer hu.fewerKeys) task held fun e' he' hne => ?_
      obtain ⟨x, hx, status, m, a, rfl⟩ := hu.installedAt he'
      obtain rfl := Option.some.inj (hx.symm.trans (s.installedAt_of_currentWord hcurrent))
      rw [hu.keyHeld]
      exact Bool.eq_false_iff.2 fun hheld => hduplicate ⟨hne, hheld⟩
    split <;> rename_i hs <;> rw [hs] at hm
    · exact hfinish _ _ _ (h.of_fewer hm.fewerKeys)
    · exact hedit _ hm
    · exact hedit _ hm

theorem exec_keyLaw (c : Instr) (s t : State) (h : exec c s = .next t) (hs : s.KeyLaw) : t.KeyLaw := by
  have hempty : (∀ slot : SlotNo, t.entries[slot].occupant = .free) → t.KeyLaw := fun hfree a b g key ha _ => by
    rw [hfree a] at ha
    cases ha
  have hstep : ∀ step body, tableStepOf c = some (step, body) →
      (∀ task held u, State.KeyLaw u → State.KeyLaw (body task held u)) → t.KeyLaw := by
    intro step body hbody hkeep
    rcases exec_tableStep_cases hbody h with rfl | ⟨task, held, rfl, -⟩
    · exact hs
    · exact hkeep task held (s.served .host) hs
  by_cases hc : changesEntries c = true
  · cases c
    case hardwareReset =>
      cases h
      exact hempty fun slot => by simp [State.hardwareReset, State.reset]
    case initializeTableStep =>
      rcases exec_tableStep_cases rfl h with rfl | ⟨task, held, rfl, -⟩
      · exact hs
      · exact hempty fun slot => by simp [State.initializeTable]
    case installParameterStep => exact hstep _ _ rfl fun task held u => installParameterBody_keyLaw task held
    case installFinalStep => exact hstep _ _ rfl fun task held u hu => hu.of_fewer (installFinalBody_fewerKeys task held u)
    case entryEditStep => exact hstep _ _ rfl fun task held u => entryEditBody_keyLaw task held
    case retire => exact hstep _ _ rfl fun task held u hu => hu.of_fewer (retireBody_fewerKeys task held u)
    case parameterPhaseCleanUp =>
      cases h
      exact hs.of_fewer s.cleanUp_fewerKeys
    all_goals exact nomatch hc
  · exact hs.of_fewer (exec_sameEntries (Bool.eq_false_iff.2 hc) h).fewerKeys

end Sys2Proof.Machine
end

section
/-! SUPPORT. What the command in progress has made sure of, under each command (R28, R35). -/

namespace Sys2Proof.Machine

/-! ## The law by the phases of the engine -/

/-- The group of a GROUP DEFINE with a repeat pattern is UNDEFINED once its parameter step has passed. -/
def State.DefineLaw (s : State) : Prop :=
  ∀ task, ((∃ since, s.port.engine = .parameter task (.word since)) ∧ 7 ≤ task.words.length ∨
      ∃ held, s.port.engine = .execute task held) →
    task.command = .groupDefine → repeatChoice (task.word 0) = 1 → s.groups[argGroup task.arg] = none

/-- The parameter step of an install comes with its three words. -/
def State.InstallStepLaw (s : State) : Prop :=
  ∀ task held, s.port.engine = .parameter task (.step held) → task.command = .entryInstall → 3 ≤ task.words.length

/-- The phases of an install between its parameter step and its end. -/
def InstallUnderWay (e : Engine) (reservation : List CellNo) : Prop :=
  ∃ task, task.command = .entryInstall ∧
    ((∃ since, e = .parameter task (.word since) ∧ 3 ≤ task.words.length ∧ reservation ≠ []) ∨
      (∃ held, e = .execute task held) ∨ ∃ outcome, e = .cleanup task outcome)

/-- A LOADING slot belongs to the one install under way. -/
def State.LoadingLaw (s : State) : Prop :=
  ∀ (slot : SlotNo) (l : Loading), s.entries[slot].occupant = .loading l →
    s.groups[l.group].isSome = true ∧
    (∀ (other : SlotNo) (k : Loading), s.entries[other].occupant = .loading k → other = slot) ∧
    InstallUnderWay s.port.engine s.pool.reservation

theorem State.workLaw_iff (s : State) : s.WorkLaw ↔ s.DefineLaw ∧ s.InstallStepLaw ∧ s.LoadingLaw := .rfl

theorem State.DefineLaw.of_engine {s : State} (hword : ∀ task since, s.port.engine ≠ .parameter task (.word since))
    (hexecute : ∀ task held, s.port.engine ≠ .execute task held) : s.DefineLaw := by
  rintro task (⟨⟨since, he⟩, -⟩ | ⟨held, he⟩) _ _
  · exact absurd he (hword task since)
  · exact absurd he (hexecute task held)

theorem State.LoadingLaw.of_none {s : State} (h : ∀ (slot : SlotNo) (l : Loading), s.entries[slot].occupant ≠ .loading l) :
    s.LoadingLaw := fun slot l hl => absurd hl (h slot l)

/-- Without a LOADING slot, and with the engine settled, nothing is left to make sure of. -/
theorem State.WorkLaw.of_settled {s : State} (h : s.port.engine.Settled)
    (hnone : ∀ (slot : SlotNo) (l : Loading), s.entries[slot].occupant ≠ .loading l) : s.WorkLaw :=
  ⟨State.DefineLaw.of_engine (fun _ _ => h.not_parameter _ _) h.not_execute,
    fun _ _ he => absurd he (h.not_parameter _ _), State.LoadingLaw.of_none hnone⟩

/-- Outside the phases of an install no slot is LOADING. -/
theorem State.LoadingLaw.none_loading {s : State} (h : s.LoadingLaw)
    (hengine : ¬ InstallUnderWay s.port.engine s.pool.reservation) (slot : SlotNo) (l : Loading) :
    s.entries[slot].occupant ≠ .loading l := fun hl => hengine (h slot l hl).2.2

/-! ## Steps that are no table steps -/

theorem push_word_zero {task : Task} {w : Word} (h : 0 < task.words.length) : (task.push w).word 0 = task.word 0 :=
  List.getD_append _ _ _ _ h

theorem groupDefine_verdict {task : Task} {w : Word} (hcommand : task.command = .groupDefine)
    (h : wordVerdict task w = .next ∧ 7 ≤ (task.push w).words.length ∨ wordVerdict task w = .last)
    (hrepeat : repeatChoice ((task.push w).word 0) = 1) : 7 ≤ task.words.length := by
  by_contra hshort
  have hlength : (task.push w).words.length = task.words.length + 1 := by simp [Task.push]
  unfold wordVerdict at h
  rw [hcommand] at h
  simp only [groupWordVerdict, accept] at h
  rcases h with ⟨h, hlong⟩ | h
  · have h6 : task.words.length = 6 := by omega
    rw [h6] at h
    cases h
  · split at h
    · split at h <;> cases h
    split at h
    · rename_i h5
      rw [push_word_zero (by omega)] at hrepeat
      simp only [hrepeat, if_true] at h
      split at h <;> cases h
    split at h
    · cases h
    · omega

theorem entryInstall_step {task : Task} {w : Word} (hcommand : task.command = .entryInstall)
    (h : wordVerdict task w = .step) : task.words.length = 2 := by
  unfold wordVerdict at h
  rw [hcommand] at h
  simp only [runVerdict] at h
  split at h
  · cases h
  split at h
  · assumption
  · split at h
    · split at h <;> cases h
    · cases h

/-- What a move of the engine needs to know of the table and the pool. -/
structure State.SameWork (s t : State) : Prop where
  group : ∀ g : GroupNo, t.groups[g].isSome = s.groups[g].isSome
  loading : ∀ (slot : SlotNo) (l : Loading), t.entries[slot].occupant = .loading l ↔ s.entries[slot].occupant = .loading l
  reservation : t.pool.reservation = s.pool.reservation

/-- The phase in which the group of a GROUP DEFINE is known to be UNDEFINED. -/
def DefineUnderWay (e : Engine) (task : Task) : Prop :=
  (∃ since, e = .parameter task (.word since)) ∧ 7 ≤ task.words.length ∨ ∃ held, e = .execute task held

theorem EngineMove.defineUnderWay {ready : Bool} {reservation : List CellNo} {e e' : Engine}
    {claim claim' : Option HostStep} (hmove : EngineMove ready reservation e claim e' claim') {task : Task}
    (h : DefineUnderWay e' task) (hcommand : task.command = .groupDefine) (hrepeat : repeatChoice (task.word 0) = 1) :
    ∃ task', DefineUnderWay e task' ∧ task'.command = .groupDefine ∧ repeatChoice (task'.word 0) = 1 ∧
      task'.arg = task.arg := by
  have htaken : ∀ (task' : Task) w since, e = .parameter task' (.word since) → task = task'.push w →
      (wordVerdict task' w = .next ∧ 7 ≤ (task'.push w).words.length ∨ wordVerdict task' w = .last) →
      ∃ task', DefineUnderWay e task' ∧ task'.command = .groupDefine ∧ repeatChoice (task'.word 0) = 1 ∧
        task'.arg = task.arg := by
    rintro task' w since rfl rfl hverdict
    have hlong := groupDefine_verdict (task := task') hcommand hverdict hrepeat
    exact ⟨task', .inl ⟨⟨since, rfl⟩, hlong⟩, hcommand, push_word_zero (task := task') (w := w) (by omega) ▸ hrepeat, rfl⟩
  cases hmove with
  | stay => exact ⟨task, h, hcommand, hrepeat, rfl⟩
  | hold claim held task' =>
    rcases h with ⟨⟨since, he⟩, -⟩ | ⟨held', he⟩ <;> cases he
    exact ⟨task, .inr ⟨held, rfl⟩, hcommand, hrepeat, rfl⟩
  | ask _ _ since task' _ _ hwords =>
    rcases h with ⟨⟨since', he⟩, hlong⟩ | ⟨held', he⟩ <;> cases he
    rw [hwords] at hlong
    exact nomatch hlong
  | start _ _ task' _ _ hparameters =>
    rcases h with ⟨⟨since', he⟩, hlong⟩ | ⟨held', he⟩ <;> cases he
    rw [hcommand] at hparameters
    cases hparameters
  | take _ w since now task' hverdict =>
    rcases h with ⟨⟨since', he⟩, hlong⟩ | ⟨held', he⟩ <;> cases he
    exact htaken task' w since rfl rfl (.inl ⟨hverdict, hlong⟩)
  | enter _ w since task' hverdict =>
    rcases h with ⟨⟨since', he⟩, hlong⟩ | ⟨held', he⟩ <;> cases he
    exact htaken task' w since rfl rfl (.inr hverdict)
  | answer held task' e' _ hends =>
    rcases hends with rfl | ⟨outcome, w, ws, since, rfl⟩ <;> rcases h with ⟨⟨since', he⟩, -⟩ | ⟨held', he⟩ <;> cases he
  | refuse | raise | drop | clean | holdStep | offer | finish =>
    rcases h with ⟨⟨since', he⟩, -⟩ | ⟨held', he⟩ <;> cases he

theorem EngineMove.installStep {ready : Bool} {reservation : List CellNo} {e e' : Engine}
    {claim claim' : Option HostStep} (hmove : EngineMove ready reservation e claim e' claim') {task : Task} {held : Bool}
    (h : e' = .parameter task (.step held)) (hcommand : task.command = .entryInstall) :
    3 ≤ task.words.length ∨ ∃ held', e = .parameter task (.step held') := by
  cases hmove with
  | stay => exact .inr ⟨held, h⟩
  | holdStep claim held' task' =>
    cases h
    exact .inr ⟨held', rfl⟩
  | raise _ w _ task' hverdict =>
    cases h
    left
    have htwo := entryInstall_step (task := task') hcommand hverdict
    simp [Task.push, htwo]
  | answer held' task' e' _ hends => rcases hends with rfl | ⟨outcome, w, ws, since, rfl⟩ <;> cases h
  | refuse | ask | start | take | enter | drop | clean | hold | offer | finish => cases h

theorem EngineMove.installUnderWay {ready : Bool} {reservation : List CellNo} {e e' : Engine}
    {claim claim' : Option HostStep} (hmove : EngineMove ready reservation e claim e' claim')
    (h : InstallUnderWay e reservation) : InstallUnderWay e' reservation := by
  obtain ⟨task, hcommand, hphase⟩ := h
  cases hmove with
  | stay => exact ⟨task, hcommand, hphase⟩
  | hold claim held task' =>
    rcases hphase with ⟨_, he, -⟩ | ⟨_, he⟩ | ⟨_, he⟩ <;> cases he
    exact ⟨task, hcommand, .inr (.inl ⟨true, rfl⟩)⟩
  | take _ w since now task' =>
    rcases hphase with ⟨_, he, hlong, hreserved⟩ | ⟨_, he⟩ | ⟨_, he⟩ <;> cases he
    refine ⟨task.push w, hcommand, .inl ⟨now, rfl, ?_, hreserved⟩⟩
    simp only [Task.push, List.length_append]
    omega
  | raise _ w since task' hverdict =>
    rcases hphase with ⟨_, he, hlong, hreserved⟩ | ⟨_, he⟩ | ⟨_, he⟩ <;> cases he
    have htwo := entryInstall_step hcommand hverdict
    omega
  | enter _ w since task' =>
    rcases hphase with ⟨_, he, hlong, hreserved⟩ | ⟨_, he⟩ | ⟨_, he⟩ <;> cases he
    exact ⟨task.push w, hcommand, .inr (.inl ⟨false, rfl⟩)⟩
  | drop _ since task' hreservation =>
    rcases hphase with ⟨_, he, hlong, hreserved⟩ | ⟨_, he⟩ | ⟨_, he⟩ <;> cases he
    exact absurd hreservation hreserved
  | clean _ since task' outcome =>
    rcases hphase with ⟨_, he, hlong, hreserved⟩ | ⟨_, he⟩ | ⟨_, he⟩ <;> cases he
    exact ⟨task, hcommand, .inr (.inr ⟨outcome, rfl⟩)⟩
  | answer held task' e' hcommands =>
    rcases hphase with ⟨_, he, -⟩ | ⟨_, he⟩ | ⟨_, he⟩ <;> cases he
    exact absurd hcommand hcommands.2
  | refuse _ _ _ hbusy | ask _ _ _ _ _ hbusy | start _ _ _ _ hbusy =>
    rcases hphase with ⟨_, rfl, -⟩ | ⟨_, rfl⟩ | ⟨_, rfl⟩ <;> cases hbusy
  | holdStep | offer | finish => rcases hphase with ⟨_, he, -⟩ | ⟨_, he⟩ | ⟨_, he⟩ <;> cases he

theorem State.WorkLaw.move {s t : State} (h : s.WorkLaw) (hsame : s.SameWork t) (hmove : s.PortMove t) : t.WorkLaw := by
  obtain ⟨hdefine, hstep, hloading⟩ := h
  refine ⟨fun task hphase hcommand hrepeat => ?_, fun task held he hcommand => ?_, fun slot l hl => ?_⟩
  · obtain ⟨task', hphase', hcommand', hrepeat', harg⟩ := hmove.defineUnderWay hphase hcommand hrepeat
    have hnone := hdefine task' hphase' hcommand' hrepeat'
    simp only [harg] at hnone
    have hsome := hsame.group (argGroup task.arg)
    rw [hnone] at hsome
    exact Option.isNone_iff_eq_none.1 (by simpa using hsome)
  · rcases hmove.installStep he hcommand with h3 | ⟨held', he'⟩
    · exact h3
    · exact hstep task held' he' hcommand
  · obtain ⟨hgroup, honly, hunder⟩ := hloading slot l ((hsame.loading slot l).1 hl)
    refine ⟨(hsame.group _).trans hgroup, fun other k hk => honly other k ((hsame.loading other k).1 hk), ?_⟩
    rw [hsame.reservation]
    exact hmove.installUnderWay hunder

/-! ### Every row that is no table step -/

theorem State.Within.sameWork {l : List Part} {s t : State} (h : State.Within l s t) (hentries : Part.entries ∉ l)
    (hgroups : Part.groups ∉ l) (hreservation : Part.reservation ∉ l) : s.SameWork t where
  group g := by rw [h .groups hgroups]
  loading slot l := by rw [h .entries hentries]
  reservation := h .reservation hreservation

theorem State.SameEntries.loading {s t : State} (h : s.SameEntries t) (slot : SlotNo) (l : Loading) :
    t.entries[slot].occupant = .loading l ↔ s.entries[slot].occupant = .loading l := by
  rcases (h slot).2 with hocc | ⟨e, status, m, a, he, hocc⟩ <;> rw [hocc]
  rw [he]
  exact ⟨nofun, nofun⟩

theorem State.Marked.group_isSome {s t : State} (h : s.Marked t) (g : GroupNo) :
    t.groups[g].isSome = s.groups[g].isSome := by
  rcases h.group g with h | ⟨x, hx, h⟩ <;> rw [h]
  rw [hx]
  rfl

theorem State.Marked.sameWork {s t : State} (h : s.Marked t) : s.SameWork t where
  group := h.group_isSome
  loading := h.loading
  reservation := by rw [h.frame]

theorem State.SameWork.trans {s t u : State} (h : s.SameWork t) (k : t.SameWork u) : s.SameWork u where
  group g := (k.group g).trans (h.group g)
  loading slot l := (k.loading slot l).trans (h.loading slot l)
  reservation := k.reservation.trans h.reservation

theorem State.SameWork.refl (s : State) : s.SameWork s := ⟨fun _ => rfl, fun _ _ => .rfl, rfl⟩

theorem exec_lookup_sameWork {i : InputId} {s t : State} (h : exec (.lookup i) s = .next t) : s.SameWork t := by
  cases h
  split
  · rename_i b _ _
    have hbegin : s.SameWork (s.beginLookup i b) := ⟨fun _ => rfl, fun _ _ => .rfl, rfl⟩
    unfold State.runLookup
    split
    · exact hbegin
    · rename_i b' _
      have hvisited := (State.visits_marked b' ((s.beginLookup i b).binList b'.runs.length)
        (s.beginLookup i b, .none)).sameWork
      exact (hbegin.trans hvisited).trans
        ((State.endLookup_within _ _ _).sameWork (by decide) (by decide) (by decide))
  · exact .refl s

theorem State.takeDamage_sameWork (s : State) (d : DamageReport) : s.SameWork (s.takeDamage d) := by
  unfold State.takeDamage
  split
  · split
    · exact (s.damagePattern_marked _).sameWork
    · exact ⟨fun _ => rfl, fun _ _ => .rfl, rfl⟩
  · exact ⟨fun _ => rfl, fun _ _ => .rfl, rfl⟩

theorem exec_damageNotice_sameWork {o : OutputId} {s t : State} (h : exec (.damageNotice o) s = .next t) :
    s.SameWork t := by
  cases h
  split
  · rename_i d _ _
    have hserved : s.SameWork (s.served (.output o)) := ⟨fun _ => rfl, fun _ _ => .rfl, rfl⟩
    exact (hserved.trans (State.takeDamage_sameWork _ d)).trans
      ((State.raiseDeferred_within _ o).sameWork (by decide) (by decide) (by decide))
  · exact .refl s

theorem exec_sameWork {c : Instr} {s t : State} (hstep : tableStepOf c = none) (hapart : movesApart c = false)
    (h : exec c s = .next t) : s.SameWork t := by
  cases c
  case lookup i => exact exec_lookup_sameWork h
  case damageNotice o => exact exec_damageNotice_sameWork h
  case hardwareReset | memoryTestEnd | parameterPhaseCleanUp => exact nomatch hapart
  case installParameterStep | installFinalStep | groupParameterStep | groupDefineFinalStep | groupEditFinalStep |
      groupRemoveStep | entryEditStep | suspend | resume | retire | entryReadStep | groupReadStep | entryFindStep |
      entryListStep | tableStatusStep | handleCheck | initializeTableStep => exact nomatch hstep
  all_goals
    exact (exec_within _ s t h).sameWork (by simp only [touches]; decide) (by simp only [touches]; decide)
      (by simp only [touches]; decide)

/-! ## Table steps -/

/-- Every LOADING slot was LOADING before. -/
def State.FewerLoading (s t : State) : Prop :=
  ∀ (slot : SlotNo) (l : Loading), t.entries[slot].occupant = .loading l → s.entries[slot].occupant = .loading l

theorem State.FewerLoading.trans {s t u : State} (h : s.FewerLoading t) (k : t.FewerLoading u) : s.FewerLoading u :=
  fun slot l hl => h slot l (k slot l hl)

theorem State.SameEntries.fewerLoading {s t : State} (h : s.SameEntries t) : s.FewerLoading t :=
  fun slot l => (h.loading slot l).1

theorem State.Within.fewerLoading {l : List Part} {s t : State} (h : State.Within l s t) (hl : Part.entries ∉ l) :
    s.FewerLoading t := (h.sameEntries hl).fewerLoading

theorem State.setEntry_fewerLoading (s : State) (slot : SlotNo) {x : Entry} (hx : ∀ l, x.occupant ≠ .loading l) :
    s.FewerLoading (s.setEntry slot x) := by
  intro other l hl
  rw [State.entries_setEntry] at hl
  split at hl
  · exact absurd hl (hx l)
  · exact hl

/-- A slot that is no longer LOADING. -/
theorem State.setEntry_not_loading (s : State) (slot : SlotNo) {x : Entry} (hx : ∀ l, x.occupant ≠ .loading l)
    (l : Loading) : (s.setEntry slot x).entries[slot].occupant ≠ .loading l := by
  rw [State.entries_setEntry, if_pos rfl]
  exact hx l

theorem State.freeSlot_fewerLoading (s : State) (slot : SlotNo) : s.FewerLoading (s.freeSlot slot) :=
  s.setEntry_fewerLoading slot (x := { s.entries[slot] with occupant := .free }) nofun

theorem State.setInstalled_fewerLoading (s : State) (slot : SlotNo) (e : Installed) :
    s.FewerLoading (s.setInstalled slot e) :=
  s.setEntry_fewerLoading slot (x := { s.entries[slot] with occupant := .installed e }) nofun

theorem State.freeSlot_not_loading (s : State) (slot : SlotNo) (l : Loading) :
    (s.freeSlot slot).entries[slot].occupant ≠ .loading l :=
  s.setEntry_not_loading slot (x := { s.entries[slot] with occupant := .free }) nofun l

theorem entryEditBody_fewerLoading (task : Task) (held : Bool) (s : State) :
    s.FewerLoading (entryEditBody task held s) := by
  have hedit : ∀ (u : State) slot, u.FewerLoading (u.writeEdit task held slot) := by
    intro u slot
    unfold State.writeEdit
    split
    · exact (u.finish_within _ _ _ _).fewerLoading (by decide)
    · split
      · exact (u.finish_within _ _ _ _).fewerLoading (by decide)
      · exact (u.setInstalled_fewerLoading slot _).trans ((State.finish_within _ _ _ _ _).fewerLoading (by decide))
  unfold entryEditBody
  split
  · exact (s.finish_within _ _ _ _).fewerLoading (by decide)
  · rename_i h e _
    split
    · exact (s.finish_within _ _ _ _).fewerLoading (by decide)
    split
    · exact (s.finish_within _ _ _ _).fewerLoading (by decide)
    have hm := (s.editCheck_marked h.slot e (editTolerance task e)).sameEntries.fewerLoading
    split <;> rename_i hs <;> rw [hs] at hm
    · exact hm.trans ((State.finish_within _ _ _ _ _).fewerLoading (by decide))
    · exact hm.trans (hedit _ _)
    · exact hm.trans (hedit _ _)

theorem retireBody_fewerLoading (task : Task) (held : Bool) (s : State) :
    s.FewerLoading (retireBody task held s) := by
  unfold retireBody
  split
  · exact (s.finish_within _ _ _ _).fewerLoading (by decide)
  · rename_i h e _
    refine .trans (t := s.retireEntry h e) ?_ ((State.finish_within _ _ _ _ _).fewerLoading (by decide))
    rw [State.retireEntry_parts]
    exact s.freeSlot_fewerLoading h.slot

theorem tableStepOf_fewerLoading {c : Instr} {h : HostStep} {body : Task → Bool → State → State}
    (hc : tableStepOf c = some (h, body)) (hparameter : h ≠ .installParameter) (hfinal : h ≠ .installFinal) (task : Task)
    (held : Bool) (s : State) : s.FewerLoading (body task held s) := by
  cases c <;> cases hc
  case installParameterStep => exact absurd rfl hparameter
  case installFinalStep => exact absurd rfl hfinal
  case groupParameterStep => exact (groupParameterBody_within task held s).fewerLoading (by decide)
  case groupDefineFinalStep => exact (groupDefineFinalBody_sameEntries task held s).fewerLoading
  case groupEditFinalStep => exact (groupEditFinalBody_sameEntries task held s).fewerLoading
  case groupRemoveStep => exact (groupRemoveBody_within task held s).fewerLoading (by decide)
  case entryEditStep => exact entryEditBody_fewerLoading task held s
  case suspend => exact (suspendBody_sameEntries task held s).fewerLoading
  case resume => exact (resumeBody_sameEntries task held s).fewerLoading
  case retire => exact retireBody_fewerLoading task held s
  case entryReadStep => exact (entryReadBody_sameEntries task held s).fewerLoading
  case groupReadStep => exact (groupReadBody_sameEntries task held s).fewerLoading
  case entryFindStep => exact (entryFindBody_within task held s).fewerLoading (by decide)
  case entryListStep => exact (entryListBody_within task held s).fewerLoading (by decide)
  case tableStatusStep => exact (tableStatusBody_within task held s).fewerLoading (by decide)
  case handleCheck later => exact (handleCheckBody_within later task held s).fewerLoading (by decide)
  case initializeTableStep =>
    intro slot l hl
    simp [State.initializeTable] at hl

theorem completeInstall_not_loading (s : State) (slot other : SlotNo) (l k : Loading)
    (hk : (s.completeInstall slot l).1.entries[other].occupant = .loading k) :
    other ≠ slot ∧ s.entries[other].occupant = .loading k := by
  let x : Entry := {
    generation := nextGeneration s.entries[slot].generation, occupant := .installed (l.install s.pool.reservation) }
  have hset : ((s.setEntry slot x).setPool s.pool.ownReservation).SameEntries (s.completeInstall slot l).1 :=
    ((State.joinFrames_within _ _ _).sameEntries (by decide)).trans
      ((State.changeCount_within _ _ _).sameEntries (by decide))
  have hbefore : (s.setEntry slot x).entries[other].occupant = .loading k := (hset.loading other k).1 hk
  refine ⟨?_, s.setEntry_fewerLoading slot (x := x) nofun other k hbefore⟩
  rintro rfl
  exact s.setEntry_not_loading other (x := x) nofun k hbefore

/-- After the final step of an install that was LOADING no slot is. -/
theorem installFinalBody_not_loading {s : State} (hs : s.LoadingLaw) {slot : SlotNo} {l : Loading}
    (hloading : s.loading? = some (slot, l)) (task : Task) (held : Bool) (other : SlotNo) (k : Loading) :
    (installFinalBody task held s).entries[other].occupant ≠ .loading k := by
  have hl := State.loading?_eq_some hloading
  have honly : ∀ other k, s.entries[other].occupant = .loading k → other = slot := (hs slot l hl).2.1
  unfold installFinalBody
  rw [hloading]
  simp only
  have hm := conflictCheck_marked (s.installUnderTest l) (s.conflictSet (fun _ => false)) s
  have hreturned : ∀ u : State, s.Marked u → ∀ outcome words,
      ((u.freeSlot slot).returnReservation.finish task held outcome words).entries[other].occupant ≠ .loading k := by
    intro u hu outcome words hk
    have hafter : (u.freeSlot slot).FewerLoading ((u.freeSlot slot).returnReservation.finish task held outcome words) :=
      ((State.returnReservation_within _).fewerLoading (by decide)).trans
        ((State.finish_within _ _ _ _ _).fewerLoading (by decide))
    have hfreed := hafter other k hk
    have hbefore := (hu.loading other k).1 (u.freeSlot_fewerLoading slot other k hfreed)
    obtain rfl := honly other k hbefore
    exact u.freeSlot_not_loading other k hfreed
  split <;> rename_i hcheck <;> rw [hcheck] at hm
  · exact hreturned _ hm _ _
  · exact hreturned _ hm _ _
  · rename_i u
    intro hk
    obtain ⟨hne, hu⟩ := completeInstall_not_loading u slot other l k
      (((State.finish_within _ _ _ _ _).fewerLoading (by decide)) other k hk)
    exact hne (honly other k ((hm.loading other k).1 hu))

theorem installFinalBody_settled {s : State} {task : Task} {held : Bool} (h : s.loading?.isSome = true) :
    (installFinalBody task held s).port.engine.Settled := by
  unfold installFinalBody
  split
  · rename_i hnone
    rw [hnone] at h
    cases h
  · split <;> exact State.finish_settled ..

theorem not_installUnderWay_of_command {task : Task} {held : Bool} {reservation : List CellNo}
    (h : task.command ≠ .entryInstall) : ¬ InstallUnderWay (.execute task held) reservation := by
  rintro ⟨task', hcommand, ⟨_, he, -⟩ | ⟨_, he⟩ | ⟨_, he⟩⟩ <;> cases he
  exact h hcommand

theorem not_installUnderWay_of_step {task : Task} {held : Bool} {reservation : List CellNo} :
    ¬ InstallUnderWay (.parameter task (.step held)) reservation := by
  rintro ⟨task', -, ⟨_, he, -⟩ | ⟨_, he⟩ | ⟨_, he⟩⟩ <;> cases he

theorem groupStateFailure_define {g : Option Group} (h : groupStateFailure .groupDefine g = none) : g = none := by
  unfold groupStateFailure at h
  simp only at h
  split at h
  · cases h
  · rename_i hnone
    simpa using hnone

theorem groupParameterBody_workLaw {s : State} {task : Task} {held : Bool}
    (hnone : ∀ (slot : SlotNo) (l : Loading), s.entries[slot].occupant ≠ .loading l) : (groupParameterBody task held s).WorkLaw := by
  have hfailed : ∀ outcome, (s.stepFailed task outcome).WorkLaw := fun outcome => .of_settled (.inl rfl) hnone
  unfold groupParameterBody
  simp only
  split
  · exact hfailed _
  rename_i hstate
  split
  · exact hfailed _
  split
  · exact hfailed _
  rename_i p _
  obtain ⟨e, h, hs, hcases⟩ := (s.setPool p).stepPassed_frame task held
  rw [hs]
  rcases hcases with ⟨rfl, -⟩ | ⟨rfl, -⟩
  · exact ⟨State.DefineLaw.of_engine nofun nofun, nofun, State.LoadingLaw.of_none hnone⟩
  · refine ⟨?_, nofun, State.LoadingLaw.of_none hnone⟩
    rintro task' (⟨⟨since, he⟩, -⟩ | ⟨held', he⟩) hdefine - <;> cases he
    rw [hdefine] at hstate
    exact groupStateFailure_define hstate

theorem Pool.reserve_ne_nil {p q : Pool} {n : Nat} (h : p.reserve n = some q) (hn : 0 < n) : q.reservation ≠ [] := by
  obtain ⟨hshort, hlong⟩ := p.reserve_spec n
  by_cases hlt : p.freeList.length < n
  · rw [hshort hlt] at h
    cases h
  obtain ⟨q', hq', hspec, -⟩ := hlong (by omega)
  obtain rfl := Option.some.inj (h.symm.trans hq')
  rw [hspec]
  intro hnil
  have hlength := congrArg List.length hnil
  simp only [List.length_take, List.length_nil] at hlength
  omega

theorem Loading.cells_pos {l : Loading} (h : countAccepted 127 l.runCount = true) : 0 < l.cells := by
  obtain ⟨-, hthree, -⟩ : l.runCount % 2 = 1 ∧ 3 ≤ l.runCount ∧ l.runCount ≤ 127 := by simpa [countAccepted] using h
  unfold Loading.cells cellsFor
  split <;> omega

theorem installParameterBody_workLaw {s : State} {task : Task} {held : Bool}
    (hnone : ∀ (slot : SlotNo) (l : Loading), s.entries[slot].occupant ≠ .loading l)
    (hcommand : task.command = .entryInstall) (hwords : 3 ≤ task.words.length) :
    (installParameterBody task held s).WorkLaw := by
  have hfailed : ∀ outcome, (s.stepFailed task outcome).WorkLaw := fun outcome => .of_settled (.inl rfl) hnone
  unfold installParameterBody
  simp only
  split
  · exact hfailed _
  rename_i hgroup
  split
  · exact hfailed _
  rename_i hcount
  split
  · exact hfailed _
  split
  · exact hfailed _
  rename_i slot _
  split
  · exact hfailed _
  rename_i p hreserve
  have hreserved : p.reservation ≠ [] := Pool.reserve_ne_nil hreserve (Loading.cells_pos (by simpa using hcount))
  have hloaded : ∀ other k, (s.setLoading slot task.loading).entries[other].occupant = .loading k →
      other = slot ∧ k = task.loading := by
    intro other k hk
    unfold State.setLoading at hk
    rw [State.entries_setEntry] at hk
    split at hk
    · rename_i heq
      exact ⟨heq.symm, (Occupant.loading.inj hk).symm⟩
    · exact absurd hk (hnone other k)
  have hlaw : ∀ e claim, InstallUnderWay e p.reservation →
      State.LoadingLaw { (s.setLoading slot task.loading).setPool p with
        port := { s.port with engine := e }, claims := { s.claims with host := claim } } := by
    intro e claim hunder other k hk
    obtain ⟨rfl, rfl⟩ := hloaded other k hk
    exact ⟨by simpa [State.setLoading, State.setEntry, State.setPool] using Option.isSome_iff_ne_none.2 (by simpa using hgroup), fun other' k' hk' => (hloaded other' k' hk').1, hunder⟩
  obtain ⟨e, h, hs, hcases⟩ := ((s.setLoading slot task.loading).setPool p).stepPassed_frame task held
  rw [hs]
  rcases hcases with ⟨rfl, -⟩ | ⟨rfl, -⟩
  · exact ⟨State.DefineLaw.of_engine nofun nofun, nofun, hlaw _ _ ⟨task, hcommand, .inr (.inr ⟨_, rfl⟩)⟩⟩
  · refine ⟨?_, nofun, hlaw _ _ ⟨task, hcommand, .inl ⟨_, rfl, hwords, hreserved⟩⟩⟩
    rintro task' (⟨⟨since, he⟩, -⟩ | ⟨held', he⟩) hdefine - <;> cases he
    exact nomatch hcommand.symm.trans hdefine

theorem tableStep_phase {s : State} {h : HostStep} {task : Task} {held : Bool} (hlaw : s.HostClaimLaw)
    (hclaim : s.claims.host = some h)
    (hengine : s.port.engine = .execute task held ∨ s.port.engine = .parameter task (.step held)) :
    (s.port.engine = .execute task held ∧ executeStep task.command = some h) ∨
      (s.port.engine = .parameter task (.step held) ∧ h = parameterStep task.command) := by
  rcases hlaw h hclaim with ⟨task', held', he, hstep⟩ | ⟨task', held', he, hstep⟩ | ⟨task', outcome, he, -⟩ <;>
    rcases hengine with hengine | hengine <;> have heq := hengine.symm.trans he <;> cases heq
  · exact .inl ⟨he, hstep⟩
  · exact .inr ⟨he, hstep⟩

theorem installFinal_of_command {c : HostCommand} {h : HostStep} (hstep : executeStep c = some h) :
    h = .installFinal ↔ c = .entryInstall := by
  cases c <;> cases hstep <;> decide

theorem executeStep_ne_parameter {c : HostCommand} {h : HostStep} (hstep : executeStep c = some h) :
    h ≠ .installParameter ∧ h ≠ .groupParameter := by
  cases c <;> cases hstep <;> decide

theorem tableStepOf_body_unique {c : Instr} {h : HostStep} {body : Task → Bool → State → State}
    (hc : tableStepOf c = some (h, body)) :
    (h = .installFinal → body = installFinalBody) ∧ (h = .groupDefineFinal → body = groupDefineFinalBody) ∧
      (h = .installParameter → body = installParameterBody) ∧ (h = .groupParameter → body = groupParameterBody) := by
  cases c <;> cases hc <;> refine ⟨?_, ?_, ?_, ?_⟩ <;> intro hh <;> first | rfl | cases hh

theorem exec_tableStep_workLaw {c : Instr} {h : HostStep} {body : Task → Bool → State → State}
    (hc : tableStepOf c = some (h, body)) {s t : State} (ht : exec c s = .next t) (hclaimLaw : s.HostClaimLaw)
    (hs : s.WorkLaw) : t.WorkLaw := by
  rcases exec_tableStep_cases hc ht with rfl | ⟨task, held, rfl, hclaim, hengine⟩
  · exact hs
  obtain ⟨hbodyInstall, hbodyDefine, hbodyParameter, hbodyGroup⟩ := tableStepOf_body_unique hc
  rcases tableStep_phase hclaimLaw hclaim hengine with ⟨hexecute, hstep⟩ | ⟨hstep, hparameter⟩
  · obtain ⟨hne, hne'⟩ := executeStep_ne_parameter hstep
    by_cases hinstall : h = .installFinal
    · rw [hbodyInstall hinstall]
      cases hloading : (s.served .host).loading? with
      | none =>
        unfold installFinalBody
        rw [hloading]
        exact hs
      | some found =>
        obtain ⟨slot, l⟩ := found
        exact .of_settled (installFinalBody_settled (by rw [hloading]; rfl))
          (installFinalBody_not_loading (s := s.served .host) hs.2.2 hloading task held)
    · have hcommand : task.command ≠ .entryInstall := fun hx => hinstall ((installFinal_of_command hstep).2 hx)
      have hnone := State.LoadingLaw.none_loading hs.2.2 (by rw [hexecute]; exact not_installUnderWay_of_command hcommand)
      have hafter : ∀ (slot : SlotNo) (l : Loading), (body task held (s.served .host)).entries[slot].occupant ≠ .loading l :=
        fun slot l hl => hnone slot l (tableStepOf_fewerLoading hc hne hinstall task held (s.served .host) slot l hl)
      rcases tableStepOf_engineRests hc task held (s.served .host) with (hsame | hsettled) | ⟨hx, -⟩
      · have hengine' : (body task held (s.served .host)).port.engine = .execute task held := hsame.trans hexecute
        refine ⟨?_, fun task' held' he => (nomatch hengine'.symm.trans he), State.LoadingLaw.of_none hafter⟩
        rintro task' (⟨⟨since, he⟩, -⟩ | ⟨held', he⟩) hdefine -
        · exact nomatch hengine'.symm.trans he
        · obtain ⟨rfl, -⟩ := Engine.execute.inj (hengine'.symm.trans he)
          rw [hdefine] at hstep
          rw [hbodyDefine (Option.some.inj hstep).symm] at he
          exact absurd he ((groupDefineFinalBody_settled _ _ _).not_execute _ _)
      · exact .of_settled hsettled hafter
      · exact absurd hx (by simp [hne, hne'])
  · have hnone := State.LoadingLaw.none_loading hs.2.2 (by rw [hstep]; exact not_installUnderWay_of_step)
    by_cases hinstall : task.command = .entryInstall
    · rw [hinstall] at hparameter
      rw [hbodyParameter hparameter]
      exact installParameterBody_workLaw (s := s.served .host) hnone hinstall (hs.2.1 task held hstep hinstall)
    · have hgroup : h = .groupParameter := by
        rw [hparameter]
        unfold parameterStep
        split
        · exact absurd ‹_› hinstall
        · rfl
      rw [hbodyGroup hgroup]
      exact groupParameterBody_workLaw (s := s.served .host) hnone

/-! ## The law under every row -/

theorem State.freeLoading_not_loading {s : State} (hs : s.LoadingLaw) (slot : SlotNo) (l : Loading) :
    s.freeLoading.entries[slot].occupant ≠ .loading l := by
  unfold State.freeLoading
  split
  · rename_i found hfound
    obtain ⟨k, hk⟩ := State.loadingSlot_loading hfound
    intro hl
    obtain rfl := (hs found k hk).2.1 slot l (s.freeSlot_fewerLoading found slot l hl)
    exact s.freeSlot_not_loading slot l hl
  · rename_i hnone
    intro hl
    have hslot := List.find?_eq_none.1 hnone slot (List.mem_finRange slot)
    rw [hl] at hslot
    exact hslot rfl

theorem State.cleanUp_workLaw {s : State} (hs : s.WorkLaw) : s.cleanUp.WorkLaw := by
  unfold State.cleanUp
  split
  · split
    · refine .of_settled (.inl rfl) fun slot l hl => ?_
      exact State.freeLoading_not_loading (s := s.served .host) hs.2.2 slot l
        (((State.returnReservation_within _).fewerLoading (by decide)) slot l hl)
    all_goals exact hs
  · exact hs

theorem State.testEnded_engine {s : State}
    (h : s.port.engine = .testing ∨ ∃ task held, s.port.engine = .execute task held) : s.testEnded.port.engine = .idle := by
  unfold State.testEnded
  rcases h with he | ⟨task, held, he⟩ <;> rw [he] <;> rfl

theorem State.placeInputs_engine (s : State) (l : List InputId) :
    (l.foldl (fun s i => s.placeInput i) s).port.engine = s.port.engine :=
  have h := s.placeInputs_within l
  h .engine (by decide)

theorem State.endMemoryTest_settled {s : State} (failing : List CellNo)
    (hengine : s.port.engine = .testing ∨ ∃ task held, s.port.engine = .execute task held) :
    (s.endMemoryTest failing).port.engine = .idle := by
  unfold State.endMemoryTest State.afterTest
  simp only
  apply State.testEnded_engine
  rw [State.placeInputs_engine, State.raiseTable_frame]
  exact hengine

theorem State.testDue_isSome {s : State} (h : s.testDue = true) : s.memoryTest.isSome = true := by
  unfold State.testDue at h
  split at h
  · rename_i hs
    rw [hs]
    rfl
  · cases h

theorem State.endMemoryTest_workLaw {s : State} (hs : s.WorkLaw) (htest : s.TestLaw) (hdue : s.testDue = true)
    (failing : List CellNo) : (s.endMemoryTest failing).WorkLaw := by
  obtain ⟨-, hengine⟩ := htest (State.testDue_isSome hdue)
  refine .of_settled (.inl (State.endMemoryTest_settled failing (hengine.imp And.left fun ⟨task, held, he, _⟩ =>
    ⟨task, held, he⟩))) fun slot l hl => ?_
  refine State.LoadingLaw.none_loading hs.2.2 ?_ slot l
    (((State.endMemoryTest_within s failing).fewerLoading (by decide)) slot l hl)
  rcases hengine with ⟨he, -⟩ | ⟨task, held, he, hcommand⟩ <;> rw [he]
  · rintro ⟨task', -, ⟨_, he', -⟩ | ⟨_, he'⟩ | ⟨_, he'⟩⟩ <;> cases he'
  · exact not_installUnderWay_of_command (by rw [hcommand]; decide)

theorem exec_workLaw {c : Instr} {s t : State} (h : exec c s = .next t) (hclaim : s.HostClaimLaw) (htest : s.TestLaw)
    (hs : s.WorkLaw) : t.WorkLaw := by
  cases hstep : tableStepOf c with
  | some x => exact exec_tableStep_workLaw hstep h hclaim hs
  | none =>
    by_cases hapart : movesApart c = true
    · cases c
      case hardwareReset =>
        cases h
        exact ⟨State.DefineLaw.of_engine nofun nofun, nofun, State.LoadingLaw.of_none fun slot l hl => by
          simp [State.hardwareReset, State.reset] at hl⟩
      case memoryTestEnd failing time =>
        cases h
        split
        · rename_i hdue
          exact State.endMemoryTest_workLaw (s := s.advanceTo time) hs htest hdue failing
        · exact hs
      case parameterPhaseCleanUp =>
        cases h
        exact State.cleanUp_workLaw hs
      all_goals cases hapart
    · have hapart := Bool.eq_false_iff.2 hapart
      exact hs.move (exec_sameWork hstep hapart h) (exec_portMove hstep hapart h)

end Sys2Proof.Machine
end

section
/-! SUPPORT. The bins and the entry counts under each command: laws 8 and 9 (R20, R21). -/

namespace Sys2Proof.Machine

/-! ## What may be matched -/

/-- The frame pattern `v` of an entry stands in the bin of `n` runs. -/
def Installed.InBin (e : Installed) (v : Variant) (n : Nat) : Prop :=
  e.status = .active ∧ e.runCount = n ∧ (binOf n).isSome = true ∧ (e.chainOf v).isSome = true

/-- The repeat pattern of a group stands in the bin of `n` runs. -/
def Group.InBin (x : Group) (n : Nat) : Prop :=
  ∃ p, x.repeatPattern = some p ∧ x.repeatDamaged = false ∧ p.runCount = n ∧ (binOf n).isSome = true

/-- A pattern that may be matched by bursts of `n` runs. -/
def State.MayMatch (s : State) (ref : PatternRef) (n : Nat) : Prop :=
  match ref with
  | .frame slot v => ∃ e, s.installedAt slot = some e ∧ e.InBin v n
  | .ofGroup g => ∃ x, s.groups[g] = some x ∧ x.InBin n

theorem State.binLaw_iff (s : State) :
    s.BinLaw ↔ ∀ n, (s.binList n).Nodup ∧ ∀ ref, ref ∈ s.binList n ↔ s.MayMatch ref n := by
  constructor
  · intro h n
    obtain ⟨hnodup, hframe, hgroup⟩ := h n
    refine ⟨hnodup, fun ref => ?_⟩
    cases ref with
    | frame slot v => exact hframe slot v
    | ofGroup g =>
      refine (hgroup g).trans ?_
      constructor
      · rintro ⟨x, p, hx, hp⟩
        exact ⟨x, hx, p, hp⟩
      · rintro ⟨x, hx, p, hp⟩
        exact ⟨x, p, hx, hp⟩
  · intro h n
    obtain ⟨hnodup, hmem⟩ := h n
    refine ⟨hnodup, fun slot v => hmem (.frame slot v), fun g => (hmem (.ofGroup g)).trans ?_⟩
    constructor
    · rintro ⟨x, hx, p, hp⟩
      exact ⟨x, p, hx, hp⟩
    · rintro ⟨x, p, hx, hp⟩
      exact ⟨x, hx, p, hp⟩

theorem State.BinLaw.mem_iff {s : State} (h : s.BinLaw) {ref : PatternRef} {n : Nat} :
    ref ∈ s.binList n ↔ s.MayMatch ref n := (s.binLaw_iff.1 h n).2 ref

/-- Patterns leave their bins, and others join behind. -/
theorem State.BinLaw.replace {s t : State} (h : s.BinLaw) {left : PatternRef → Bool} {new : Nat → List PatternRef}
    (hbin : ∀ n, ∃ kept, t.binList n = kept ++ new n ∧ kept.Sublist (s.binList n) ∧
      ∀ ref, ref ∈ kept ↔ ref ∈ s.binList n ∧ left ref = false)
    (hnew : ∀ n, (new n).Nodup)
    (hapart : ∀ n, ∀ ref ∈ new n, left ref = true ∨ ¬ s.MayMatch ref n)
    (hmatch : ∀ ref n, t.MayMatch ref n ↔ s.MayMatch ref n ∧ left ref = false ∨ ref ∈ new n) : t.BinLaw := by
  refine t.binLaw_iff.2 fun n => ?_
  obtain ⟨kept, heq, hsub, hmem⟩ := hbin n
  refine ⟨?_, fun ref => ?_⟩
  · rw [heq, List.nodup_append]
    refine ⟨(h n).1.sublist hsub, hnew n, fun a ha b hb hab => ?_⟩
    obtain ⟨hin, hleft⟩ := (hmem a).1 ha
    rcases hapart n b hb with hb' | hb'
    · rw [← hab, hleft] at hb'
      cases hb'
    · exact hb' (hab ▸ h.mem_iff.1 hin)
  · rw [heq, List.mem_append, hmem, h.mem_iff, hmatch]

theorem State.BinLaw.same {s t : State} (h : s.BinLaw) (hbin : ∀ n, t.binList n = s.binList n)
    (hmatch : ∀ ref n, t.MayMatch ref n ↔ s.MayMatch ref n) : t.BinLaw :=
  h.replace (left := fun _ => false) (new := fun _ => [])
    (fun n => ⟨s.binList n, by simp [hbin n], List.Sublist.refl _, by simp⟩) (by simp) (by simp) (by simpa using hmatch)

theorem State.MayMatch.congr {s t : State} (hinstalled : ∀ slot, t.installedAt slot = s.installedAt slot)
    (hgroups : t.groups = s.groups) (ref : PatternRef) (n : Nat) : t.MayMatch ref n ↔ s.MayMatch ref n := by
  cases ref with
  | frame slot v => simp only [State.MayMatch, hinstalled]
  | ofGroup g => simp only [State.MayMatch, hgroups]

theorem State.BinLaw.of_installed {s t : State} (h : s.BinLaw) (hbins : t.bins = s.bins) (hgroups : t.groups = s.groups)
    (hinstalled : ∀ slot, t.installedAt slot = s.installedAt slot) : t.BinLaw :=
  h.same (State.binList_congr hbins) (State.MayMatch.congr hinstalled hgroups)

theorem State.BinLaw.of_eq {s t : State} (h : s.BinLaw) (hbins : t.bins = s.bins) (hgroups : t.groups = s.groups)
    (hentries : t.entries = s.entries) : t.BinLaw :=
  h.of_installed hbins hgroups fun slot => by unfold State.installedAt; rw [hentries]

theorem State.BinLaw.within {l : List Part} {s t : State} (h : s.BinLaw) (hw : State.Within l s t) (hbins : Part.bins ∉ l)
    (hgroups : Part.groups ∉ l) (hentries : Part.entries ∉ l) : t.BinLaw :=
  h.of_eq (hw .bins hbins) (hw .groups hgroups) (hw .entries hentries)

theorem State.BinLaw.finish {s : State} (h : s.BinLaw) (task : Task) (held : Bool) (outcome : HostOutcome)
    (results : List Word) : (s.finish task held outcome results).BinLaw :=
  h.within (s.finish_within task held outcome results) (by decide) (by decide) (by decide)

theorem State.BinLaw.returnReservation {s : State} (h : s.BinLaw) : s.returnReservation.BinLaw :=
  h.within s.returnReservation_within (by decide) (by decide) (by decide)

theorem State.BinLaw.of_empty {t : State} (hbins : ∀ n, t.binList n = []) (hinstalled : ∀ slot, t.installedAt slot = none)
    (hgroups : ∀ g : GroupNo, t.groups[g] = none) : t.BinLaw := by
  refine t.binLaw_iff.2 fun n => ?_
  rw [hbins n]
  refine ⟨List.nodup_nil, fun ref => ⟨nofun, fun hmatch => ?_⟩⟩
  cases ref with
  | frame slot v =>
    obtain ⟨e, he, -⟩ := hmatch
    exact nomatch (hinstalled slot).symm.trans he
  | ofGroup g =>
    obtain ⟨x, hx, -⟩ := hmatch
    exact nomatch (hgroups g).symm.trans hx

/-! ### Entries -/

theorem State.groups_setGroup (s : State) (g k : GroupNo) (x : Option Group) :
    (s.setGroup g x).groups[k] = if g = k then x else s.groups[k] := getElem_set_fin ..

/-- The entry of a slot that has been set, and those of the other slots, with the group records as they were. -/
theorem State.mayMatch_setEntry {s t : State} {slot : SlotNo} {x : Option Installed} (hgroups : t.groups = s.groups)
    (hinstalled : ∀ other, t.installedAt other = if slot = other then x else s.installedAt other) (ref : PatternRef)
    (n : Nat) : t.MayMatch ref n ↔ s.MayMatch ref n ∧ ofSlot slot ref = false ∨
      ∃ v e, ref = .frame slot v ∧ x = some e ∧ e.InBin v n := by
  cases ref with
  | ofGroup g => simp [State.MayMatch, hgroups, ofSlot]
  | frame other v =>
    simp only [State.MayMatch, hinstalled, ofSlot, decide_eq_false_iff_not, PatternRef.frame.injEq]
    by_cases hslot : slot = other
    · subst hslot
      simp only [if_true, not_true_eq_false, and_false, false_or, true_and]
      constructor
      · rintro ⟨e, hx, he⟩
        exact ⟨v, e, rfl, hx, he⟩
      · rintro ⟨v', e, rfl, hx, he⟩
        exact ⟨e, hx, he⟩
    · have hne : other ≠ slot := Ne.symm hslot
      simp [hslot, hne]

theorem State.mayMatch_run {s : State} {slot : SlotNo} {e : Installed} (he : s.installedAt slot = some e)
    {ref : PatternRef} {n : Nat} (href : ofSlot slot ref = true) (hmatch : s.MayMatch ref n) :
    e.runCount = n ∧ e.status = .active := by
  cases ref with
  | ofGroup g => cases href
  | frame other v =>
    obtain rfl : other = slot := of_decide_eq_true href
    obtain ⟨e', he', hactive, hrun, -⟩ := hmatch
    obtain rfl := Option.some.inj (he.symm.trans he')
    exact ⟨hrun, hactive⟩

theorem not_ofSlot_iff {slot : SlotNo} {ref : PatternRef} :
    ofSlot slot ref = false ↔ ref ≠ .frame slot .main ∧ ref ≠ .frame slot .alternate := by
  cases ref with
  | ofGroup g => simp [ofSlot]
  | frame other v => cases v <;> simp [ofSlot]

/-- The frame patterns of an entry have left: in each bin the others stand in their order. -/
theorem State.BinLaw.leaveFrames_kept {s : State} (h : s.BinLaw) {slot : SlotNo} {e : Installed}
    (he : s.installedAt slot = some e) (n : Nat) :
    ((s.leaveFrames slot e).binList n).Sublist (s.binList n) ∧
      ∀ ref, ref ∈ (s.leaveFrames slot e).binList n ↔ ref ∈ s.binList n ∧ ofSlot slot ref = false := by
  rw [State.binList_leaveFrames]
  split
  · refine ⟨List.filter_sublist, fun ref => ?_⟩
    simp [List.mem_filter, not_ofSlot_iff]
  · rename_i hne
    refine ⟨List.Sublist.refl _, fun ref => ⟨fun hin => ⟨hin, ?_⟩, And.left⟩⟩
    refine Bool.eq_false_iff.2 fun href => hne ?_
    exact (State.mayMatch_run he href (h.mem_iff.1 hin)).1.symm

/-- The patterns of an entry that is not ACTIVE are in no bin. -/
theorem State.BinLaw.kept_of_inactive {s : State} (h : s.BinLaw) {slot : SlotNo}
    (he : ∀ e, s.installedAt slot = some e → e.status ≠ .active) (n : Nat) (ref : PatternRef) :
    ref ∈ s.binList n ↔ ref ∈ s.binList n ∧ ofSlot slot ref = false := by
  refine ⟨fun hin => ⟨hin, Bool.eq_false_iff.2 fun href => ?_⟩, And.left⟩
  have hmatch := h.mem_iff.1 hin
  cases ref with
  | ofGroup g => cases href
  | frame other v =>
    obtain rfl : other = slot := of_decide_eq_true href
    obtain ⟨e, he', hactive, -⟩ := hmatch
    exact he e he' hactive

/-- The patterns that join when an entry becomes ACTIVE. -/
def joiningFrames (slot : SlotNo) (e : Installed) (n : Nat) : List PatternRef :=
  if n = e.runCount ∧ (binOf n).isSome = true then
    .frame slot .main :: (if e.alternate.isSome then [.frame slot .alternate] else [])
  else []

theorem State.binList_joinFrames_eq (s : State) (slot : SlotNo) (e : Installed) (n : Nat) :
    (s.joinFrames slot e).binList n = s.binList n ++ joiningFrames slot e n := by
  unfold joiningFrames
  cases hbin : (binOf e.runCount).isSome with
  | true =>
    rw [State.binList_joinFrames s slot e hbin]
    by_cases hn : n = e.runCount
    · subst hn
      simp only [hbin, if_true, and_self]
    · rw [if_neg hn, if_neg (fun hx => hn hx.1), List.append_nil]
  | false =>
    have hsame : ∀ (u : State) r, (u.joinBin e.runCount r).binList n = u.binList n := fun u r => by
      rw [State.binList_joinBin, if_neg (by simp [hbin])]
    rw [if_neg (by rintro ⟨rfl, hx⟩; rw [hbin] at hx; cases hx), List.append_nil]
    unfold State.joinFrames
    simp only
    split
    · rw [hsame, hsame]
    · rw [hsame]

theorem joiningFrames_nodup (slot : SlotNo) (e : Installed) (n : Nat) : (joiningFrames slot e n).Nodup := by
  unfold joiningFrames
  split
  · split <;> simp
  · exact List.nodup_nil

theorem mem_joiningFrames {slot : SlotNo} {e : Installed} {n : Nat} {ref : PatternRef} (hactive : e.status = .active) :
    ref ∈ joiningFrames slot e n ↔ ∃ v, ref = .frame slot v ∧ e.InBin v n := by
  unfold joiningFrames Installed.InBin
  split
  · rename_i hn
    obtain ⟨rfl, hbin⟩ := hn
    constructor
    · intro href
      rcases List.mem_cons.1 href with rfl | href
      · exact ⟨.main, rfl, hactive, rfl, hbin, rfl⟩
      · split at href
        · rename_i halternate
          obtain rfl := List.mem_singleton.1 href
          exact ⟨.alternate, rfl, hactive, rfl, hbin, halternate⟩
        · cases href
    · rintro ⟨v, rfl, -, -, -, hchain⟩
      cases v with
      | main => exact List.mem_cons_self
      | alternate =>
        rw [if_pos (show e.alternate.isSome = true from hchain)]
        simp
  · rename_i hn
    refine ⟨nofun, ?_⟩
    rintro ⟨v, -, -, hrun, hbin, -⟩
    exact absurd ⟨hrun.symm, hbin⟩ hn

theorem joiningFrames_ofSlot {slot : SlotNo} {e : Installed} {n : Nat} {ref : PatternRef}
    (h : ref ∈ joiningFrames slot e n) : ofSlot slot ref = true := by
  unfold joiningFrames at h
  split at h
  · rcases List.mem_cons.1 h with rfl | h
    · simp [ofSlot]
    · split at h
      · obtain rfl := List.mem_singleton.1 h
        simp [ofSlot]
      · cases h
  · cases h

/-- An entry whose patterns were in no bin becomes ACTIVE, and its patterns join. -/
theorem State.BinLaw.activate {s t : State} (h : s.BinLaw) {slot : SlotNo} {e : Installed} (hactive : e.status = .active)
    (hbefore : ∀ e', s.installedAt slot = some e' → e'.status ≠ .active)
    (hbin : ∀ n, t.binList n = s.binList n ++ joiningFrames slot e n) (hgroups : t.groups = s.groups)
    (hinstalled : ∀ other, t.installedAt other = if slot = other then some e else s.installedAt other) : t.BinLaw := by
  refine h.replace (left := ofSlot slot) (new := joiningFrames slot e)
    (fun n => ⟨s.binList n, hbin n, List.Sublist.refl _, h.kept_of_inactive hbefore n⟩) (joiningFrames_nodup slot e)
    (fun n ref href => .inl (joiningFrames_ofSlot href)) fun ref n => ?_
  rw [State.mayMatch_setEntry hgroups hinstalled, mem_joiningFrames hactive]
  simp

/-- An entry leaves, or is no longer ACTIVE, and its patterns leave. -/
theorem State.BinLaw.deactivate {s t : State} (h : s.BinLaw) {slot : SlotNo} {x : Option Installed}
    (hx : ∀ e, x = some e → e.status ≠ .active)
    (hbin : ∀ n, (t.binList n).Sublist (s.binList n) ∧
      ∀ ref, ref ∈ t.binList n ↔ ref ∈ s.binList n ∧ ofSlot slot ref = false)
    (hgroups : t.groups = s.groups)
    (hinstalled : ∀ other, t.installedAt other = if slot = other then x else s.installedAt other) : t.BinLaw := by
  refine h.replace (left := ofSlot slot) (new := fun _ => [])
    (fun n => ⟨t.binList n, by simp, hbin n⟩) (by simp) (by simp) fun ref n => ?_
  rw [State.mayMatch_setEntry hgroups hinstalled]
  refine or_congr_right ⟨?_, nofun⟩
  rintro ⟨v, e, -, rfl, hactive, -⟩
  exact absurd hactive (hx e rfl)

/-- A slot whose entry keeps what its bin holds of it. -/
theorem State.BinLaw.setInstalled {s : State} (h : s.BinLaw) {slot : SlotNo} {e e' : Installed}
    (he : s.installedAt slot = some e) (hsame : ∀ v n, e'.InBin v n ↔ e.InBin v n) :
    (s.setInstalled slot e').BinLaw := by
  refine h.same (fun _ => rfl) fun ref n => ?_
  cases ref with
  | ofGroup g => exact .rfl
  | frame other v =>
    simp only [State.MayMatch, State.installedAt_setInstalled]
    split
    · rename_i heq
      subst heq
      simp [he, hsame]
    · exact .rfl

/-! ### Groups -/

theorem State.mayMatch_setGroup {s t : State} {g : GroupNo} {x : Option Group}
    (hinstalled : ∀ slot, t.installedAt slot = s.installedAt slot)
    (hgroups : ∀ k : GroupNo, t.groups[k] = if g = k then x else s.groups[k]) (ref : PatternRef) (n : Nat) :
    t.MayMatch ref n ↔ s.MayMatch ref n ∧ decide (ref = .ofGroup g) = false ∨
      ref = .ofGroup g ∧ ∃ group, x = some group ∧ group.InBin n := by
  cases ref with
  | frame slot v => simp [State.MayMatch, hinstalled]
  | ofGroup k =>
    simp only [State.MayMatch, hgroups, PatternRef.ofGroup.injEq, decide_eq_false_iff_not]
    by_cases hk : g = k
    · subst hk
      simp
    · have hne : k ≠ g := Ne.symm hk
      simp [hk, hne]

/-- The bin a new repeat pattern joins. -/
def joiningRepeat (g : GroupNo) (x : Option Group) (n : Nat) : List PatternRef :=
  match x with
  | some group => match group.repeatPattern with
    | some p => if group.repeatDamaged = false ∧ n = p.runCount ∧ (binOf n).isSome = true then [.ofGroup g] else []
    | none => []
  | none => []

theorem mem_joiningRepeat {g : GroupNo} {x : Option Group} {n : Nat} {ref : PatternRef} :
    ref ∈ joiningRepeat g x n ↔ ref = .ofGroup g ∧ ∃ group, x = some group ∧ group.InBin n := by
  unfold joiningRepeat Group.InBin
  cases x with
  | none => simp
  | some group =>
    cases hp : group.repeatPattern with
    | none => simp [hp]
    | some p =>
      simp only [hp]
      split
      · rename_i hin
        obtain ⟨hdamaged, rfl, hbin⟩ := hin
        simp [hp, hdamaged, hbin]
      · rename_i hout
        refine ⟨nofun, ?_⟩
        rintro ⟨-, group', hx, p', hp', hdamaged, hrun, hbin⟩
        obtain rfl := Option.some.inj hx
        obtain rfl := Option.some.inj (hp.symm.trans hp')
        exact absurd ⟨hdamaged, hrun.symm, hbin⟩ hout

theorem joiningRepeat_nodup (g : GroupNo) (x : Option Group) (n : Nat) : (joiningRepeat g x n).Nodup := by
  unfold joiningRepeat
  split
  · split
    · split <;> simp
    · exact List.nodup_nil
  · exact List.nodup_nil

/-- A group record replaced: its repeat pattern leaves its bin, and the new one joins. -/
theorem State.BinLaw.replaceGroup {s t : State} (h : s.BinLaw) {g : GroupNo} {x : Option Group}
    (hbin : ∀ n, ∃ kept, t.binList n = kept ++ joiningRepeat g x n ∧ kept.Sublist (s.binList n) ∧
      ∀ ref, ref ∈ kept ↔ ref ∈ s.binList n ∧ decide (ref = .ofGroup g) = false)
    (hinstalled : ∀ slot, t.installedAt slot = s.installedAt slot)
    (hgroups : ∀ k : GroupNo, t.groups[k] = if g = k then x else s.groups[k]) : t.BinLaw := by
  refine h.replace (left := fun ref => decide (ref = .ofGroup g)) (new := joiningRepeat g x) hbin
    (joiningRepeat_nodup g x) (fun n ref href => .inl (by simpa using (mem_joiningRepeat.1 href).1)) fun ref n => ?_
  rw [State.mayMatch_setGroup hinstalled hgroups, mem_joiningRepeat]

/-- A group record that keeps its repeat pattern and its mark. -/
theorem State.BinLaw.sameRepeat {s t : State} (h : s.BinLaw) (hbins : t.bins = s.bins)
    (hinstalled : ∀ slot, t.installedAt slot = s.installedAt slot)
    (hgroups : ∀ k : GroupNo, (t.groups[k]).map (fun x => (x.repeatPattern, x.repeatDamaged)) =
      (s.groups[k]).map (fun x => (x.repeatPattern, x.repeatDamaged))) : t.BinLaw := by
  refine h.same (State.binList_congr hbins) fun ref n => ?_
  cases ref with
  | frame slot v => simp only [State.MayMatch, hinstalled]
  | ofGroup k =>
    have hk := hgroups k
    simp only [State.MayMatch, Group.InBin]
    cases hs : s.groups[k] <;> cases ht : t.groups[k] <;> simp only [hs, ht, Option.map_some, Option.map_none] at hk
    · simp
    · cases hk
    · cases hk
    · obtain ⟨hp, hd⟩ := Prod.mk.inj (Option.some.inj hk)
      simp [hp, hd]

theorem State.BinLaw.changeCount {s : State} (h : s.BinLaw) (g : GroupNo) (f : Nat → Nat) : (s.changeCount g f).BinLaw := by
  unfold State.changeCount
  split
  · rename_i group hg
    refine h.sameRepeat rfl (fun _ => rfl) fun k => ?_
    rw [State.groups_setGroup]
    split
    · rename_i heq
      rw [← heq, hg]
      rfl
    · rfl
  · exact h

/-- The old repeat pattern of a group has left its bin. -/
theorem State.BinLaw.releaseRepeat_kept {s u : State} (h : s.BinLaw) {g : GroupNo} {group : Group} (hbins : u.bins = s.bins)
    (hg : s.groups[g] = some group) (n : Nat) :
    ((u.releaseRepeat g group.repeatPattern).binList n).Sublist (s.binList n) ∧
      ∀ ref, ref ∈ (u.releaseRepeat g group.repeatPattern).binList n ↔
        ref ∈ s.binList n ∧ decide (ref = .ofGroup g) = false := by
  rw [State.binList_releaseRepeat, State.binList_congr hbins]
  split
  · exact ⟨List.filter_sublist, fun ref => by simp [List.mem_filter]⟩
  · rename_i hne
    refine ⟨List.Sublist.refl _, fun ref => ⟨fun hin => ⟨hin, ?_⟩, And.left⟩⟩
    refine decide_eq_false fun href => hne ?_
    obtain ⟨x, hx, p, hp, -, hrun, -⟩ := h.mem_iff.1 (href ▸ hin)
    obtain rfl := Option.some.inj (hg.symm.trans hx)
    rw [hp]
    exact congrArg some hrun

theorem State.BinLaw.undefined_kept {s : State} (h : s.BinLaw) {g : GroupNo} (hg : s.groups[g] = none) (n : Nat)
    (ref : PatternRef) : ref ∈ s.binList n ↔ ref ∈ s.binList n ∧ decide (ref = .ofGroup g) = false := by
  refine ⟨fun hin => ⟨hin, decide_eq_false fun href => ?_⟩, And.left⟩
  obtain ⟨x, hx, -⟩ := h.mem_iff.1 (href ▸ hin)
  exact nomatch hg.symm.trans hx

theorem State.binList_clearToggle (s : State) (g : GroupNo) (n : Nat) : (s.clearToggle g).binList n = s.binList n := rfl

theorem State.defineGroup_groups (s : State) (g k : GroupNo) (settings : GroupSettings) (p : Option Pattern) :
    (s.defineGroup g settings p).groups[k] = if g = k then
      some { settings := settings, repeatPattern := p, repeatDamaged := false, entryCount := 0 } else s.groups[k] := by
  refine Eq.trans ?_ (getElem_set_fin s.groups g k _)
  cases p with
  | none => rfl
  | some p =>
    rw [State.defineGroup_some, (State.joinBin_within _ _ _) .groups (by decide)]

theorem State.BinLaw.defineGroup {s : State} (h : s.BinLaw) {g : GroupNo} (hg : s.groups[g] = none)
    (settings : GroupSettings) (p : Option Pattern) : (s.defineGroup g settings p).BinLaw := by
  have hw := s.defineGroup_within g settings p
  have hinstalled : ∀ slot, (s.defineGroup g settings p).installedAt slot = s.installedAt slot := fun slot => by
    unfold State.installedAt
    rw [hw .entries (by decide)]
  let x : Group := { settings := settings, repeatPattern := p, repeatDamaged := false, entryCount := 0 }
  refine h.replaceGroup (g := g) (x := some x) (fun n => ?_) hinstalled fun k => s.defineGroup_groups g k settings p
  refine ⟨s.binList n, ?_, List.Sublist.refl _, h.undefined_kept hg n⟩
  cases p with
  | none => exact (List.append_nil _).symm
  | some p =>
    rw [State.defineGroup_some, State.binList_joinBin]
    simp only [joiningRepeat, x, true_and]
    by_cases hn : n = p.runCount
    · subst hn
      simp only [true_and]
      split
      · rfl
      · exact (List.append_nil _).symm
    · rw [if_neg (fun hx => hn hx.1), if_neg (fun hx => hn hx.1), List.append_nil]
      rfl

/-- A GROUP EDIT that keeps the repeat pattern. -/
theorem State.editGroup_keep (s : State) (g : GroupNo) {task : Task} (group : Group) (h : repeatChoice (task.word 0) = 0) :
    s.editGroup g task group =
      (s.setGroup g (some { group with settings := task.settings })).sendNotice (.groupChanged g) := by
  simp only [State.editGroup, h]

/-- A GROUP EDIT with a new repeat pattern. -/
theorem State.editGroup_replace (s : State) (g : GroupNo) {task : Task} (group : Group)
    (h : repeatChoice (task.word 0) = 1) :
    s.editGroup g task group =
      (State.joinBin (State.setPool (State.releaseRepeat (s.setGroup g (some { group with
          settings := task.settings, repeatPattern := some (s.newRepeat task), repeatDamaged := false }))
          g group.repeatPattern)
        (State.releaseRepeat (s.setGroup g (some { group with
          settings := task.settings, repeatPattern := some (s.newRepeat task), repeatDamaged := false }))
          g group.repeatPattern).pool.ownReservation)
        (s.newRepeat task).runCount (.ofGroup g)).sendNotice (.groupChanged g) := by
  simp only [State.editGroup, h]

/-- A GROUP EDIT that removes the repeat pattern. -/
theorem State.editGroup_remove (s : State) (g : GroupNo) {task : Task} (group : Group)
    (h0 : repeatChoice (task.word 0) ≠ 0) (h1 : repeatChoice (task.word 0) ≠ 1) :
    s.editGroup g task group =
      (State.releaseRepeat (s.setGroup g (some { group with
        settings := task.settings, repeatPattern := none, repeatDamaged := false }))
        g group.repeatPattern).sendNotice (.groupChanged g) := by
  simp only [State.editGroup]

theorem State.releaseRepeat_groups (s : State) (g k : GroupNo) (x : Option Group) (p : Option Pattern) :
    ((s.setGroup g x).releaseRepeat g p).groups[k] = if g = k then x else s.groups[k] := by
  rw [(State.releaseRepeat_within _ g p) .groups (by decide), State.groups_setGroup]

theorem State.BinLaw.editGroup {s : State} (h : s.BinLaw) {g : GroupNo} {group : Group} (hg : s.groups[g] = some group)
    (task : Task) : (s.editGroup g task group).BinLaw := by
  have hinstalled : ∀ slot, (s.editGroup g task group).installedAt slot = s.installedAt slot := fun slot => by
    unfold State.installedAt
    rw [(s.editGroup_within g task group) .entries (by decide)]
  by_cases h0 : repeatChoice (task.word 0) = 0
  · rw [State.editGroup_keep s g group h0] at hinstalled ⊢
    refine h.sameRepeat rfl hinstalled fun k => ?_
    show ((s.setGroup g _).groups[k]).map _ = _
    rw [State.groups_setGroup]
    split
    · rename_i heq
      rw [← heq, hg]
      rfl
    · rfl
  by_cases h1 : repeatChoice (task.word 0) = 1
  · rw [State.editGroup_replace s g group h1] at hinstalled ⊢
    refine h.replaceGroup (g := g) (x := some { group with
      settings := task.settings, repeatPattern := some (s.newRepeat task), repeatDamaged := false }) (fun n => ?_) hinstalled
      fun k => ?_
    · obtain ⟨hsub, hmem⟩ := h.releaseRepeat_kept (u := s.setGroup g (some { group with
        settings := task.settings, repeatPattern := some (s.newRepeat task), repeatDamaged := false })) rfl hg n
      refine ⟨_, ?_, hsub, hmem⟩
      show State.binList (State.joinBin _ _ _) n = _
      rw [State.binList_joinBin]
      simp only [joiningRepeat, true_and]
      by_cases hn : n = (s.newRepeat task).runCount
      · rw [hn]
        simp only [true_and]
        split
        · rfl
        · exact (List.append_nil _).symm
      · rw [if_neg (fun hx => hn hx.1), if_neg (fun hx => hn hx.1), List.append_nil]
        rfl
    · refine Eq.trans ?_ (s.releaseRepeat_groups g k _ group.repeatPattern)
      show (State.joinBin _ _ _).groups[k] = _
      rw [(State.joinBin_within _ _ _) .groups (by decide)]
      rfl
  · rw [State.editGroup_remove s g group h0 h1] at hinstalled ⊢
    refine h.replaceGroup (g := g) (x := some { group with
      settings := task.settings, repeatPattern := none, repeatDamaged := false }) (fun n => ?_) hinstalled
      fun k => s.releaseRepeat_groups g k _ group.repeatPattern
    obtain ⟨hsub, hmem⟩ := h.releaseRepeat_kept (u := s.setGroup g (some { group with
      settings := task.settings, repeatPattern := none, repeatDamaged := false })) rfl hg n
    exact ⟨_, (List.append_nil _).symm, hsub, hmem⟩

theorem State.BinLaw.removeGroup {s : State} (h : s.BinLaw) {g : GroupNo} {group : Group} (hg : s.groups[g] = some group) :
    (((s.releaseRepeat g group.repeatPattern).setGroup g none).clearToggle g).BinLaw := by
  have hw := s.releaseRepeat_within g group.repeatPattern
  refine h.replaceGroup (g := g) (x := none) (fun n => ?_) (fun slot => ?_) fun k => ?_
  · obtain ⟨hsub, hmem⟩ := h.releaseRepeat_kept (u := s) rfl hg n
    exact ⟨_, (List.append_nil _).symm, hsub, hmem⟩
  · show (s.releaseRepeat g group.repeatPattern).installedAt slot = _
    unfold State.installedAt
    rw [hw .entries (by decide)]
  · show ((s.releaseRepeat g group.repeatPattern).setGroup g none).groups[k] = _
    rw [State.groups_setGroup, hw .groups (by decide)]

/-! ### The bodies of the table steps -/

theorem installParameterBody_binLaw (task : Task) (held : Bool) {s : State} (h : s.BinLaw) :
    (installParameterBody task held s).BinLaw := by
  have hfailed : ∀ outcome, (s.stepFailed task outcome).BinLaw := fun outcome =>
    h.within (s.stepFailed_within _ _) (by decide) (by decide) (by decide)
  unfold installParameterBody
  simp only
  split
  · exact hfailed _
  split
  · exact hfailed _
  split
  · exact hfailed _
  split
  · exact hfailed _
  rename_i slot hfree
  split
  · exact hfailed _
  rename_i p _
  have hloading : ((s.setLoading slot task.loading).setPool p).BinLaw := by
    refine h.of_installed rfl rfl fun other => ?_
    refine (s.installedAt_setEntry slot other _).trans ?_
    split
    · rename_i heq
      unfold State.installedAt
      rw [← heq, State.lowestFreeSlot_free hfree]
    · rfl
  exact hloading.within (State.stepPassed_within _ _ _) (by decide) (by decide) (by decide)

theorem State.BinLaw.freeLoadingSlot {s : State} (h : s.BinLaw) {slot : SlotNo} {l : Loading}
    (hl : s.entries[slot].occupant = .loading l) : (s.freeSlot slot).BinLaw := by
  refine h.of_installed rfl rfl fun other => ?_
  refine (s.installedAt_setEntry slot other _).trans ?_
  split
  · rename_i heq
    exact heq ▸ (State.installedAt_none_of_loading hl).symm
  · rfl

theorem State.cleanUp_binLaw {s : State} (h : s.BinLaw) : s.cleanUp.BinLaw := by
  unfold State.cleanUp
  split
  · split
    · have hserved : (s.served .host).BinLaw := h.of_eq rfl rfl rfl
      have hfreed : (s.served .host).freeLoading.BinLaw := by
        unfold State.freeLoading
        split
        · rename_i slot hslot
          obtain ⟨l, hl⟩ := State.loadingSlot_loading hslot
          exact hserved.freeLoadingSlot hl
        · exact hserved
      exact hfreed.returnReservation.within (State.endTask_within _ _ _ _) (by decide) (by decide) (by decide)
    all_goals exact h
  · exact h

theorem State.BinLaw.completeInstall {s : State} (h : s.BinLaw) {slot : SlotNo} {l : Loading}
    (hl : s.entries[slot].occupant = .loading l) : (s.completeInstall slot l).1.BinLaw := by
  unfold State.completeInstall
  simp only
  refine State.BinLaw.changeCount ?_ _ _
  refine h.activate (slot := slot) (e := l.install s.pool.reservation) rfl
    (fun e' he' => nomatch (State.installedAt_none_of_loading hl).symm.trans he')
    (State.binList_joinFrames_eq _ slot _) ((State.joinFrames_within _ _ _) .groups (by decide)) fun other => ?_
  have hentries := (State.joinFrames_within (State.setPool (s.setEntry slot {
    generation := nextGeneration s.entries[slot].generation, occupant := .installed (l.install s.pool.reservation) })
    s.pool.ownReservation) slot (l.install s.pool.reservation)) .entries (by decide)
  unfold State.installedAt
  rw [hentries]
  exact s.installedAt_setEntry slot other _

theorem installFinalBody_binLaw (task : Task) (held : Bool) {s : State} (h : s.BinLaw) :
    (installFinalBody task held s).BinLaw := by
  unfold installFinalBody
  split
  · exact h
  · rename_i slot l hloading
    have hm := conflictCheck_marked (s.installUnderTest l) (s.conflictSet (fun _ => false)) s
    have hl : ∀ u : State, s.Marked u → u.entries[slot].occupant = .loading l := fun u hu =>
      (hu.loading slot l).2 (State.loading?_eq_some hloading)
    split <;> rename_i hs <;> rw [hs] at hm
    · exact ((hm.binLaw h).freeLoadingSlot (hl _ hm)).returnReservation.finish _ _ _ _
    · exact ((hm.binLaw h).freeLoadingSlot (hl _ hm)).returnReservation.finish _ _ _ _
    · exact ((hm.binLaw h).completeInstall (hl _ hm)).finish _ _ _ _

theorem groupDefineFinalBody_binLaw (task : Task) (held : Bool) {s : State} (h : s.BinLaw)
    (hg : repeatChoice (task.word 0) = 1 → s.groups[argGroup task.arg] = none) :
    (groupDefineFinalBody task held s).BinLaw := by
  unfold groupDefineFinalBody
  simp only
  split
  · rename_i hrepeat
    have hm := conflictCheck_marked [reservedRepeatContender task (s.newRepeat task)] (s.conflictSet (fun _ => false)) s
    split <;> rename_i hs <;> rw [hs] at hm
    · exact (hm.binLaw h).returnReservation.finish _ _ _ _
    · exact (hm.binLaw h).returnReservation.finish _ _ _ _
    · refine ((hm.binLaw h).defineGroup ?_ _ _).finish _ _ _ _
      have hsome := hm.group_isSome (argGroup task.arg)
      rw [hg hrepeat] at hsome
      exact Option.isNone_iff_eq_none.1 (by simpa using hsome)
  · split
    · exact h.finish _ _ _ _
    · rename_i hnone
      exact (h.defineGroup (by simpa using hnone) _ _).finish _ _ _ _

theorem groupEditFinalBody_binLaw (task : Task) (held : Bool) {s : State} (h : s.BinLaw) :
    (groupEditFinalBody task held s).BinLaw := by
  unfold groupEditFinalBody
  simp only
  split
  · exact h.finish _ _ _ _
  · have hm := conflictCheck_marked (s.editUnderTest (argGroup task.arg) task)
      (s.conflictSet (s.belongsTo (argGroup task.arg))) s
    split <;> rename_i hs <;> rw [hs] at hm
    · exact (hm.binLaw h).returnReservation.finish _ _ _ _
    · exact (hm.binLaw h).returnReservation.finish _ _ _ _
    · split
      · rename_i hg
        exact ((hm.binLaw h).editGroup hg task).finish _ _ _ _
      · exact (hm.binLaw h).finish _ _ _ _

theorem groupRemoveBody_binLaw (task : Task) (held : Bool) {s : State} (h : s.BinLaw) :
    (groupRemoveBody task held s).BinLaw := by
  unfold groupRemoveBody
  simp only
  split
  · exact h.finish _ _ _ _
  · rename_i hg
    split
    · exact h.finish _ _ _ _
    · exact (h.removeGroup hg).finish _ _ _ _

theorem State.writeEdit_binLaw {s : State} (h : s.BinLaw) (task : Task) (held : Bool) (slot : SlotNo) :
    (s.writeEdit task held slot).BinLaw := by
  unfold State.writeEdit
  split
  · exact h.finish _ _ _ _
  · rename_i e he
    split
    · exact h.finish _ _ _ _
    · refine (h.setInstalled he fun v n => ?_).finish _ _ _ _
      cases v <;> exact .rfl

theorem entryEditBody_binLaw (task : Task) (held : Bool) {s : State} (h : s.BinLaw) :
    (entryEditBody task held s).BinLaw := by
  unfold entryEditBody
  split
  · exact h.finish _ _ _ _
  · rename_i hd e _
    split
    · exact h.finish _ _ _ _
    split
    · exact h.finish _ _ _ _
    have hm := s.editCheck_marked hd.slot e (editTolerance task e)
    split <;> rename_i hs <;> rw [hs] at hm
    · exact (hm.binLaw h).finish _ _ _ _
    · exact State.writeEdit_binLaw (hm.binLaw h) task held _
    · exact State.writeEdit_binLaw (hm.binLaw h) task held _

theorem suspendBody_binLaw (task : Task) (held : Bool) {s : State} (h : s.BinLaw) :
    (suspendBody task held s).BinLaw := by
  unfold suspendBody
  split
  · exact h.finish _ _ _ _
  · rename_i hd e hcurrent
    split
    · exact h.finish _ _ _ _
    · exact h.finish _ _ _ _
    · refine State.BinLaw.finish ?_ _ _ _ _
      have he := s.installedAt_of_currentWord hcurrent
      refine h.deactivate (slot := hd.slot) (x := some { e with status := .suspended }) (by rintro _ ⟨⟩ hx; cases hx)
        (h.leaveFrames_kept he) ((s.leaveFrames_within _ _) .groups (by decide)) fun other => ?_
      refine (State.installedAt_setInstalled _ hd.slot other _).trans ?_
      obtain ⟨bins, hbins⟩ := s.leaveFrames_frame hd.slot e
      rw [hbins]
      rfl

theorem resumeBody_binLaw (task : Task) (held : Bool) {s : State} (h : s.BinLaw) : (resumeBody task held s).BinLaw := by
  unfold resumeBody
  split
  · exact h.finish _ _ _ _
  · rename_i hd e hcurrent
    split
    · exact h.finish _ _ _ _
    · exact h.finish _ _ _ _
    · rename_i hstatus
      refine State.BinLaw.finish ?_ _ _ _ _
      have he := s.installedAt_of_currentWord hcurrent
      have hw := State.joinFrames_within (s.setInstalled hd.slot { e with status := .active }) hd.slot e
      refine h.activate (slot := hd.slot) (e := { e with status := .active }) rfl (fun e' he' => ?_)
        (State.binList_joinFrames_eq _ hd.slot e) (hw .groups (by decide)) fun other => ?_
      · obtain rfl := Option.some.inj (he.symm.trans he')
        rw [hstatus]
        decide
      · unfold State.installedAt
        rw [hw .entries (by decide)]
        exact s.installedAt_setInstalled hd.slot other _

theorem State.BinLaw.retireEntry {s : State} (h : s.BinLaw) {hd : Handle} {e : Installed}
    (he : s.installedAt hd.slot = some e) : (s.retireEntry hd e).BinLaw := by
  have hleft : State.BinLaw { s with
      entries := s.entries.set hd.slot { s.entries[hd.slot] with occupant := .free }
      bins := if e.status = .active then (s.leaveFrames hd.slot e).bins else s.bins } := by
    refine h.deactivate (slot := hd.slot) (x := none) nofun (fun n => ?_) rfl
      (fun other => s.installedAt_setEntry hd.slot other _)
    by_cases hactive : e.status = .active
    · have hkept := h.leaveFrames_kept he n
      rw [State.binList_congr (s := s.leaveFrames hd.slot e) (if_pos hactive)]
      exact hkept
    · rw [State.binList_congr (s := s) (if_neg hactive)]
      refine ⟨List.Sublist.refl _, h.kept_of_inactive (fun e' he' => ?_) n⟩
      obtain rfl := Option.some.inj (he.symm.trans he')
      exact hactive
  rw [State.retireEntry_parts]
  have hcount := hleft.changeCount e.group (· - 1)
  rw [State.changeCount_frame, State.changeCount_groups (s := s) (t := { s with
      entries := s.entries.set hd.slot { s.entries[hd.slot] with occupant := .free }
      bins := if e.status = .active then (s.leaveFrames hd.slot e).bins else s.bins }) rfl] at hcount
  exact hcount.of_eq rfl rfl rfl

theorem retireBody_binLaw (task : Task) (held : Bool) {s : State} (h : s.BinLaw) : (retireBody task held s).BinLaw := by
  unfold retireBody
  split
  · exact h.finish _ _ _ _
  · rename_i hcurrent
    exact (h.retireEntry (s.installedAt_of_currentWord hcurrent)).finish _ _ _ _

theorem entryReadBody_binLaw (task : Task) (held : Bool) {s : State} (h : s.BinLaw) :
    (entryReadBody task held s).BinLaw := by
  unfold entryReadBody
  split
  · exact h.finish _ _ _ _
  · rename_i hd e _
    exact ((s.readFrames_marked hd.slot e).binLaw h).finish _ _ _ _

theorem groupReadBody_binLaw (task : Task) (held : Bool) {s : State} (h : s.BinLaw) :
    (groupReadBody task held s).BinLaw := by
  unfold groupReadBody
  simp only
  split
  · exact h.finish _ _ _ _
  · rename_i group _
    exact ((s.readRepeat_marked (argGroup task.arg) group.repeatPattern).binLaw h).finish _ _ _ _

theorem exec_lookup_binLaw {i : InputId} {s t : State} (h : exec (.lookup i) s = .next t) (hs : s.BinLaw) : t.BinLaw := by
  cases h
  split
  · rename_i b _ _
    have hbegin : (s.beginLookup i b).BinLaw := hs.of_eq rfl rfl rfl
    unfold State.runLookup
    split
    · exact hbegin
    · rename_i b' _
      have hvisited := (State.visits_marked b' ((s.beginLookup i b).binList b'.runs.length)
        (s.beginLookup i b, .none)).binLaw hbegin
      exact hvisited.within (State.endLookup_within _ _ _) (by decide) (by decide) (by decide)
  · exact hs

theorem exec_damageNotice_binLaw {o : OutputId} {s t : State} (h : exec (.damageNotice o) s = .next t) (hs : s.BinLaw) :
    t.BinLaw := by
  cases h
  split
  · rename_i d _ _
    have hserved : (s.served (.output o)).BinLaw := hs.of_eq rfl rfl rfl
    have htaken : ((s.served (.output o)).takeDamage d).BinLaw := by
      unfold State.takeDamage
      split
      · split
        · exact (State.damagePattern_marked _ _).binLaw hserved
        · exact hserved.of_eq rfl rfl rfl
      · exact hserved.of_eq rfl rfl rfl
    exact htaken.within (State.raiseDeferred_within _ o) (by decide) (by decide) (by decide)
  · exact hs

/-- The group of the GROUP DEFINE whose final step is served. -/
theorem defined_group_none {s : State} {task : Task} {held : Bool} (hclaimLaw : s.HostClaimLaw) (hwork : s.WorkLaw)
    (hclaim : s.claims.host = some .groupDefineFinal)
    (hengine : s.port.engine = .execute task held ∨ s.port.engine = .parameter task (.step held))
    (hrepeat : repeatChoice (task.word 0) = 1) : s.groups[argGroup task.arg] = none := by
  rcases tableStep_phase hclaimLaw hclaim hengine with ⟨hexecute, hstep⟩ | ⟨-, hparameter⟩
  · refine hwork.1 task (.inr ⟨held, hexecute⟩) ?_ hrepeat
    revert hstep
    cases task.command <;> first | exact fun _ => rfl | exact nofun
  · revert hparameter
    cases task.command <;> exact nofun

theorem exec_binLaw {c : Instr} {s t : State} (h : exec c s = .next t) (hclaimLaw : s.HostClaimLaw) (hwork : s.WorkLaw)
    (hs : s.BinLaw) : t.BinLaw := by
  have hstep : ∀ step body, tableStepOf c = some (step, body) →
      (∀ task held, s.claims.host = some step →
        (s.port.engine = .execute task held ∨ s.port.engine = .parameter task (.step held)) →
        (body task held (s.served .host)).BinLaw) → t.BinLaw := by
    intro step body hbody hkeep
    rcases exec_tableStep_cases hbody h with rfl | ⟨task, held, rfl, hclaim, hengine⟩
    · exact hs
    · exact hkeep task held hclaim hengine
  have hserved : (s.served .host).BinLaw := hs.of_eq rfl rfl rfl
  cases c
  case hardwareReset =>
    cases h
    exact .of_empty (fun n => by unfold State.binList; split <;> simp [State.hardwareReset, State.reset])
      (fun slot => by simp [State.installedAt, State.hardwareReset, State.reset])
      (fun g => by simp [State.hardwareReset, State.reset])
  case initializeTableStep =>
    exact hstep _ _ rfl fun task held _ _ => .of_empty
      (fun n => by unfold State.binList; split <;> simp [State.initializeTable])
      (fun slot => by simp [State.installedAt, State.initializeTable])
      (fun g => by simp [State.initializeTable])
  case lookup i => exact exec_lookup_binLaw h hs
  case damageNotice o => exact exec_damageNotice_binLaw h hs
  case parameterPhaseCleanUp =>
    cases h
    exact State.cleanUp_binLaw hs
  case installParameterStep => exact hstep _ _ rfl fun task held _ _ => installParameterBody_binLaw task held hserved
  case installFinalStep => exact hstep _ _ rfl fun task held _ _ => installFinalBody_binLaw task held hserved
  case groupDefineFinalStep =>
    exact hstep _ _ rfl fun task held hclaim hengine => groupDefineFinalBody_binLaw task held hserved
      (defined_group_none (s := s) hclaimLaw hwork hclaim hengine)
  case groupEditFinalStep => exact hstep _ _ rfl fun task held _ _ => groupEditFinalBody_binLaw task held hserved
  case groupRemoveStep => exact hstep _ _ rfl fun task held _ _ => groupRemoveBody_binLaw task held hserved
  case entryEditStep => exact hstep _ _ rfl fun task held _ _ => entryEditBody_binLaw task held hserved
  case suspend => exact hstep _ _ rfl fun task held _ _ => suspendBody_binLaw task held hserved
  case resume => exact hstep _ _ rfl fun task held _ _ => resumeBody_binLaw task held hserved
  case retire => exact hstep _ _ rfl fun task held _ _ => retireBody_binLaw task held hserved
  case entryReadStep => exact hstep _ _ rfl fun task held _ _ => entryReadBody_binLaw task held hserved
  case groupReadStep => exact hstep _ _ rfl fun task held _ _ => groupReadBody_binLaw task held hserved
  all_goals
    exact hs.within (exec_within _ s t h) (by simp only [touches]; decide) (by simp only [touches]; decide)
      (by simp only [touches]; decide)

end Sys2Proof.Machine
end

section
/-! SUPPORT. The entry counts under each command: law 9 (R20). -/

namespace Sys2Proof.Machine

/-- The group of the entry of a slot. -/
def State.groupAt (s : State) (slot : SlotNo) : Option GroupNo := (s.installedAt slot).map Installed.group

/-- The entry count of a group that is DEFINED. -/
def State.countOf (s : State) (g : GroupNo) : Option Nat := (s.groups[g]).map Group.entryCount

theorem State.slotsOfGroup_eq (s : State) (g : GroupNo) :
    s.slotsOfGroup g = (List.finRange 128).filter fun slot => decide (s.groupAt slot = some g) := by
  unfold State.slotsOfGroup State.groupAt
  congr 1
  funext slot
  cases s.installedAt slot <;> simp

theorem State.countLaw_iff (s : State) :
    s.CountLaw ↔ (∀ g n, s.countOf g = some n → n = (s.slotsOfGroup g).length) ∧
      ∀ slot g, s.groupAt slot = some g → (s.countOf g).isSome = true := by
  refine and_congr (forall_congr' fun g => ?_) (forall_congr' fun slot => ?_)
  · unfold State.countOf
    cases s.groups[g] <;> simp
  · unfold State.groupAt State.countOf
    cases s.installedAt slot <;> simp

theorem State.CountLaw.congr {s t : State} (h : s.CountLaw) (hgroup : ∀ slot, t.groupAt slot = s.groupAt slot)
    (hcount : ∀ g, t.countOf g = s.countOf g) : t.CountLaw := by
  obtain ⟨hlength, hdefined⟩ := s.countLaw_iff.1 h
  refine t.countLaw_iff.2 ⟨fun g n hn => ?_, fun slot g hg => ?_⟩
  · rw [hlength g n ((hcount g).symm.trans hn), State.slotsOfGroup_eq, State.slotsOfGroup_eq]
    simp only [hgroup]
  · rw [hcount]
    exact hdefined slot g ((hgroup slot).symm.trans hg)

/-- A slot that is added to those of a group. -/
theorem length_filter_finRange_succ {n : Nat} {p q : Fin n → Bool} {i : Fin n} (hp : p i = false) (hq : q i = true)
    (hrest : ∀ j, j ≠ i → q j = p j) :
    ((List.finRange n).filter q).length = ((List.finRange n).filter p).length + 1 := by
  have hperm : ((List.finRange n).filter q).Perm (i :: (List.finRange n).filter p) := by
    refine (List.perm_ext_iff_of_nodup ((List.nodup_finRange n).filter q) (List.nodup_cons.2 ⟨?_,
      (List.nodup_finRange n).filter p⟩)).2 fun j => ?_
    · simp [hp]
    · by_cases hj : j = i
      · simp [hj, hq]
      · simp [hj, hrest j hj]
  exact hperm.length_eq

theorem State.slotsOfGroup_length_of_added {s t : State} {slot : SlotNo} {g : GroupNo} (hbefore : s.groupAt slot = none)
    (hafter : ∀ other, t.groupAt other = if slot = other then some g else s.groupAt other) (k : GroupNo) :
    (t.slotsOfGroup k).length = (s.slotsOfGroup k).length + if g = k then 1 else 0 := by
  rw [State.slotsOfGroup_eq, State.slotsOfGroup_eq]
  split
  · rename_i hk
    refine length_filter_finRange_succ (i := slot) (by simp [hbefore]) (by simp [hafter, hk]) fun j hj => ?_
    simp [hafter, Ne.symm hj]
  · rename_i hk
    rw [Nat.add_zero]
    refine congrArg List.length (List.filter_congr fun j _ => ?_)
    rw [hafter]
    split
    · rename_i hj
      simp [← hj, hbefore, hk]
    · rfl

/-- An entry joins a DEFINED group, whose count rises. -/
theorem State.CountLaw.added {s t : State} (h : s.CountLaw) {slot : SlotNo} {g : GroupNo}
    (hbefore : s.groupAt slot = none) (hdefined : (s.countOf g).isSome = true)
    (hgroup : ∀ other, t.groupAt other = if slot = other then some g else s.groupAt other)
    (hcount : ∀ k, t.countOf k = if g = k then (s.countOf g).map (· + 1) else s.countOf k) : t.CountLaw := by
  obtain ⟨hlength, hdef⟩ := s.countLaw_iff.1 h
  refine t.countLaw_iff.2 ⟨fun k n hn => ?_, fun other k hk => ?_⟩
  · rw [State.slotsOfGroup_length_of_added hbefore hgroup]
    rw [hcount] at hn
    split at hn
    · rename_i heq
      subst heq
      obtain ⟨m, hm, rfl⟩ := Option.map_eq_some_iff.1 hn
      rw [if_pos rfl, hlength g m hm]
    · rename_i hne
      rw [if_neg hne, hlength k n hn, Nat.add_zero]
  · rw [hgroup] at hk
    rw [hcount]
    split
    · simpa using hdefined
    · rename_i hne
      split at hk
      · exact absurd (Option.some.inj hk) hne
      · exact hdef other k hk

/-- An entry leaves its group, whose count falls. -/
theorem State.CountLaw.removed {s t : State} (h : s.CountLaw) {slot : SlotNo} {g : GroupNo}
    (hbefore : s.groupAt slot = some g)
    (hgroup : ∀ other, t.groupAt other = if slot = other then none else s.groupAt other)
    (hcount : ∀ k, t.countOf k = if g = k then (s.countOf g).map (· - 1) else s.countOf k) : t.CountLaw := by
  obtain ⟨hlength, hdef⟩ := s.countLaw_iff.1 h
  have hback : ∀ k, (s.slotsOfGroup k).length = (t.slotsOfGroup k).length + if g = k then 1 else 0 := by
    refine State.slotsOfGroup_length_of_added (slot := slot) (by simp [hgroup]) fun other => ?_
    rw [hgroup]
    split
    · rename_i heq
      exact heq ▸ hbefore
    · rfl
  refine t.countLaw_iff.2 ⟨fun k n hn => ?_, fun other k hk => ?_⟩
  · have hk := hback k
    rw [hcount] at hn
    split at hn
    · rename_i heq
      subst heq
      obtain ⟨m, hm, rfl⟩ := Option.map_eq_some_iff.1 hn
      rw [if_pos rfl] at hk
      have := hlength g m hm
      omega
    · rename_i hne
      rw [if_neg hne] at hk
      have := hlength k n hn
      omega
  · rw [hgroup] at hk
    split at hk
    · cases hk
    · have hsome := hdef other k hk
      rw [hcount]
      split
      · rename_i heq
        simpa [heq] using hsome
      · exact hsome

/-- A group without entries is DEFINED or removed. -/
theorem State.CountLaw.emptyGroup {s t : State} (h : s.CountLaw) {g : GroupNo} {x : Option Nat}
    (hempty : ∀ slot, s.groupAt slot ≠ some g) (hx : ∀ n, x = some n → n = 0)
    (hgroup : ∀ slot, t.groupAt slot = s.groupAt slot)
    (hcount : ∀ k, t.countOf k = if g = k then x else s.countOf k) : t.CountLaw := by
  obtain ⟨hlength, hdef⟩ := s.countLaw_iff.1 h
  refine t.countLaw_iff.2 ⟨fun k n hn => ?_, fun slot k hk => ?_⟩
  · have hsame : t.slotsOfGroup k = s.slotsOfGroup k := by
      rw [State.slotsOfGroup_eq, State.slotsOfGroup_eq]
      simp only [hgroup]
    rw [hsame]
    rw [hcount] at hn
    split at hn
    · rename_i heq
      subst heq
      rw [hx n hn, State.slotsOfGroup_eq]
      simp [hempty]
    · exact hlength k n hn
  · rw [hgroup] at hk
    rw [hcount, if_neg (by rintro rfl; exact hempty slot hk)]
    exact hdef slot k hk

theorem State.CountLaw.of_empty {t : State} (hinstalled : ∀ slot, t.installedAt slot = none)
    (hgroups : ∀ g : GroupNo, t.groups[g] = none) : t.CountLaw :=
  ⟨fun g _ h => (nomatch (hgroups g).symm.trans h), fun slot _ h => (nomatch (hinstalled slot).symm.trans h)⟩

/-! ### What leaves the counts as they are -/

/-- The same groups hold the same entries. -/
structure State.SameCounts (s t : State) : Prop where
  group : ∀ slot, t.groupAt slot = s.groupAt slot
  count : ∀ g, t.countOf g = s.countOf g

theorem State.SameCounts.trans {s t u : State} (h : s.SameCounts t) (k : t.SameCounts u) : s.SameCounts u where
  group slot := (k.group slot).trans (h.group slot)
  count g := (k.count g).trans (h.count g)

theorem State.SameCounts.refl (s : State) : s.SameCounts s := ⟨fun _ => rfl, fun _ => rfl⟩

theorem State.CountLaw.same {s t : State} (h : s.CountLaw) (hsame : s.SameCounts t) : t.CountLaw :=
  h.congr hsame.group hsame.count

theorem State.SameEntries.groupAt {s t : State} (h : s.SameEntries t) (slot : SlotNo) :
    t.groupAt slot = s.groupAt slot := by
  unfold State.groupAt State.installedAt
  rcases (h slot).2 with hocc | ⟨e, status, m, a, he, hocc⟩ <;> rw [hocc]
  rw [he]
  rfl

theorem State.Within.sameCounts {l : List Part} {s t : State} (h : State.Within l s t) (hentries : Part.entries ∉ l)
    (hgroups : Part.groups ∉ l) : s.SameCounts t where
  group := (h.sameEntries hentries).groupAt
  count g := by unfold State.countOf; rw [h .groups hgroups]

theorem State.Marked.sameCounts {s t : State} (h : s.Marked t) : s.SameCounts t where
  group := h.sameEntries.groupAt
  count g := by
    unfold State.countOf
    rcases h.group g with hg | ⟨x, hx, hg⟩ <;> rw [hg]
    rw [hx]
    rfl

theorem State.countOf_setGroup (s : State) (g k : GroupNo) (x : Option Group) :
    (s.setGroup g x).countOf k = if g = k then x.map Group.entryCount else s.countOf k := by
  unfold State.countOf
  rw [State.groups_setGroup]
  split <;> rfl

theorem State.countOf_changeCount (s : State) (g k : GroupNo) (f : Nat → Nat) :
    (s.changeCount g f).countOf k = if g = k then (s.countOf g).map f else s.countOf k := by
  unfold State.changeCount
  split
  · rename_i group hg
    rw [State.countOf_setGroup]
    unfold State.countOf
    rw [hg]
    rfl
  · rename_i hg
    split
    · rename_i hk
      rw [← hk]
      unfold State.countOf
      rw [hg]
      rfl
    · rfl

theorem State.groupAt_setEntry (s : State) (slot other : SlotNo) (x : Entry) :
    (s.setEntry slot x).groupAt other = if slot = other then
      (match x.occupant with | .installed e => some e.group | .free | .loading _ => none) else s.groupAt other := by
  unfold State.groupAt
  rw [State.installedAt_setEntry]
  split
  · cases x.occupant <;> rfl
  · rfl

theorem State.freeSlot_sameCounts {s : State} {slot : SlotNo} (hs : s.groupAt slot = none) :
    s.SameCounts (s.freeSlot slot) where
  group other := by
    refine (s.groupAt_setEntry slot other _).trans ?_
    split
    · rename_i heq
      rw [← heq, hs]
    · rfl
  count _ := rfl

theorem State.groupAt_of_loading {s : State} {slot : SlotNo} {l : Loading} (hl : s.entries[slot].occupant = .loading l) :
    s.groupAt slot = none := by
  unfold State.groupAt
  rw [State.installedAt_none_of_loading hl]
  rfl

theorem State.finish_sameCounts (s : State) (task : Task) (held : Bool) (outcome : HostOutcome) (results : List Word) :
    s.SameCounts (s.finish task held outcome results) :=
  (s.finish_within task held outcome results).sameCounts (by decide) (by decide)

theorem State.returnReservation_sameCounts (s : State) : s.SameCounts s.returnReservation :=
  s.returnReservation_within.sameCounts (by decide) (by decide)

theorem State.served_sameCounts (s : State) (p : Position) : s.SameCounts (s.served p) := ⟨fun _ => rfl, fun _ => rfl⟩

/-! ### The bodies of the table steps -/

theorem installParameterBody_sameCounts (task : Task) (held : Bool) (s : State) :
    s.SameCounts (installParameterBody task held s) := by
  have hfailed : ∀ outcome, s.SameCounts (s.stepFailed task outcome) := fun outcome =>
    (s.stepFailed_within _ _).sameCounts (by decide) (by decide)
  unfold installParameterBody
  simp only
  split
  · exact hfailed _
  split
  · exact hfailed _
  split
  · exact hfailed _
  split
  · exact hfailed _
  rename_i slot hfree
  split
  · exact hfailed _
  rename_i p _
  have hloading : s.SameCounts ((s.setLoading slot task.loading).setPool p) := by
    refine ⟨fun other => (s.groupAt_setEntry slot other _).trans ?_, fun _ => rfl⟩
    split
    · rename_i heq
      unfold State.groupAt State.installedAt
      rw [← heq, State.lowestFreeSlot_free hfree]
      rfl
    · rfl
  exact hloading.trans ((State.stepPassed_within _ _ _).sameCounts (by decide) (by decide))

theorem State.cleanUp_sameCounts (s : State) : s.SameCounts s.cleanUp := by
  unfold State.cleanUp
  split
  · split
    · refine (State.SameCounts.trans (s.served_sameCounts .host) ?_)
      refine State.SameCounts.trans ?_ ((State.returnReservation_sameCounts _).trans
        ((State.endTask_within _ _ _ _).sameCounts (by decide) (by decide)))
      unfold State.freeLoading
      split
      · rename_i slot hslot
        obtain ⟨l, hl⟩ := State.loadingSlot_loading hslot
        exact State.freeSlot_sameCounts (State.groupAt_of_loading hl)
      · exact .refl _
    all_goals exact .refl _
  · exact .refl _

theorem State.editGroup_sameCounts {s : State} {g : GroupNo} {group : Group} (hg : s.groups[g] = some group) (task : Task) :
    s.SameCounts (s.editGroup g task group) := by
  have hset : ∀ x : Group, x.entryCount = group.entryCount → s.SameCounts (s.setGroup g (some x)) := fun x hx => by
    refine ⟨fun _ => rfl, fun k => ?_⟩
    rw [State.countOf_setGroup]
    split
    · rename_i hk
      unfold State.countOf
      rw [← hk, hg]
      exact congrArg some hx
    · rfl
  have hsent : ∀ u : State, u.SameCounts (u.sendNotice (.groupChanged g)) := fun _ => ⟨fun _ => rfl, fun _ => rfl⟩
  have hpool : ∀ (u : State) p, u.SameCounts (u.setPool p) := fun _ _ => ⟨fun _ => rfl, fun _ => rfl⟩
  have hreleased : ∀ u : State, u.SameCounts (u.releaseRepeat g group.repeatPattern) := fun u =>
    (u.releaseRepeat_within _ _).sameCounts (by decide) (by decide)
  by_cases h0 : repeatChoice (task.word 0) = 0
  · rw [State.editGroup_keep s g group h0]
    exact (hset { group with settings := task.settings } rfl).trans (hsent _)
  by_cases h1 : repeatChoice (task.word 0) = 1
  · rw [State.editGroup_replace s g group h1]
    exact ((((hset { group with
      settings := task.settings, repeatPattern := some (s.newRepeat task), repeatDamaged := false } rfl).trans
      (hreleased _)).trans (hpool _ _)).trans ((State.joinBin_within _ _ _).sameCounts (by decide) (by decide))).trans
      (hsent _)
  · rw [State.editGroup_remove s g group h0 h1]
    exact ((hset { group with
      settings := task.settings, repeatPattern := none, repeatDamaged := false } rfl).trans (hreleased _)).trans (hsent _)

theorem groupEditFinalBody_sameCounts (task : Task) (held : Bool) (s : State) :
    s.SameCounts (groupEditFinalBody task held s) := by
  unfold groupEditFinalBody
  simp only
  split
  · exact s.finish_sameCounts ..
  · have hm := conflictCheck_marked (s.editUnderTest (argGroup task.arg) task)
      (s.conflictSet (s.belongsTo (argGroup task.arg))) s
    split <;> rename_i hs <;> rw [hs] at hm
    · exact (hm.sameCounts.trans (State.returnReservation_sameCounts _)).trans (State.finish_sameCounts ..)
    · exact (hm.sameCounts.trans (State.returnReservation_sameCounts _)).trans (State.finish_sameCounts ..)
    · split
      · rename_i hg
        exact (hm.sameCounts.trans (State.editGroup_sameCounts hg task)).trans (State.finish_sameCounts ..)
      · exact hm.sameCounts.trans (State.finish_sameCounts ..)

theorem State.setInstalled_sameCounts {s : State} {slot : SlotNo} {e e' : Installed} (he : s.installedAt slot = some e)
    (hgroup : e'.group = e.group) : s.SameCounts (s.setInstalled slot e') where
  group other := by
    unfold State.groupAt
    rw [State.installedAt_setInstalled]
    split
    · rename_i heq
      rw [← heq, he]
      exact congrArg some hgroup
    · rfl
  count _ := rfl

theorem State.writeEdit_sameCounts (s : State) (task : Task) (held : Bool) (slot : SlotNo) :
    s.SameCounts (s.writeEdit task held slot) := by
  unfold State.writeEdit
  split
  · exact s.finish_sameCounts ..
  · rename_i e he
    split
    · exact s.finish_sameCounts ..
    · refine State.SameCounts.trans ?_ (State.finish_sameCounts ..)
      exact State.setInstalled_sameCounts he rfl

theorem entryEditBody_sameCounts (task : Task) (held : Bool) (s : State) : s.SameCounts (entryEditBody task held s) := by
  unfold entryEditBody
  split
  · exact s.finish_sameCounts ..
  · rename_i hd e _
    split
    · exact s.finish_sameCounts ..
    split
    · exact s.finish_sameCounts ..
    have hm := s.editCheck_marked hd.slot e (editTolerance task e)
    split <;> rename_i hs <;> rw [hs] at hm
    · exact hm.sameCounts.trans (State.finish_sameCounts ..)
    · exact hm.sameCounts.trans (State.writeEdit_sameCounts ..)
    · exact hm.sameCounts.trans (State.writeEdit_sameCounts ..)

theorem suspendBody_sameCounts (task : Task) (held : Bool) (s : State) : s.SameCounts (suspendBody task held s) :=
  ⟨(suspendBody_sameEntries task held s).groupAt, fun g => by
    unfold State.countOf; rw [(suspendBody_within task held s) .groups (by decide)]⟩

theorem resumeBody_sameCounts (task : Task) (held : Bool) (s : State) : s.SameCounts (resumeBody task held s) :=
  ⟨(resumeBody_sameEntries task held s).groupAt, fun g => by
    unfold State.countOf; rw [(resumeBody_within task held s) .groups (by decide)]⟩

theorem entryReadBody_sameCounts (task : Task) (held : Bool) (s : State) : s.SameCounts (entryReadBody task held s) := by
  unfold entryReadBody
  split
  · exact s.finish_sameCounts ..
  · rename_i hd e _
    exact (s.readFrames_marked hd.slot e).sameCounts.trans (State.finish_sameCounts ..)

theorem groupReadBody_sameCounts (task : Task) (held : Bool) (s : State) : s.SameCounts (groupReadBody task held s) := by
  unfold groupReadBody
  simp only
  split
  · exact s.finish_sameCounts ..
  · rename_i group _
    exact (s.readRepeat_marked (argGroup task.arg) group.repeatPattern).sameCounts.trans (State.finish_sameCounts ..)

theorem exec_lookup_sameCounts {i : InputId} {s t : State} (h : exec (.lookup i) s = .next t) : s.SameCounts t := by
  cases h
  split
  · rename_i b _ _
    have hbegin : s.SameCounts (s.beginLookup i b) := ⟨fun _ => rfl, fun _ => rfl⟩
    unfold State.runLookup
    split
    · exact hbegin
    · rename_i b' _
      exact (hbegin.trans (State.visits_marked b' ((s.beginLookup i b).binList b'.runs.length)
        (s.beginLookup i b, .none)).sameCounts).trans ((State.endLookup_within _ _ _).sameCounts (by decide) (by decide))
  · exact .refl _

theorem exec_damageNotice_sameCounts {o : OutputId} {s t : State} (h : exec (.damageNotice o) s = .next t) :
    s.SameCounts t := by
  cases h
  split
  · rename_i d _ _
    have htaken : (s.served (.output o)).SameCounts ((s.served (.output o)).takeDamage d) := by
      unfold State.takeDamage
      split
      · split
        · exact (State.damagePattern_marked _ _).sameCounts
        · exact ⟨fun _ => rfl, fun _ => rfl⟩
      · exact ⟨fun _ => rfl, fun _ => rfl⟩
    exact ((s.served_sameCounts _).trans htaken).trans
      ((State.raiseDeferred_within _ o).sameCounts (by decide) (by decide))
  · exact .refl _

/-! ### The bodies that change the counts -/

theorem State.CountLaw.completeInstall {s : State} (h : s.CountLaw) {slot : SlotNo} {l : Loading}
    (hl : s.entries[slot].occupant = .loading l) (hg : s.groups[l.group].isSome = true) :
    (s.completeInstall slot l).1.CountLaw := by
  have hjoined := (State.joinFrames_within (State.setPool (s.setEntry slot {
    generation := nextGeneration s.entries[slot].generation, occupant := .installed (l.install s.pool.reservation) })
    s.pool.ownReservation) slot (l.install s.pool.reservation)).sameCounts (by decide) (by decide)
  refine h.added (slot := slot) (g := l.group) (State.groupAt_of_loading hl) (by simpa [State.countOf] using hg)
    (fun other => ?_) fun k => ?_
  · refine (((State.changeCount_within _ l.group (· + 1)).sameEntries (by decide)).groupAt other).trans ?_
    exact (hjoined.group other).trans (s.groupAt_setEntry slot other _)
  · refine (State.countOf_changeCount _ l.group k (· + 1)).trans ?_
    rw [hjoined.count l.group, hjoined.count k]
    rfl

theorem installFinalBody_countLaw (task : Task) (held : Bool) {s : State} (h : s.CountLaw)
    (hdefined : ∀ (slot : SlotNo) (l : Loading), s.entries[slot].occupant = .loading l → s.groups[l.group].isSome = true) :
    (installFinalBody task held s).CountLaw := by
  unfold installFinalBody
  split
  · exact h
  · rename_i slot l hloading
    have hm := conflictCheck_marked (s.installUnderTest l) (s.conflictSet (fun _ => false)) s
    have hl := State.loading?_eq_some hloading
    have hreturned : ∀ u : State, s.Marked u → ∀ outcome words,
        ((u.freeSlot slot).returnReservation.finish task held outcome words).CountLaw := fun u hu _ _ =>
      ((h.same hu.sameCounts).same (State.freeSlot_sameCounts (State.groupAt_of_loading ((hu.loading slot l).2 hl)))).same
        ((State.returnReservation_sameCounts _).trans (State.finish_sameCounts ..))
    split <;> rename_i hs <;> rw [hs] at hm
    · exact hreturned _ hm _ _
    · exact hreturned _ hm _ _
    · refine ((h.same hm.sameCounts).completeInstall ((hm.loading slot l).2 hl) ?_).same (State.finish_sameCounts ..)
      exact (hm.group_isSome l.group).trans (hdefined slot l hl)

theorem State.CountLaw.retireEntry {s : State} (h : s.CountLaw) {hd : Handle} {e : Installed}
    (he : s.installedAt hd.slot = some e) : (s.retireEntry hd e).CountLaw := by
  rw [State.retireEntry_parts]
  refine h.removed (slot := hd.slot) (g := e.group) (by simp [State.groupAt, he])
    (fun other => s.groupAt_setEntry hd.slot other _) fun k => s.countOf_changeCount e.group k (· - 1)

theorem retireBody_countLaw (task : Task) (held : Bool) {s : State} (h : s.CountLaw) :
    (retireBody task held s).CountLaw := by
  unfold retireBody
  split
  · exact h.same (s.finish_sameCounts ..)
  · rename_i hcurrent
    exact (h.retireEntry (s.installedAt_of_currentWord hcurrent)).same (State.finish_sameCounts ..)

theorem State.CountLaw.no_entry {s : State} (h : s.CountLaw) {g : GroupNo} (hg : s.groups[g] = none) (slot : SlotNo) :
    s.groupAt slot ≠ some g := by
  intro hslot
  have hsome := (s.countLaw_iff.1 h).2 slot g hslot
  simp [State.countOf, hg] at hsome

theorem State.CountLaw.defineGroup {s : State} (h : s.CountLaw) {g : GroupNo} (hg : s.groups[g] = none)
    (settings : GroupSettings) (p : Option Pattern) : (s.defineGroup g settings p).CountLaw := by
  refine h.emptyGroup (g := g) (x := some 0) (h.no_entry hg) (by simp)
    ((s.defineGroup_within g settings p).sameEntries (by decide)).groupAt fun k => ?_
  unfold State.countOf
  rw [State.defineGroup_groups]
  split <;> rfl

theorem groupDefineFinalBody_countLaw (task : Task) (held : Bool) {s : State} (h : s.CountLaw)
    (hg : repeatChoice (task.word 0) = 1 → s.groups[argGroup task.arg] = none) :
    (groupDefineFinalBody task held s).CountLaw := by
  unfold groupDefineFinalBody
  simp only
  split
  · rename_i hrepeat
    have hm := conflictCheck_marked [reservedRepeatContender task (s.newRepeat task)] (s.conflictSet (fun _ => false)) s
    split <;> rename_i hs <;> rw [hs] at hm
    · exact h.same ((hm.sameCounts.trans (State.returnReservation_sameCounts _)).trans (State.finish_sameCounts ..))
    · exact h.same ((hm.sameCounts.trans (State.returnReservation_sameCounts _)).trans (State.finish_sameCounts ..))
    · refine ((h.same hm.sameCounts).defineGroup ?_ _ _).same (State.finish_sameCounts ..)
      have hsome := hm.group_isSome (argGroup task.arg)
      rw [hg hrepeat] at hsome
      exact Option.isNone_iff_eq_none.1 (by simpa using hsome)
  · split
    · exact h.same (s.finish_sameCounts ..)
    · rename_i hnone
      exact (h.defineGroup (by simpa using hnone) _ _).same (State.finish_sameCounts ..)

theorem State.CountLaw.no_entry_of_count {s : State} (h : s.CountLaw) {g : GroupNo} {group : Group}
    (hg : s.groups[g] = some group) (hcount : group.entryCount = 0) (slot : SlotNo) : s.groupAt slot ≠ some g := by
  intro hslot
  have hlength := h.1 g group hg
  rw [hcount, State.slotsOfGroup_eq] at hlength
  have hempty := List.filter_eq_nil_iff.1 (List.eq_nil_of_length_eq_zero hlength.symm) slot (List.mem_finRange slot)
  exact hempty (decide_eq_true hslot)

theorem groupRemoveBody_countLaw (task : Task) (held : Bool) {s : State} (h : s.CountLaw) :
    (groupRemoveBody task held s).CountLaw := by
  unfold groupRemoveBody
  simp only
  split
  · exact h.same (s.finish_sameCounts ..)
  · rename_i group hg
    split
    · exact h.same (s.finish_sameCounts ..)
    · rename_i hcount
      refine State.CountLaw.same ?_ (State.finish_sameCounts ..)
      have hreleased := (s.releaseRepeat_within (argGroup task.arg) group.repeatPattern).sameCounts (by decide) (by decide)
      refine h.emptyGroup (g := argGroup task.arg) (x := none) (h.no_entry_of_count hg (by omega)) nofun hreleased.group
        fun k => ?_
      refine (State.countOf_setGroup _ (argGroup task.arg) k none).trans ?_
      rw [hreleased.count]
      rfl

theorem exec_countLaw {c : Instr} {s t : State} (h : exec c s = .next t) (hclaimLaw : s.HostClaimLaw) (hwork : s.WorkLaw)
    (hs : s.CountLaw) : t.CountLaw := by
  have hstep : ∀ step body, tableStepOf c = some (step, body) →
      (∀ task held, s.claims.host = some step →
        (s.port.engine = .execute task held ∨ s.port.engine = .parameter task (.step held)) →
        (body task held (s.served .host)).CountLaw) → t.CountLaw := by
    intro step body hbody hkeep
    rcases exec_tableStep_cases hbody h with rfl | ⟨task, held, rfl, hclaim, hengine⟩
    · exact hs
    · exact hkeep task held hclaim hengine
  have hserved : (s.served .host).CountLaw := hs
  cases c
  case hardwareReset =>
    cases h
    exact .of_empty (fun slot => by simp [State.installedAt, State.hardwareReset, State.reset])
      (fun g => by simp [State.hardwareReset, State.reset])
  case initializeTableStep =>
    exact hstep _ _ rfl fun task held _ _ => .of_empty (fun slot => by simp [State.installedAt, State.initializeTable])
      (fun g => by simp [State.initializeTable])
  case lookup i => exact hs.same (exec_lookup_sameCounts h)
  case damageNotice o => exact hs.same (exec_damageNotice_sameCounts h)
  case parameterPhaseCleanUp =>
    cases h
    exact hs.same s.cleanUp_sameCounts
  case installParameterStep => exact hstep _ _ rfl fun _ _ _ _ => hserved.same (installParameterBody_sameCounts ..)
  case installFinalStep =>
    exact hstep _ _ rfl fun task held _ _ => installFinalBody_countLaw task held hserved
      fun slot l hl => (hwork.2.2 slot l hl).1
  case groupDefineFinalStep =>
    exact hstep _ _ rfl fun task held hclaim hengine => groupDefineFinalBody_countLaw task held hserved
      (defined_group_none (s := s) hclaimLaw hwork hclaim hengine)
  case groupEditFinalStep => exact hstep _ _ rfl fun _ _ _ _ => hserved.same (groupEditFinalBody_sameCounts ..)
  case groupRemoveStep => exact hstep _ _ rfl fun task held _ _ => groupRemoveBody_countLaw task held hserved
  case entryEditStep => exact hstep _ _ rfl fun _ _ _ _ => hserved.same (entryEditBody_sameCounts ..)
  case suspend => exact hstep _ _ rfl fun _ _ _ _ => hserved.same (suspendBody_sameCounts ..)
  case resume => exact hstep _ _ rfl fun _ _ _ _ => hserved.same (resumeBody_sameCounts ..)
  case retire => exact hstep _ _ rfl fun task held _ _ => retireBody_countLaw task held hserved
  case entryReadStep => exact hstep _ _ rfl fun _ _ _ _ => hserved.same (entryReadBody_sameCounts ..)
  case groupReadStep => exact hstep _ _ rfl fun _ _ _ _ => hserved.same (groupReadBody_sameCounts ..)
  all_goals
    exact hs.same ((exec_within _ s t h).sameCounts (by simp only [touches]; decide) (by simp only [touches]; decide))

/-- Settles O9: what each table step does to the keys, the bins, the counts and the command in progress. -/
theorem stepKeepsKeyLaw : Obligations.StepKeepsKeyLaw := by
  intro s t hstep
  refine ⟨fun hkey => step_keeps (P := State.KeyLaw) (fun _ _ hs => hs) (fun _ _ hs => hs) exec_keyLaw hstep hkey,
    fun hclaim htest hwork => ?_⟩
  rcases step_cases hstep with rfl | ⟨c, rest, hc⟩
  · exact ⟨hwork, id, id⟩
  · have hcount : (s.withPending rest).CountLaw → t.CountLaw := exec_countLaw hc hclaim hwork
    have hbin : (s.withPending rest).BinLaw → t.BinLaw := exec_binLaw hc hclaim hwork
    exact ⟨exec_workLaw hc hclaim htest hwork, hbin, hcount⟩

end Sys2Proof.Machine
end

section
/-! SUPPORT. The cells under each command: the counts of cells, the place of every cell and the references of the outputs
(R53 to R62). -/

namespace Sys2Proof.Machine

/-! ## What happens to one cell -/

/-- A cell becomes TESTING only in a memory test, and it keeps or takes references only where it is OWNED or RETURNING. -/
structure Cell.Follows (x y : Cell) : Prop where
  testing : y.condition = .testing → x.condition = .testing
  refs : y.refs ≠ 0 → y.condition = .owned ∨ y.condition = .returning ∨ x.refs ≠ 0 ∧ y.condition = x.condition

theorem Cell.Follows.of_eq {x y : Cell} (hcondition : y.condition = x.condition) (hrefs : y.refs ≠ 0 → x.refs ≠ 0) :
    x.Follows y := ⟨fun h => hcondition ▸ h, fun h => .inr (.inr ⟨hrefs h, hcondition⟩)⟩

theorem Cell.Follows.refl (x : Cell) : x.Follows x := .of_eq rfl id

theorem Cell.Follows.trans {x y z : Cell} (h : x.Follows y) (k : y.Follows z) : x.Follows z where
  testing hz := h.testing (k.testing hz)
  refs hz := by
    rcases k.refs hz with howned | hreturning | ⟨hy, hsame⟩
    · exact .inl howned
    · exact .inr (.inl hreturning)
    · rw [hsame]
      exact h.refs hy

/-- Each cell of a pool follows on the cell that was there. -/
def Pool.Follows (p q : Pool) : Prop := ∀ c : CellNo, p.cells[c].Follows q.cells[c]

theorem Pool.Follows.refl (p : Pool) : p.Follows p := fun _ => .refl _

theorem Pool.Follows.trans {p q r : Pool} (h : p.Follows q) (k : q.Follows r) : p.Follows r :=
  fun c => (h c).trans (k c)

theorem Pool.Follows.of_cells {p q : Pool} (h : q.cells = p.cells) : p.Follows q :=
  fun c => by rw [h]; exact .refl _

theorem Pool.follows_foldl {f : Pool → CellNo → Pool} (hf : ∀ (p : Pool) c, p.Follows (f p c)) (chain : List CellNo) (p : Pool) :
    p.Follows (chain.foldl f p) := by
  induction chain generalizing p with
  | nil => exact .refl p
  | cons c cs ih => exact (hf p c).trans (ih _)

theorem Pool.modifyCell_follows (p : Pool) (c : CellNo) {f : Cell → Cell} (hf : ∀ x : Cell, x.Follows (f x)) :
    p.Follows (p.modifyCell c f) := fun d => by
  rw [Pool.modifyCell_cells]
  split
  · exact hf _
  · exact .refl _

theorem Pool.modifyChain_follows (p : Pool) (chain : List CellNo) {f : Cell → Cell} (hf : ∀ x : Cell, x.Follows (f x)) :
    p.Follows (p.modifyChain chain f) := Pool.follows_foldl (fun p c => p.modifyCell_follows c hf) chain p

theorem Pool.returnCell_follows (p : Pool) (c : CellNo) : p.Follows (p.returnCell c) := fun d => by
  rw [Pool.returnCell_cells]
  split
  · refine ⟨fun h => ?_, fun h => absurd rfl h⟩
    dsimp only at h
    split at h <;> cases h
  · exact .refl _

theorem Pool.returnCells_follows (p : Pool) (chain : List CellNo) : p.Follows (p.returnCells chain) :=
  Pool.follows_foldl Pool.returnCell_follows chain p

theorem Pool.reserve_follows {p q : Pool} {n : Nat} (h : p.reserve n = some q) : p.Follows q := by
  unfold Pool.reserve at h
  split at h
  · cases h
  · obtain rfl := Option.some.inj h
    exact p.modifyChain_follows (p.freeList.take n) fun _ => ⟨nofun, fun hx => absurd rfl hx⟩

theorem Pool.ownReservation_follows (p : Pool) : p.Follows p.ownReservation :=
  p.modifyChain_follows p.reservation fun _ => ⟨nofun, fun _ => .inl rfl⟩

theorem Pool.dropReference_follows (p : Pool) (chain : List CellNo) (o : OutputId) : p.Follows (p.dropReference chain o) :=
  p.modifyChain_follows chain fun _ => .of_eq rfl fun hx hzero => hx (by simp [hzero, OutputMask.remove])

theorem Pool.recordFault_follows (p : Pool) (c : CellNo) : p.Follows (p.recordFault c) :=
  p.modifyCell_follows c fun _ => .of_eq rfl id

theorem Pool.writeRun_follows (p : Pool) (chain : List CellNo) (k : Nat) (w : Word) : p.Follows (p.writeRun chain k w) := by
  unfold Pool.writeRun
  split
  · exact .refl p
  · exact p.modifyCell_follows _ fun _ => .of_eq rfl id

/-! ## What a step does to the cells -/

/-- Each cell follows on itself. -/
structure State.CellsFollow (s t : State) : Prop where
  pool : s.pool.Follows t.pool

theorem State.CellsFollow.refl (s : State) : s.CellsFollow s := ⟨.refl _⟩

theorem State.CellsFollow.trans {s t u : State} (h : s.CellsFollow t) (k : t.CellsFollow u) : s.CellsFollow u :=
  ⟨h.pool.trans k.pool⟩

theorem State.Within.cellsFollow {l : List Part} {s t : State} (h : State.Within l s t) (hl : Part.cells ∉ l) :
    s.CellsFollow t := ⟨.of_cells (h .cells hl)⟩

theorem State.Marked.cellsFollow {s t : State} (h : s.Marked t) : s.CellsFollow t := by
  refine ⟨fun c => ?_⟩
  rcases h.cell c with hc | hc <;> rw [hc]
  · exact .refl _
  · exact .of_eq rfl id

theorem State.returnCells_cellsFollow (s : State) (chain : List CellNo) : s.CellsFollow (s.returnCells chain) := by
  rw [State.returnCells_frame]
  exact ⟨s.pool.returnCells_follows chain⟩

theorem State.returnReservation_cellsFollow (s : State) : s.CellsFollow s.returnReservation :=
  State.CellsFollow.trans (t := s.setPool { s.pool with reservation := [] }) ⟨.of_cells rfl⟩
    (State.returnCells_cellsFollow _ _)

theorem State.finish_cellsFollow (s : State) (task : Task) (held : Bool) (outcome : HostOutcome) (results : List Word) :
    s.CellsFollow (s.finish task held outcome results) := (s.finish_within task held outcome results).cellsFollow (by decide)

theorem State.freeSlot_cellsFollow (s : State) (slot : SlotNo) : s.CellsFollow (s.freeSlot slot) := ⟨.refl _⟩

theorem State.freeLoading_cellsFollow (s : State) : s.CellsFollow s.freeLoading := by
  unfold State.freeLoading
  split
  · exact s.freeSlot_cellsFollow _
  · exact .refl _

theorem State.storeRun_cellsFollow (s : State) (task : Task) (w : Word) : s.CellsFollow (s.storeRun task w) := by
  unfold State.storeRun
  split
  · exact .refl s
  · exact ⟨s.pool.writeRun_follows _ _ w⟩

theorem State.takeWord_cellsFollow (s : State) (task : Task) (w : Word) : s.CellsFollow (s.takeWord task w) := by
  have hstored := s.storeRun_cellsFollow task w
  unfold State.takeWord
  simp only
  split
  · exact (s.endOrCleanUp_within _ _).cellsFollow (by decide)
  · exact ⟨hstored.pool⟩
  · exact ⟨.refl _⟩
  · obtain ⟨claim, he, -⟩ := (s.storeRun task w).enterExecute_frame { task with words := task.words ++ [w] }
    rw [he]
    exact ⟨hstored.pool⟩

/-- The end of the frame of a write: what comes of it with the effect of the write, and without. -/
theorem State.writeFrame_of {P : State → Prop} (s : State) (address : BitVec 8) (w : Word) {effect : State → State}
    (hframe : ∀ spi miso, P { s with port := { s.port with spi := spi, miso := miso } })
    (heffect : ∀ spi miso, P (effect { s with port := { s.port with spi := spi, miso := miso } })) :
    P (s.writeFrame address w effect) := by
  obtain ⟨spi, miso, he | he⟩ := s.writeFrame_frame address w effect <;> rw [he]
  · exact heffect spi miso
  · exact hframe spi miso

theorem State.spi_within (s : State) (spi : SpiFrame) (miso : Word) :
    State.Within hostParts s { s with port := { s.port with spi := spi, miso := miso } } :=
  State.Within.widen (l := [.portBits]) (by intro p hp; cases p <;> first | rfl | exact absurd (by decide) hp) (by decide)

/-- A TRANSFER write touches no cell, or it takes the word that is awaited. -/
theorem State.transferWrite_cases (s : State) (w : Word) :
    State.Within hostParts s (s.transferWrite w) ∨
      ∃ u task, State.Within hostParts s u ∧ s.transferWrite w = u.takeWord task w := by
  have hcollide : ∀ u : State, State.Within hostParts u u.collide := fun u =>
    State.Within.widen (l := [.portBits]) (by intro p hp; cases p <;> first | rfl | exact absurd (by decide) hp) (by decide)
  unfold State.transferWrite
  refine s.writeFrame_of _ w (P := fun t => State.Within hostParts s t ∨
    ∃ u task, State.Within hostParts s u ∧ t = u.takeWord task w) (fun spi miso => .inl (s.spi_within spi miso))
    fun spi miso => ?_
  split
  · exact .inr ⟨_, _, s.spi_within spi miso, rfl⟩
  all_goals exact .inl (((s.spi_within spi miso).trans (hcollide _)).mono (by decide))

/-- CAPTURE touches no cell, or it is the end of the frame of a TRANSFER write. -/
theorem exec_capture_transferWrite {event : SpiEvent} {s t : State} (h : exec (.capture event) s = .next t) :
    State.Within hostParts s t ∨ ∃ w, t = s.transferWrite w := by
  rcases exec_capture_cases event s with ⟨spi, miso, he⟩ | ⟨i, -, ⟨address, data, hdecode⟩, he⟩
  · obtain rfl := Host.Outcome.next.inj (he.symm.trans h)
    exact .inl (s.spi_within spi miso)
  · obtain rfl := Host.Outcome.next.inj ((exec_rowFrameEnd s hdecode).1.symm.trans (he.symm.trans h))
    unfold State.rowFrameEnd
    split
    · exact .inl ((execFlagsRead_within s _ rfl).mono (by decide))
    · exact .inl ((execTransferRead_within s _ rfl).mono (by decide))
    · exact .inr ⟨_, rfl⟩
    · exact .inl ((s.controlWrite_within _).mono (by decide))
    · exact .inl ((s.controlWrite_within _).mono (by decide))
    · exact .inl ((s.writeFrame_within _ _ id [] (fun u => .refl _ u)).mono (by decide))
    · split
      · exact .inl ((s.commandWrite_within _ _).mono (by decide))
      · exact .inl (.refl _ s)

theorem State.transferWrite_cellsFollow (s : State) (w : Word) : s.CellsFollow (s.transferWrite w) := by
  rcases s.transferWrite_cases w with hw | ⟨u, task, hu, he⟩
  · exact hw.cellsFollow (by decide)
  · rw [he]
    exact (hu.cellsFollow (by decide)).trans (u.takeWord_cellsFollow task w)

theorem exec_capture_cellsFollow {event : SpiEvent} {s t : State} (h : exec (.capture event) s = .next t) :
    s.CellsFollow t := by
  rcases exec_capture_transferWrite h with hw | ⟨w, rfl⟩
  · exact hw.cellsFollow (by decide)
  · exact s.transferWrite_cellsFollow w

/-! ### The bodies of the table steps -/

theorem installParameterBody_cellsFollow (task : Task) (held : Bool) (s : State) :
    s.CellsFollow (installParameterBody task held s) := by
  have hfailed : ∀ outcome, s.CellsFollow (s.stepFailed task outcome) := fun outcome =>
    (s.stepFailed_within _ _).cellsFollow (by decide)
  unfold installParameterBody
  simp only
  split
  · exact hfailed _
  split
  · exact hfailed _
  split
  · exact hfailed _
  split
  · exact hfailed _
  split
  · exact hfailed _
  · rename_i slot _ _ p hp
    have hreserved : s.CellsFollow ((s.setLoading slot task.loading).setPool p) := ⟨Pool.reserve_follows hp⟩
    exact hreserved.trans ((State.stepPassed_within _ _ _).cellsFollow (by decide))

theorem groupParameterBody_cellsFollow (task : Task) (held : Bool) (s : State) :
    s.CellsFollow (groupParameterBody task held s) := by
  have hfailed : ∀ outcome, s.CellsFollow (s.stepFailed task outcome) := fun outcome =>
    (s.stepFailed_within _ _).cellsFollow (by decide)
  unfold groupParameterBody
  simp only
  split
  · exact hfailed _
  split
  · exact hfailed _
  split
  · exact hfailed _
  · rename_i p hp
    have hreserved : s.CellsFollow (s.setPool p) := ⟨Pool.reserve_follows hp⟩
    exact hreserved.trans ((State.stepPassed_within _ _ _).cellsFollow (by decide))

theorem State.cleanUp_cellsFollow (s : State) : s.CellsFollow s.cleanUp := by
  unfold State.cleanUp
  split
  · split
    · have hserved : s.CellsFollow (s.served .host) := ⟨.refl _⟩
      exact ((hserved.trans (State.freeLoading_cellsFollow _)).trans (State.returnReservation_cellsFollow _)).trans
        ((State.endTask_within _ _ _ _).cellsFollow (by decide))
    all_goals exact .refl _
  · exact .refl _

theorem State.completeInstall_cellsFollow (s : State) (slot : SlotNo) (l : Loading) :
    s.CellsFollow (s.completeInstall slot l).1 := by
  have howned : s.CellsFollow ((s.setEntry slot {
      generation := nextGeneration s.entries[slot].generation
      occupant := .installed (l.install s.pool.reservation) }).setPool s.pool.ownReservation) :=
    ⟨s.pool.ownReservation_follows⟩
  exact (howned.trans ((State.joinFrames_within _ _ _).cellsFollow (by decide))).trans
    ((State.changeCount_within _ _ _).cellsFollow (by decide))

theorem installFinalBody_cellsFollow (task : Task) (held : Bool) (s : State) :
    s.CellsFollow (installFinalBody task held s) := by
  unfold installFinalBody
  split
  · exact .refl s
  · rename_i slot l _
    have hm := (conflictCheck_marked (s.installUnderTest l) (s.conflictSet (fun _ => false)) s).cellsFollow
    have hreturned : ∀ (u : State) outcome words,
        u.CellsFollow ((u.freeSlot slot).returnReservation.finish task held outcome words) := fun u _ _ =>
      ((u.freeSlot_cellsFollow slot).trans (State.returnReservation_cellsFollow _)).trans (State.finish_cellsFollow ..)
    split <;> rename_i hs <;> rw [hs] at hm
    · exact hm.trans (hreturned ..)
    · exact hm.trans (hreturned ..)
    · exact (hm.trans (State.completeInstall_cellsFollow ..)).trans (State.finish_cellsFollow ..)

theorem State.defineGroup_cellsFollow (s : State) (g : GroupNo) (settings : GroupSettings) (p : Option Pattern) :
    s.CellsFollow (s.defineGroup g settings p) := by
  cases p with
  | none => exact ⟨.refl _⟩
  | some p =>
    rw [State.defineGroup_some]
    exact State.CellsFollow.trans (t := { s with
      groups := _, pool := s.pool.ownReservation, outputs := _ }) ⟨s.pool.ownReservation_follows⟩
      ((State.joinBin_within _ _ _).cellsFollow (by decide))

theorem groupDefineFinalBody_cellsFollow (task : Task) (held : Bool) (s : State) :
    s.CellsFollow (groupDefineFinalBody task held s) := by
  unfold groupDefineFinalBody
  simp only
  split
  · have hm := (conflictCheck_marked [reservedRepeatContender task (s.newRepeat task)]
      (s.conflictSet (fun _ => false)) s).cellsFollow
    split <;> rename_i hs <;> rw [hs] at hm
    · exact (hm.trans (State.returnReservation_cellsFollow _)).trans (State.finish_cellsFollow ..)
    · exact (hm.trans (State.returnReservation_cellsFollow _)).trans (State.finish_cellsFollow ..)
    · exact (hm.trans (State.defineGroup_cellsFollow ..)).trans (State.finish_cellsFollow ..)
  · split
    · exact s.finish_cellsFollow ..
    · exact (s.defineGroup_cellsFollow ..).trans (State.finish_cellsFollow ..)

theorem State.editGroup_cellsFollow (s : State) (g : GroupNo) (task : Task) (group : Group) :
    s.CellsFollow (s.editGroup g task group) := by
  have hreleased : ∀ x, s.CellsFollow ((s.setGroup g x).releaseRepeat g group.repeatPattern) := fun x =>
    State.CellsFollow.trans (t := s.setGroup g x) ⟨.refl _⟩
      ((State.releaseRepeat_within _ _ _).cellsFollow (by decide))
  by_cases h0 : repeatChoice (task.word 0) = 0
  · rw [State.editGroup_keep s g group h0]
    exact ⟨.refl _⟩
  by_cases h1 : repeatChoice (task.word 0) = 1
  · rw [State.editGroup_replace s g group h1]
    have howned : ∀ u : State, u.CellsFollow (u.setPool u.pool.ownReservation) := fun u =>
      ⟨u.pool.ownReservation_follows⟩
    have hchanged := ((hreleased (some { group with
      settings := task.settings, repeatPattern := some (s.newRepeat task), repeatDamaged := false })).trans
      (howned _)).trans ((State.joinBin_within _ (s.newRepeat task).runCount (.ofGroup g)).cellsFollow (by decide))
    exact ⟨hchanged.pool⟩
  · rw [State.editGroup_remove s g group h0 h1]
    exact ⟨(hreleased _).pool⟩

theorem groupEditFinalBody_cellsFollow (task : Task) (held : Bool) (s : State) :
    s.CellsFollow (groupEditFinalBody task held s) := by
  unfold groupEditFinalBody
  simp only
  split
  · exact s.finish_cellsFollow ..
  · have hm := (conflictCheck_marked (s.editUnderTest (argGroup task.arg) task)
      (s.conflictSet (s.belongsTo (argGroup task.arg))) s).cellsFollow
    split <;> rename_i hs <;> rw [hs] at hm
    · exact (hm.trans (State.returnReservation_cellsFollow _)).trans (State.finish_cellsFollow ..)
    · exact (hm.trans (State.returnReservation_cellsFollow _)).trans (State.finish_cellsFollow ..)
    · split
      · exact (hm.trans (State.editGroup_cellsFollow ..)).trans (State.finish_cellsFollow ..)
      · exact hm.trans (State.finish_cellsFollow ..)

theorem State.writeEdit_cellsFollow (s : State) (task : Task) (held : Bool) (slot : SlotNo) :
    s.CellsFollow (s.writeEdit task held slot) := by
  unfold State.writeEdit
  split
  · exact s.finish_cellsFollow ..
  · split
    · exact s.finish_cellsFollow ..
    · have hset : ∀ e, s.CellsFollow (s.setInstalled slot e) := fun _ => ⟨.refl _⟩
      exact (hset _).trans (State.finish_cellsFollow ..)

theorem entryEditBody_cellsFollow (task : Task) (held : Bool) (s : State) :
    s.CellsFollow (entryEditBody task held s) := by
  unfold entryEditBody
  split
  · exact s.finish_cellsFollow ..
  · rename_i hd e _
    split
    · exact s.finish_cellsFollow ..
    split
    · exact s.finish_cellsFollow ..
    have hm := (s.editCheck_marked hd.slot e (editTolerance task e)).cellsFollow
    split <;> rename_i hs <;> rw [hs] at hm
    · exact hm.trans (State.finish_cellsFollow ..)
    · exact hm.trans (State.writeEdit_cellsFollow ..)
    · exact hm.trans (State.writeEdit_cellsFollow ..)

theorem entryReadBody_cellsFollow (task : Task) (held : Bool) (s : State) :
    s.CellsFollow (entryReadBody task held s) := by
  unfold entryReadBody
  split
  · exact s.finish_cellsFollow ..
  · rename_i hd e _
    exact (s.readFrames_marked hd.slot e).cellsFollow.trans (State.finish_cellsFollow ..)

theorem groupReadBody_cellsFollow (task : Task) (held : Bool) (s : State) :
    s.CellsFollow (groupReadBody task held s) := by
  unfold groupReadBody
  simp only
  split
  · exact s.finish_cellsFollow ..
  · rename_i group _
    exact (s.readRepeat_marked (argGroup task.arg) group.repeatPattern).cellsFollow.trans (State.finish_cellsFollow ..)

/-! ### The other commands that touch cells -/

theorem State.takeRelease_cellsFollow (s : State) (chain : List CellNo) : s.CellsFollow (s.takeRelease chain) := by
  unfold State.takeRelease
  simp only
  split
  · exact s.returnCells_cellsFollow chain
  · exact ⟨s.pool.modifyChain_follows chain fun _ => ⟨nofun, fun _ => .inr (.inl rfl)⟩⟩

theorem State.takeRemoval_cellsFollow (s : State) (o : OutputId) (chain : List CellNo) :
    s.CellsFollow (s.takeRemoval o chain) := by
  have hdropped := s.pool.dropReference_follows chain o
  unfold State.takeRemoval
  simp only
  split
  · exact ⟨hdropped⟩
  · split
    · have hlist : ∀ l, s.CellsFollow (s.setPool { s.pool.dropReference chain o with returnList := l }) :=
        fun _ => ⟨hdropped⟩
      exact (hlist _).trans (State.returnCells_cellsFollow _ _)
    · exact ⟨hdropped⟩

theorem exec_lookup_cellsFollow {i : InputId} {s t : State} (h : exec (.lookup i) s = .next t) : s.CellsFollow t := by
  cases h
  split
  · rename_i b _ _
    have hbegin : s.CellsFollow (s.beginLookup i b) := ⟨.refl _⟩
    unfold State.runLookup
    split
    · exact hbegin
    · rename_i b' _
      exact (hbegin.trans (State.visits_marked b' ((s.beginLookup i b).binList b'.runs.length)
        (s.beginLookup i b, .none)).cellsFollow).trans ((State.endLookup_within _ _ _).cellsFollow (by decide))
  · exact .refl _

theorem exec_damageNotice_cellsFollow {o : OutputId} {s t : State} (h : exec (.damageNotice o) s = .next t) :
    s.CellsFollow t := by
  cases h
  split
  · rename_i d _ _
    have htaken : (s.served (.output o)).CellsFollow ((s.served (.output o)).takeDamage d) := by
      unfold State.takeDamage
      split
      · split
        · exact (State.damagePattern_marked _ _).cellsFollow
        · exact ⟨.refl _⟩
      · exact ⟨.refl _⟩
    exact State.CellsFollow.trans ⟨htaken.pool⟩ ((State.raiseDeferred_within _ o).cellsFollow (by decide))
  · exact .refl _

theorem exec_frameParityFault_cellsFollow {o : OutputId} {time : Time} {s t : State}
    (h : exec (.frameParityFault o time) s = .next t) : s.CellsFollow t := by
  cases h
  have hadvanced : s.CellsFollow (s.advanceTo time) := (s.advanceTo_within time).cellsFollow (by decide)
  split
  · rename_i f c _
    refine hadvanced.trans ?_
    unfold State.cutFrame
    split
    · exact .refl _
    · have hfault : (s.advanceTo time).CellsFollow ((s.advanceTo time).recordFault c) :=
        ⟨Pool.recordFault_follows _ c⟩
      exact ⟨(hfault.trans ((State.endActive_only _ o .damaged f.runEnd).within.cellsFollow (by decide))).pool⟩
  · exact hadvanced

/-- The rows that begin or end a memory test, and the grant that adds references. -/
def changesCellsApart : Instr → Bool
  | .hardwareReset | .memoryTestEnd .. | .initializeTableStep | .frameGrant _ => true
  | _ => false

theorem exec_cellsFollow {c : Instr} {s t : State} (hc : changesCellsApart c = false) (h : exec c s = .next t) :
    s.CellsFollow t := by
  have hserved : s.CellsFollow (s.served .host) := ⟨.refl _⟩
  have hstep : ∀ step body, tableStepOf c = some (step, body) →
      (∀ task held u, State.CellsFollow u (body task held u)) → s.CellsFollow t := by
    intro step body hbody hkeep
    rcases exec_tableStep_cases hbody h with rfl | ⟨task, held, rfl, -⟩
    · exact .refl _
    · exact hserved.trans (hkeep task held _)
  cases c
  case hardwareReset | memoryTestEnd | initializeTableStep | frameGrant => exact nomatch hc
  case transferWrite w =>
    cases h
    exact s.transferWrite_cellsFollow w
  case capture event => exact exec_capture_cellsFollow h
  case lookup i => exact exec_lookup_cellsFollow h
  case damageNotice o => exact exec_damageNotice_cellsFollow h
  case frameParityFault o time => exact exec_frameParityFault_cellsFollow h
  case parameterPhaseCleanUp =>
    cases h
    exact s.cleanUp_cellsFollow
  case chainRelease =>
    cases h
    split
    · exact .refl _
    · have hmail : ∀ m, s.CellsFollow (s.setMail m) := fun _ => ⟨.refl _⟩
      exact (hmail _).trans (State.takeRelease_cellsFollow _ _)
  case referenceRemoval o =>
    cases h
    split
    · exact .refl _
    · have hmail : ∀ m, s.CellsFollow (s.setMail m) := fun _ => ⟨.refl _⟩
      exact (hmail _).trans (State.takeRemoval_cellsFollow _ _ _)
  case installParameterStep => exact hstep _ _ rfl installParameterBody_cellsFollow
  case groupParameterStep => exact hstep _ _ rfl groupParameterBody_cellsFollow
  case installFinalStep => exact hstep _ _ rfl installFinalBody_cellsFollow
  case groupDefineFinalStep => exact hstep _ _ rfl groupDefineFinalBody_cellsFollow
  case groupEditFinalStep => exact hstep _ _ rfl groupEditFinalBody_cellsFollow
  case entryEditStep => exact hstep _ _ rfl entryEditBody_cellsFollow
  case entryReadStep => exact hstep _ _ rfl entryReadBody_cellsFollow
  case groupReadStep => exact hstep _ _ rfl groupReadBody_cellsFollow
  all_goals exact (exec_within _ s t h).cellsFollow (by simp only [touches]; decide)

/-! ## Law 1: the counts of cells (R61) -/

theorem countP_conditions (l : List Cell) :
    l.countP (fun x => x.condition == .free) + l.countP (fun x => x.condition == .reserved)
      + l.countP (fun x => x.condition == .owned) + l.countP (fun x => x.condition == .returning)
      + l.countP (fun x => x.condition == .withheld) + l.countP (fun x => x.condition == .testing) = l.length := by
  induction l with
  | nil => rfl
  | cons x xs ih =>
    simp only [List.countP_cons, List.length_cons]
    cases x.condition <;> simp <;> omega

/-- The five counts are those of all the cells when none is TESTING. -/
theorem State.cellLaw_iff (s : State) :
    s.CellLaw ↔ (s.memoryTest = none → ∀ c : CellNo, s.pool.cells[c].condition ≠ .testing) := by
  refine forall_congr' fun _ => ?_
  have hall := countP_conditions s.pool.cells.toList
  rw [Vector.length_toList] at hall
  have hnone : s.pool.cells.toList.countP (fun x => x.condition == .testing) = 0 ↔
      ∀ c : CellNo, s.pool.cells[c].condition ≠ .testing := by
    rw [List.countP_eq_zero]
    constructor
    · intro h c hc
      exact h s.pool.cells[c] (Vector.mem_toList_iff.2 (Vector.getElem_mem c.isLt)) (by rw [hc]; rfl)
    · intro h x hx htesting
      obtain ⟨i, hi, rfl⟩ := Vector.getElem_of_mem (Vector.mem_toList_iff.1 hx)
      exact h ⟨i, hi⟩ (by simpa using htesting)
  rw [← hnone]
  unfold Pool.count
  omega

theorem State.endMemoryTest_pool (s : State) (failing : List CellNo) :
    (s.endMemoryTest failing).pool = testedPool failing := by
  unfold State.endMemoryTest State.afterTest
  simp only
  generalize hu : State.raiseTable { s with memoryTest := none, pool := testedPool failing } (!failing.isEmpty) = u
  have hpool : u.pool = testedPool failing := by
    rw [← hu, State.raiseTable_frame]
  have hplaced := u.placeInputs_within (List.finRange 4)
  have hended := (List.foldl (fun s i => State.placeInput s i) u (List.finRange 4)).testEnded_within
  have hsame : ∀ {l : List Part} {a b : State}, State.Within l a b → Part.cells ∉ l → Part.freeList ∉ l →
      Part.returnList ∉ l → Part.reservation ∉ l → b.pool = a.pool := fun hw hc hf hl hr =>
    Pool.ext_parts (hw .cells hc) (hw .freeList hf) (hw .returnList hl) (hw .reservation hr)
  rw [hsame hended (by decide) (by decide) (by decide) (by decide),
    hsame hplaced (by decide) (by decide) (by decide) (by decide), hpool]

theorem testedPool_fresh (failing : List CellNo) (c : CellNo) :
    (testedPool failing).cells[c].condition ≠ .testing ∧ (testedPool failing).cells[c].refs = 0 := by
  rw [(testedPool_spec failing).1 c]
  refine ⟨?_, rfl⟩
  unfold testedCell
  simp only
  split <;> exact nofun

/-- A granted frame sends a stored chain. -/
theorem chooseGrant_stored {s : State} {h : Handle} {e : Installed} {g : Group} (he : s.currentEntry h = some e)
    (hg : s.groups[e.group] = some g) (v : Variant) (first : Bool) :
    ∃ ref, s.storedChain ref = some (chooseGrant e g v first).chain := by
  have hinstalled : s.installedAt h.slot = some e := by
    unfold State.currentEntry at he
    split at he
    · exact he
    · cases he
  have hframe : ∀ w, s.storedChain (.frame h.slot w) = e.chainOf w := fun w => by
    simp only [State.storedChain, hinstalled, Option.bind_some]
  rcases chooseGrant_cases e g v first with hc | ⟨p, hc, hp, -⟩ <;> rw [hc]
  · cases hv : e.chainOf v with
    | none => exact ⟨.frame h.slot .main, (hframe .main).trans rfl⟩
    | some chain => exact ⟨.frame h.slot v, (hframe v).trans hv⟩
  · exact ⟨.ofGroup e.group, by simp only [State.storedChain, hg, Option.bind_some, hp, Option.map_some]⟩

/-- The answer of a frame grant leaves the cells, or adds the output's reference to a stored chain (R41, R53). -/
theorem State.answerGrant_cells (s : State) (o : OutputId) :
    (s.answerGrant o).pool.cells = s.pool.cells ∨ ∃ ref chain, s.storedChain ref = some chain ∧
      (s.answerGrant o).pool.cells = (s.pool.addReference chain o).cells := by
  have hended : ∀ outcome time, (s.endActive o outcome time).pool.cells = s.pool.cells := fun outcome time =>
    (s.endActive_only o outcome time).within .cells (by decide)
  unfold State.answerGrant
  split
  · exact .inl rfl
  · split
    · exact .inl (hended _ _)
    · rename_i he
      split
      · exact .inl (hended _ _)
      · split
        · exact .inl (hended _ _)
        · rename_i hg
          obtain ⟨ref, href⟩ := chooseGrant_stored he hg _ _
          exact .inr ⟨ref, _, href, rfl⟩

theorem exec_frameGrant_cells {o : OutputId} {s t : State} (h : exec (.frameGrant o) s = .next t) :
    t.pool.cells = s.pool.cells ∨ ∃ ref chain, s.storedChain ref = some chain ∧
      t.pool.cells = (s.pool.addReference chain o).cells := by
  cases h
  split
  · exact (s.served (.output o)).answerGrant_cells o
  · exact .inl rfl

theorem State.CellLaw.within {l : List Part} {s t : State} (h : s.CellLaw) (hw : State.Within l s t)
    (hcells : Part.cells ∉ l) (hmemory : Part.memoryTest ∉ l) : t.CellLaw := by
  rw [State.cellLaw_iff] at h ⊢
  rw [hw .cells hcells, hw .memoryTest hmemory]
  exact h

theorem State.CellLaw.follow {s t : State} (h : s.CellLaw) (hmemory : t.memoryTest = s.memoryTest)
    (hcells : ∀ c : CellNo, t.pool.cells[c].condition = .testing → s.pool.cells[c].condition = .testing) : t.CellLaw := by
  rw [State.cellLaw_iff] at h ⊢
  exact fun hm c hc => h (hmemory ▸ hm) c (hcells c hc)

theorem State.CellLaw.of_test {t : State} (h : t.memoryTest.isSome = true) : t.CellLaw :=
  fun hm => by rw [hm] at h; cases h

theorem exec_frameGrant_cellLaw {o : OutputId} {s t : State} (h : exec (.frameGrant o) s = .next t) (hs : s.CellLaw) :
    t.CellLaw := by
  refine hs.follow ((exec_within _ s t h) .memoryTest (by simp only [touches]; decide)) fun c hc => ?_
  rcases exec_frameGrant_cells h with hsame | ⟨ref, chain, -, hadd⟩
  · rwa [hsame] at hc
  · rw [hadd, Pool.addReference_cells] at hc
    exact hc

theorem exec_memoryTest {c : Instr} {s t : State} (hc : changesCellsApart c = false) (h : exec c s = .next t) :
    t.memoryTest = s.memoryTest := by
  have hw := exec_within c s t h
  refine hw .memoryTest ?_
  cases c
  case hardwareReset | memoryTestEnd | initializeTableStep | frameGrant => exact nomatch hc
  all_goals
    simp only [touches]
    decide

theorem exec_cellLaw (c : Instr) (s t : State) (h : exec c s = .next t) (hs : s.CellLaw) : t.CellLaw := by
  by_cases hc : changesCellsApart c = true
  · cases c
    case hardwareReset =>
      cases h
      exact .of_test rfl
    case memoryTestEnd failing time =>
      cases h
      split
      · rw [State.cellLaw_iff, State.endMemoryTest_pool]
        exact fun _ c => (testedPool_fresh failing c).1
      · exact hs.within (s.advanceTo_within time) (by decide) (by decide)
    case initializeTableStep =>
      rcases exec_tableStep_cases (c := .initializeTableStep) rfl h with rfl | ⟨task, held, rfl, -⟩
      · exact hs
      · exact .of_test rfl
    case frameGrant o => exact exec_frameGrant_cellLaw h hs
    all_goals exact nomatch hc
  · have hc' := Bool.eq_false_iff.2 hc
    exact hs.follow (exec_memoryTest hc' h) fun c => ((exec_cellsFollow hc' h).pool c).testing

/-! ## Law 12: the references of the outputs (R62) -/

theorem State.ReferenceLaw.follow {s t : State} (h : s.ReferenceLaw) (hfollow : s.CellsFollow t) : t.ReferenceLaw := by
  intro c hc
  rcases (hfollow.pool c).refs hc with howned | hreturning | ⟨hrefs, hsame⟩
  · exact .inl howned
  · exact .inr hreturning
  · rw [hsame]
    exact h c hrefs

theorem State.ReferenceLaw.of_none {t : State} (h : ∀ c : CellNo, t.pool.cells[c].refs = 0) : t.ReferenceLaw :=
  fun c hc => absurd (h c) hc

theorem exec_frameGrant_referenceLaw {o : OutputId} {s t : State} (h : exec (.frameGrant o) s = .next t)
    (hplace : s.PlaceLaw) (hs : s.ReferenceLaw) : t.ReferenceLaw := by
  intro c hc
  rcases exec_frameGrant_cells h with hsame | ⟨ref, chain, hstored, hadd⟩
  · rw [hsame] at hc ⊢
    exact hs c hc
  · rw [hadd, Pool.addReference_cells] at hc ⊢
    simp only at hc ⊢
    split at hc
    · rename_i hmem
      exact .inl ((hplace.stored ref chain hstored).2 c hmem)
    · exact hs c hc

theorem exec_referenceLaw {c : Instr} {s t : State} (h : exec c s = .next t) (hplace : s.PlaceLaw)
    (hs : s.ReferenceLaw) : t.ReferenceLaw := by
  by_cases hc : changesCellsApart c = true
  · cases c
    case hardwareReset =>
      cases h
      exact .of_none fun c => by simp [State.hardwareReset, State.reset, Pool.resetValue, Cell.resetValue]
    case memoryTestEnd failing time =>
      cases h
      split
      · refine .of_none fun c => ?_
        rw [State.endMemoryTest_pool]
        exact (testedPool_fresh failing c).2
      · exact hs.follow ((s.advanceTo_within time).cellsFollow (by decide))
    case initializeTableStep =>
      rcases exec_tableStep_cases (c := .initializeTableStep) rfl h with rfl | ⟨task, held, rfl, -⟩
      · exact hs
      · exact .of_none fun c => by simp [State.initializeTable, Pool.startTest]
    case frameGrant o => exact exec_frameGrant_referenceLaw h hplace hs
    all_goals exact nomatch hc
  · exact hs.follow (exec_cellsFollow (Bool.eq_false_iff.2 hc) h)

/-! ## The places of the cells (R47) -/

theorem State.PlaceLaw.conditions {s t : State} (h : s.PlaceLaw) (hmemory : t.memoryTest = s.memoryTest)
    (hentries : t.entries = s.entries) (hgroups : t.groups = s.groups) (hreleases : t.mail.releases = s.mail.releases)
    (hlists : t.pool.freeList = s.pool.freeList ∧ t.pool.reservation = s.pool.reservation ∧
      t.pool.returnList = s.pool.returnList)
    (hcells : ∀ c : CellNo, t.pool.cells[c].condition = s.pool.cells[c].condition) : t.PlaceLaw :=
  h.congr hmemory (State.storedChain_congr hentries hgroups) hcells hlists.1 hlists.2.1 hlists.2.2 hreleases

theorem Pool.writeRun_condition (p : Pool) (chain : List CellNo) (k : Nat) (w : Word) (c : CellNo) :
    (p.writeRun chain k w).cells[c].condition = p.cells[c].condition := by
  unfold Pool.writeRun
  split
  · rfl
  · rw [Pool.modifyCell_cells]
    split <;> rfl

theorem State.storeRun_placeLaw {s : State} (h : s.PlaceLaw) (task : Task) (w : Word) : (s.storeRun task w).PlaceLaw := by
  obtain ⟨cells, he⟩ := s.storeRun_frame task w
  have hcells : ∀ c : CellNo, (s.storeRun task w).pool.cells[c].condition = s.pool.cells[c].condition := fun c => by
    unfold State.storeRun
    split
    · rfl
    · exact s.pool.writeRun_condition _ _ _ c
  rw [he] at hcells ⊢
  exact h.conditions rfl rfl rfl rfl ⟨rfl, rfl, rfl⟩ hcells

theorem State.takeWord_placeLaw {s : State} (h : s.PlaceLaw) (task : Task) (w : Word) : (s.takeWord task w).PlaceLaw := by
  have hstored := State.storeRun_placeLaw h task w
  unfold State.takeWord
  simp only
  split
  · exact h.within (s.endOrCleanUp_within _ _) (by decide)
  · exact hstored.of_eq rfl rfl rfl rfl rfl
  · exact h.of_eq rfl rfl rfl rfl rfl
  · obtain ⟨claim, he, -⟩ := (s.storeRun task w).enterExecute_frame { task with words := task.words ++ [w] }
    rw [he]
    exact hstored.of_eq rfl rfl rfl rfl rfl

theorem State.transferWrite_placeLaw {s : State} (h : s.PlaceLaw) (w : Word) : (s.transferWrite w).PlaceLaw := by
  rcases s.transferWrite_cases w with hw | ⟨u, task, hu, he⟩
  · exact h.within hw (by decide)
  · rw [he]
    exact State.takeWord_placeLaw (h.within hu (by decide)) task w

theorem exec_lookup_placeLaw {i : InputId} {s t : State} (h : exec (.lookup i) s = .next t) (hs : s.PlaceLaw) :
    t.PlaceLaw := by
  cases h
  split
  · rename_i b _ _
    have hbegin : (s.beginLookup i b).PlaceLaw := hs.of_eq rfl rfl rfl rfl rfl
    unfold State.runLookup
    split
    · exact hbegin
    · rename_i b' _
      exact ((State.visits_marked b' ((s.beginLookup i b).binList b'.runs.length)
        (s.beginLookup i b, .none)).placeLaw hbegin).within (State.endLookup_within _ _ _) (by decide)
  · exact hs

theorem exec_damageNotice_placeLaw {o : OutputId} {s t : State} (h : exec (.damageNotice o) s = .next t)
    (hs : s.PlaceLaw) : t.PlaceLaw := by
  cases h
  split
  · rename_i d _ _
    have htaken : ((s.served (.output o)).takeDamage d).PlaceLaw := by
      unfold State.takeDamage
      split
      · split
        · exact (State.damagePattern_marked _ _).placeLaw (hs.served _)
        · exact (hs.served (.output o)).of_eq rfl rfl rfl rfl rfl
      · exact (hs.served (.output o)).of_eq rfl rfl rfl rfl rfl
    exact htaken.within (State.raiseDeferred_within _ o) (by decide)
  · exact hs

theorem exec_frameGrant_placeLaw {o : OutputId} {s t : State} (h : exec (.frameGrant o) s = .next t)
    (hs : s.PlaceLaw) : t.PlaceLaw := by
  have hw := exec_within _ s t h
  refine hs.conditions (hw .memoryTest (by simp only [touches]; decide)) (hw .entries (by simp only [touches]; decide))
    (hw .groups (by simp only [touches]; decide)) (hw .releases (by simp only [touches]; decide))
    ⟨hw .freeList (by simp only [touches]; decide), hw .reservation (by simp only [touches]; decide),
      hw .returnList (by simp only [touches]; decide)⟩ fun c => ?_
  rcases exec_frameGrant_cells h with hsame | ⟨ref, chain, -, hadd⟩
  · rw [hsame]
  · rw [hadd, Pool.addReference_cells]

theorem exec_frameParityFault_placeLaw {o : OutputId} {time : Time} {s t : State}
    (h : exec (.frameParityFault o time) s = .next t) (hs : s.PlaceLaw) : t.PlaceLaw := by
  cases h
  have hadvanced : (s.advanceTo time).PlaceLaw := hs.advanceTo time
  split
  · rename_i f c _
    unfold State.cutFrame
    split
    · exact hadvanced
    · exact State.PlaceLaw.of_eq ((((s.advanceTo time).recordFault_marked c).placeLaw hadvanced).within
        (State.endActive_only _ o .damaged f.runEnd).within (by decide)) rfl rfl rfl rfl rfl
  · exact hadvanced

/-- Outside the table steps: the commands that touch cells, and the rest by their footprints. -/
theorem exec_placeLaw_of_noStep {c : Instr} {s t : State} (hstep : tableStepOf c = none) (h : exec c s = .next t)
    (hs : s.PlaceLaw) : t.PlaceLaw := by
  cases c
  case installParameterStep | installFinalStep | groupParameterStep | groupDefineFinalStep | groupEditFinalStep |
      groupRemoveStep | entryEditStep | suspend | resume | retire | entryReadStep | groupReadStep | entryFindStep |
      entryListStep | tableStatusStep | handleCheck | initializeTableStep => exact nomatch hstep
  case hardwareReset =>
    cases h
    exact .hardwareReset s
  case memoryTestEnd failing time =>
    cases h
    split
    · exact (hs.advanceTo time).endMemoryTest (State.testDue_isSome ‹_›) failing
    · exact hs.advanceTo time
  case transferWrite w =>
    cases h
    exact State.transferWrite_placeLaw hs w
  case capture event =>
    rcases exec_capture_transferWrite h with hw | ⟨w, rfl⟩
    · exact hs.within hw (by decide)
    · exact State.transferWrite_placeLaw hs w
  case lookup i => exact exec_lookup_placeLaw h hs
  case frameGrant o => exact exec_frameGrant_placeLaw h hs
  case damageNotice o => exact exec_damageNotice_placeLaw h hs
  case parameterPhaseCleanUp =>
    cases h
    exact hs.cleanUp
  case chainRelease =>
    cases h
    split
    · exact hs
    · exact hs.takeRelease ‹_›
  case referenceRemoval o =>
    cases h
    split
    · exact hs
    · have hmail : ∀ m : Mail, m.releases = s.mail.releases → (s.setMail m).PlaceLaw := fun m hm =>
        hs.of_eq rfl rfl rfl rfl hm
      exact (hmail { s.mail with removals := s.mail.removals.set o none } rfl).takeRemoval o _
  case frameParityFault o time => exact exec_frameParityFault_placeLaw h hs
  all_goals exact hs.within (exec_within _ s t h) (by simp only [touches]; decide)

theorem tableStepOf_placeLaw {c : Instr} {h : HostStep} {body : Task → Bool → State → State}
    (hc : tableStepOf c = some (h, body)) (task : Task) (held : Bool) {s : State} (hs : s.PlaceLaw) :
    (body task held s).PlaceLaw := by
  cases c <;> cases hc
  case installParameterStep => exact hs.installParameterBody task held
  case installFinalStep => exact hs.installFinalBody task held
  case groupParameterStep => exact hs.groupParameterBody task held
  case groupDefineFinalStep => exact hs.groupDefineFinalBody task held
  case groupEditFinalStep => exact hs.groupEditFinalBody task held
  case groupRemoveStep => exact hs.groupRemoveBody task held
  case entryEditStep => exact hs.entryEditBody task held
  case suspend => exact hs.suspendBody task held
  case resume => exact hs.resumeBody task held
  case retire => exact hs.retireBody task held
  case entryReadStep => exact hs.entryReadBody task held
  case groupReadStep => exact hs.groupReadBody task held
  case entryFindStep => exact hs.within (entryFindBody_within task held s) (by decide)
  case entryListStep => exact hs.within (entryListBody_within task held s) (by decide)
  case tableStatusStep => exact hs.within (tableStatusBody_within task held s) (by decide)
  case handleCheck later => exact hs.within (handleCheckBody_within later task held _) (by decide)
  case initializeTableStep => exact .initializeTable _

theorem exec_placeLaw {c : Instr} {s t : State} (h : exec c s = .next t) (hs : s.PlaceLaw) : t.PlaceLaw := by
  cases hstep : tableStepOf c with
  | none => exact exec_placeLaw_of_noStep hstep h hs
  | some x =>
    rcases exec_tableStep_cases hstep h with rfl | ⟨task, held, rfl, -⟩
    · exact hs
    · exact tableStepOf_placeLaw hstep task held (hs.served .host)

/-- Settles O10: what a command does to one cell, and where it leaves every cell. -/
theorem stepKeepsCellLaw : Obligations.StepKeepsCellLaw := by
  intro s t hstep
  refine ⟨fun hcell => ?_, fun _ _ _ hplace => ?_⟩
  · rcases step_cases hstep with rfl | ⟨c, rest, hc⟩
    · exact hcell.within (s.advanceTo_within _) (by decide) (by decide)
    · have hcell' : (s.withPending rest).CellLaw := hcell
      exact exec_cellLaw c _ t hc hcell'
  · rcases step_cases hstep with rfl | ⟨c, rest, hc⟩
    · exact ⟨hplace.advanceTo _, fun href => href.follow ((s.advanceTo_within _).cellsFollow (by decide))⟩
    · have hplace' : (s.withPending rest).PlaceLaw := hplace.of_eq rfl rfl rfl rfl rfl
      have href : (s.withPending rest).ReferenceLaw → t.ReferenceLaw := exec_referenceLaw hc hplace'
      exact ⟨exec_placeLaw hc hplace', href⟩

end Sys2Proof.Machine
end

section
/-! SUPPORT. The timebase under each command, and the frames that the passing of time drives (R2, R143). -/

namespace Sys2Proof.Machine

/-! ## The passing of time -/

theorem State.advanceTo_output (s : State) (t : Time) (o : OutputId) :
    (s.advanceTo t).outputs[o] = s.outputs[o].drive s.pool (max s.timebase t) := by
  simp [State.advanceTo]

theorem Output.drive_eq_self {x : Output} (pool : Pool) (now : Time) (h : ∀ f, x.state ≠ .frame f) :
    x.drive pool now = x := by
  obtain ⟨st, hdrive, hsame, -⟩ := x.drive_frame pool now
  rw [hdrive, hsame h]

/-- Driving a frame leaves its item and its settings. -/
theorem State.advanceTo_output_parts (s : State) (t : Time) (o : OutputId) :
    (s.advanceTo t).outputs[o] = { s.outputs[o] with state := (s.advanceTo t).outputs[o].state } := by
  obtain ⟨st, hdrive, -⟩ := s.outputs[o].drive_frame s.pool (max s.timebase t)
  rw [State.advanceTo_output, hdrive]

/-- An output that drives no frame is left as it is. -/
theorem State.advanceTo_output_same (s : State) (t : Time) {o : OutputId} (h : ∀ f, s.outputs[o].state ≠ .frame f) :
    (s.advanceTo t).outputs[o] = s.outputs[o] := by
  rw [State.advanceTo_output, Output.drive_eq_self _ _ h]

/-- A run that is not over, or the last one, is driven on. -/
theorem driveRuns_stays {pool : Pool} {now : Time} {f : Frame} (h : now < f.runEnd ∨ f.run = f.runCount) (fuel : Nat) :
    driveRuns pool now fuel f = f := by
  cases fuel with
  | zero => rfl
  | succ fuel => exact if_neg fun hdue => h.elim (Nat.not_lt.2 hdue.2) (Nat.ne_of_lt hdue.1)

/-- A run that is over gives way to the next. -/
theorem driveRuns_next {pool : Pool} {now : Time} {f : Frame} {d : Nat} (hrun : f.run < f.runCount)
    (hover : f.runEnd ≤ now) (hread : pool.readRun f.chain (f.run + 1) = .value d) (hlast : now < f.runEnd + d)
    {fuel : Nat} (hfuel : 0 < fuel) :
    driveRuns pool now fuel f = { f with run := f.run + 1, runStart := f.runEnd, runEnd := f.runEnd + d } := by
  obtain ⟨n, rfl⟩ := Nat.exists_eq_succ_of_ne_zero hfuel.ne'
  rw [driveRuns, if_pos ⟨hrun, hover⟩, hread]
  exact driveRuns_stays (.inl hlast) n

theorem Output.drive_of_frame {x : Output} {f : Frame} (h : x.state = .frame f) (pool : Pool) (now : Time) :
    x.drive pool now = { x with state := .frame (driveRuns pool now f.runCount f) } := by
  simp only [Output.drive, h]

theorem timePasses : Clause.timePasses := by
  intro s t
  refine ⟨rfl, fun o => ⟨fun f hf => ⟨fun d hrun hover hread hlast => ?_, fun hstays => ?_⟩,
    fun hnone => s.advanceTo_output_same t hnone⟩⟩
  · rw [State.advanceTo_output, Output.drive_of_frame hf, driveRuns_next hrun hover hread hlast (by omega)]
  · rw [State.advanceTo_output, Output.drive_of_frame hf, driveRuns_stays hstays, ← hf]

theorem idleStep : Clause.idleStep := by
  intro s hpending
  simp only [step, hpending]
  rfl

/-- Settles O1. -/
theorem stepRunsTheFrontCommand : Obligations.StepRunsTheFrontCommand := by
  intro c rest s hpending
  simp only [step, hpending]
  rfl

/-! ## The timebase under each command (R2) -/

/-- The time that a timed row names. -/
def timeOf : Instr → Option Time
  | .memoryTestEnd _ t | .transferTimeout t | .lineTransition _ t | .carrierGap _ t | .glitchFloorReached _ t | .stuck _ t
  | .endGap _ t | .discardingEndGap _ t | .releaseExpiry _ t | .pressLimitExpiry _ t | .frameEnd _ t | .intervalEnd _ t
  | .holdLimit _ t | .spaceEnd _ t | .frameParityFault _ t => some t
  | _ => none

theorem State.inputEvent_timebase (s : State) (i : InputId) (time : Time) {event : State → State}
    (h : ∀ u, State.InputOnly i u (event u)) : (s.inputEvent i time event).timebase = max s.timebase time := by
  unfold State.inputEvent
  simp only
  split
  · exact (h _).within .timebase (by decide)
  · rfl

/-- A timed row sets the timebase to its time, unless it has passed it. -/
theorem exec_timed {c : Instr} {time : Time} {s t : State} (hc : timeOf c = some time) (h : exec c s = .next t) :
    t.timebase = max s.timebase time := by
  have hafter : ∀ {l : List Part}, State.Within l (s.advanceTo time) t → Part.timebase ∉ l →
      t.timebase = max s.timebase time := fun hw hl => hw .timebase hl
  cases c <;> cases hc
  case memoryTestEnd failing =>
    cases h
    split
    · exact (State.endMemoryTest_within _ failing) .timebase (by decide)
    · rfl
  case transferTimeout =>
    cases h
    exact (State.transferExpiry_within _) .timebase (by decide)
  case lineTransition i =>
    cases h
    exact (State.inputTransition_only _ i).within .timebase (by decide)
  case carrierGap i =>
    cases h
    exact s.inputEvent_timebase i time fun u => u.inputGap_only i
  case glitchFloorReached i =>
    cases h
    exact s.inputEvent_timebase i time fun u => u.inputFloor_only i
  case stuck i =>
    cases h
    exact s.inputEvent_timebase i time fun u => u.inputStuck_only i
  case endGap i =>
    cases h
    exact s.inputEvent_timebase i time fun u => u.inputEndGap_only i
  case discardingEndGap i =>
    cases h
    exact s.inputEvent_timebase i time fun u => u.inputDiscardGap_only i
  case releaseExpiry r =>
    cases h
    split
    · exact (State.endPress_only _ r _).within .timebase (by decide)
    · rfl
  case pressLimitExpiry r =>
    cases h
    split
    · exact (State.endPress_only _ r _).within .timebase (by decide)
    · rfl
  case frameEnd o =>
    cases h
    split
    · exact (State.endFrame_within _ o _) .timebase (by decide)
    · rfl
  case intervalEnd o =>
    cases h
    split
    · exact (State.raiseGrant_within _ o) .timebase (by decide)
    · rfl
  case holdLimit o =>
    cases h
    split
    · exact (State.endingCause_only _ o _).within .timebase (by decide)
    · rfl
  case spaceEnd o =>
    cases h
    split
    · exact (State.startHead_only _ o).within .timebase (by decide)
    · rfl
  case frameParityFault o =>
    cases h
    split
    · exact (State.cutFrame_within _ o _ _) .timebase (by decide)
    · rfl

theorem timebaseFalls : Clause.timebaseFalls := by
  intro c s t h hreset
  cases htime : timeOf c with
  | some time =>
    rw [exec_timed htime h]
    exact Nat.le_max_left ..
  | none =>
    refine Nat.le_of_eq (Eq.symm ((exec_within c s t h) .timebase ?_))
    cases c
    case hardwareReset => exact absurd rfl hreset
    case memoryTestEnd | transferTimeout | lineTransition | carrierGap | glitchFloorReached | stuck | endGap |
        discardingEndGap | releaseExpiry | pressLimitExpiry | frameEnd | intervalEnd | holdLimit | spaceEnd |
        frameParityFault => exact nomatch htime
    all_goals
      simp only [touches]
      decide

/-- Settles O14: the idle step, the outputs as time passes, and the timed rows. -/
theorem timeAdvancesOnly : Obligations.TimeAdvancesOnly := ⟨idleStep, timePasses, timebaseFalls⟩

/-! ## The state of an output in time -/

theorem State.frameDone_eq_some {s : State} {o : OutputId} {f : Frame} (hf : s.outputs[o].state = .frame f)
    (hrun : f.run = f.runCount) (hover : f.runEnd ≤ s.timebase) : s.frameDone o = some f := by
  simp only [State.frameDone, hf, OutputState.frame?, Option.bind_some]
  exact if_pos ⟨hrun, hover⟩

theorem State.frameDone_eq_none {s : State} {o : OutputId}
    (h : ∀ f, s.outputs[o].state = .frame f → f.run ≠ f.runCount ∨ s.timebase < f.runEnd) : s.frameDone o = none := by
  unfold State.frameDone
  cases hstate : s.outputs[o].state with
  | frame f =>
    simp only [OutputState.frame?, Option.bind_some]
    exact if_neg fun hdone => (h f hstate).elim (fun hne => hne hdone.1) (Nat.not_lt.2 hdone.2)
  | off | idle | grant | interval | space => rfl

theorem exec_frameEnd_done {s : State} {o : OutputId} {t : Time} {f : Frame} (h : (s.advanceTo t).frameDone o = some f) :
    exec (.frameEnd o t) s = .next ((s.advanceTo t).endFrame o f) := by
  show execFrameEnd o t s = _
  simp only [execFrameEnd, h]

theorem exec_frameEnd_goesOn {s : State} {o : OutputId} {t : Time} (h : (s.advanceTo t).frameDone o = none) :
    exec (.frameEnd o t) s = .next (s.advanceTo t) := by
  show execFrameEnd o t s = _
  simp only [execFrameEnd, h]

/-- The item ends with its frame. -/
theorem State.endFrame_ends {s : State} {o : OutputId} {f : Frame} {item : Item} {a : ActiveItem} {rest : List Item}
    {outcome : ItemOutcome} (hitem : s.outputs[o].activeItem = some (item, a, rest))
    (hend : endAfterFrame item a.counted.framesSent = some outcome) :
    s.endFrame o f = (s.setActive o { item with active := some a.counted } rest).endActive o outcome f.runEnd := by
  simp only [State.endFrame, hitem, hend]

/-- The item goes on after its frame. -/
theorem State.endFrame_goesOn {s : State} {o : OutputId} {f : Frame} {item : Item} {a : ActiveItem} {rest : List Item}
    (hitem : s.outputs[o].activeItem = some (item, a, rest)) (hend : endAfterFrame item a.counted.framesSent = none) :
    s.endFrame o f = { s with
      outputs := s.outputs.set o { s.outputs[o] with
        state := .interval (nextFrameTime f), queue := { item with active := some a.counted } :: rest }
      mail := { s.mail with removals := s.mail.removals.set o (some f.chain) } } := by
  simp only [State.endFrame, hitem, hend]
  simp [State.setActive, State.setOutput, State.sendRemoval, State.setMail]

theorem endAfterFrame_pending {item : Item} {outcome : ItemOutcome} (h : item.endPending = some outcome) (n : Nat) :
    endAfterFrame item n = some outcome := by
  simp only [endAfterFrame, h]

theorem endAfterFrame_send {item : Item} {c : Nat} (h : item.endPending = none) (hform : item.form = .send c) (n : Nat) :
    endAfterFrame item n = if c ≤ n then some .sent else none := by
  simp only [endAfterFrame, h, hform]

theorem endAfterFrame_hold {item : Item} (h : item.endPending = none) (hform : item.form = .hold) (n : Nat) :
    endAfterFrame item n = if item.holdEnded then some .sent else none := by
  simp only [endAfterFrame, h, hform]

theorem frameEnds : Clause.frameEnds := by
  intro s o t f item a rest u hf hrun hover hqueue hactive
  have hexec := exec_frameEnd_done (s := s) (t := t) (State.frameDone_eq_some hf hrun hover)
  have hitem : u.outputs[o].activeItem = some (item, a, rest) := Output.activeItem_eq_some.2 ⟨hqueue, hactive⟩
  have hput : ∀ counted : Item, u.setActive o counted rest =
      { u with outputs := u.outputs.set o { u.outputs[o] with state := .frame f, queue := counted :: rest } } :=
    fun counted => by rw [← hf]; rfl
  intro sent counted put ends
  have hends : ∀ outcome, endAfterFrame item sent = some outcome → ends outcome := fun outcome hend =>
    hexec.trans (congrArg _ ((State.endFrame_ends hitem hend).trans (congrArg (State.endActive · o outcome f.runEnd)
      (hput counted))))
  refine ⟨fun outcome hpending => hends outcome (endAfterFrame_pending hpending _), fun c hnone hform hcount => ?_,
    fun hnone hform hended => ?_, fun hnone hgoes => ?_⟩
  · exact hends .sent ((endAfterFrame_send hnone hform _).trans (if_pos hcount))
  · exact hends .sent ((endAfterFrame_hold hnone hform _).trans (if_pos hended))
  · have hend : endAfterFrame item sent = none := by
      rcases hgoes with ⟨c, hform, hcount⟩ | ⟨hform, hended⟩
      · exact (endAfterFrame_send hnone hform _).trans (if_neg (Nat.not_le.2 hcount))
      · exact (endAfterFrame_hold hnone hform _).trans (if_neg (by simp [hended]))
    exact hexec.trans (congrArg _ (State.endFrame_goesOn hitem hend))

theorem framesGoOn : Clause.framesGoOn := by
  intro s o t u x
  refine ⟨fun h => exec_frameEnd_goesOn (State.frameDone_eq_none h), fun h => ?_, fun h => ?_⟩
  · have hdue : (s.advanceTo t).intervalDue o = false := Bool.eq_false_iff.2 fun hdue => by
      obtain ⟨next, hnext, -⟩ := State.intervalDue_iff.1 hdue
      exact h next hnext
    show execIntervalEnd o t s = _
    simp only [execIntervalEnd, hdue]
    rfl
  · have hdue : (s.advanceTo t).spaceDue o = false := Bool.eq_false_iff.2 fun hdue => by
      obtain ⟨finish, hfinish, -⟩ := State.spaceDue_iff.1 hdue
      exact h finish hfinish
    show execSpaceEnd o t s = _
    simp only [execSpaceEnd, hdue]
    rfl

/-! ## The claim of an output -/

/-- The claims with the grant claim of an output raised, or deferred behind its damage notice (R152). -/
theorem State.raiseGrant_eq (s : State) (o : OutputId) :
    s.raiseGrant o = { s with claims := { s.claims with output := match s.claims.output[o] with
      | some (.damage _) => s.claims.output
      | _ => s.claims.output.set o (some .frameGrant) } } := by
  cases hclaim : s.claims.output[o] with
  | none => simp only [State.raiseGrant, hclaim, State.setOutputClaim, State.setClaims]
  | some claim => cases claim <;> simp only [State.raiseGrant, hclaim, State.setOutputClaim, State.setClaims]

/-- The head item starts (R138, R139). -/
theorem State.startHead_cons {s : State} {o : OutputId} {item : Item} {rest : List Item}
    (h : s.outputs[o].queue = item :: rest) :
    s.startHead o = (s.setOutput o { s.outputs[o] with
      state := .grant
      queue := { item with active := some {
        variant := (s.itemVariant s.outputs[o].toggle item.handle).1, startTime := s.timebase, framesSent := 0 } } :: rest
      toggle := (s.itemVariant s.outputs[o].toggle item.handle).2 }).raiseGrant o := by
  simp only [State.startHead, h]

theorem State.startHead_nil {s : State} {o : OutputId} (h : s.outputs[o].queue = []) :
    s.startHead o = s.setOutput o { s.outputs[o] with state := .idle } := by
  simp only [State.startHead, h]

theorem intervalsAndSpacesEnd : Clause.intervalsAndSpacesEnd := by
  intro s o t now u x claims
  refine ⟨fun next hstate => ?_, fun finish hstate => ?_⟩
  · have hsame : u.outputs[o] = x := s.advanceTo_output_same t (fun f hf => nomatch hstate.symm.trans hf)
    have hdue : u.intervalDue o = decide (next ≤ now) := by
      simp only [State.intervalDue, hsame, hstate]
      rfl
    have hexec : exec (.intervalEnd o t) s =
      .next (if u.intervalDue o then (u.setOutput o { u.outputs[o] with state := .grant }).raiseGrant o else u) := rfl
    rw [hexec, hdue]
    refine ⟨fun hbefore => ?_, fun hafter => ?_⟩
    · rw [if_neg (by simpa using hbefore)]
    · rw [if_pos (by simpa using hafter), State.raiseGrant_eq, hsame]
      rfl
  · have hsame : u.outputs[o] = x := s.advanceTo_output_same t (fun f hf => nomatch hstate.symm.trans hf)
    have hdue : u.spaceDue o = decide (finish ≤ now) := by
      simp only [State.spaceDue, hsame, hstate]
      rfl
    have hexec : exec (.spaceEnd o t) s = .next (if u.spaceDue o then u.startHead o else u) := rfl
    rw [hexec, hdue]
    refine ⟨fun hbefore => ?_, fun hafter => ⟨fun hempty => ?_, fun item rest hqueue => ?_⟩⟩
    · rw [if_neg (by simpa using hbefore)]
    · rw [if_pos (by simpa using hafter), State.startHead_nil (by rw [hsame, hempty]), hsame]
      rfl
    · rw [if_pos (by simpa using hafter), State.startHead_cons (by rw [hsame, hqueue]), State.raiseGrant_eq, hsame]
      rfl

theorem itemVariants : Clause.itemVariants := by
  intro s toggle h
  refine ⟨fun e chain he hstatus halternate => ?_, fun hnone => ?_⟩
  · have hvariant : s.itemVariant toggle h =
        (if toggle.getLsbD e.group.val then .alternate else .main, toggle ^^^ BitVec.twoPow 16 e.group.val) := by
      simp only [State.itemVariant, he]
      exact if_pos ⟨hstatus, by rw [halternate]; rfl⟩
    rw [hvariant]
    refine ⟨rfl, fun k => ?_⟩
    rw [BitVec.getLsbD_xor, BitVec.getLsbD_twoPow]
    by_cases hk : k = e.group
    · subst hk
      simp
    · have hval : e.group.val ≠ k.val := fun hv => hk (Fin.ext hv.symm)
      simp [hk, hval]
  · cases he : s.currentEntry h with
    | none => simp only [State.itemVariant, he]
    | some e =>
      simp only [State.itemVariant, he]
      refine if_neg fun hboth => ?_
      rcases hnone e he with hdamaged | halternate
      · exact hboth.1 hdamaged
      · rw [halternate] at hboth
        exact nomatch hboth.2

theorem outputLines : Clause.outputLines := by
  intro s o sub x
  refine ⟨?_, fun hnone => ?_, fun f hf => ⟨fun heven => ?_, fun hodd hstart hend => ⟨fun hkind => ?_, fun hkind => ?_⟩⟩⟩
  · unfold State.txLevel
    cases hpolarity : s.outputs[o].config.polarity <;> cases s.txActive o sub <;> rfl
  · unfold State.txActive
    split
    · exact absurd ‹_› (hnone _)
    all_goals rfl
  · have hf' : s.outputs[o].state = .frame f := hf
    simp only [State.txActive, hf']
    exact if_neg (by omega)
  · have hf' : s.outputs[o].state = .frame f := hf
    have hkind' : s.outputs[o].config.kind = .envelope := hkind
    simp only [State.txActive, hf', hkind']
    exact if_pos ⟨hodd, hstart, hend⟩
  · intro period part
    have hf' : s.outputs[o].state = .frame f := hf
    have hkind' : s.outputs[o].config.kind = .modulated := hkind
    have hphase : onPhase f.carrier f.duty = period / part := by
      unfold onPhase
      cases hduty : f.duty <;> simp only [part, hduty] <;> rfl
    simp only [State.txActive, hf', hkind']
    rw [if_pos ⟨hodd, hstart, hend⟩, decide_eq_true_iff, hphase]
    rfl

/-- Settles O59: the end of a frame by what ends its item, the two waits, the variant and the line. -/
theorem framesIntervalsAndSpacesEnd : Obligations.FramesIntervalsAndSpacesEnd :=
  ⟨frameEnds, framesGoOn, intervalsAndSpacesEnd, itemVariants, outputLines⟩

/-! ## Hold limits and parity faults (R147, R151) -/

theorem ItemForm.isHold_iff {form : ItemForm} : form.isHold = true ↔ form = .hold := by
  cases form <;> simp [ItemForm.isHold]

theorem State.endingCause_pending {s : State} {o : OutputId} {item : Item} {a : ActiveItem} {rest : List Item}
    {outcome : ItemOutcome} (hitem : s.outputs[o].activeItem = some (item, a, rest))
    (hstate : (∃ f, s.outputs[o].state = .frame f) ∨ s.outputs[o].state = .grant) :
    s.endingCause o outcome =
      s.setActive o { item with endPending := some (item.endPending.getD outcome) } rest := by
  obtain ⟨hqueue, -⟩ := Output.activeItem_eq_some.1 hitem
  have hsame : s.setActive o item rest = s := by
    unfold State.setActive
    rw [← hqueue]
    exact s.setOutput_getElem o
  have hboth : (if item.endPending.isNone then s.setActive o { item with endPending := some outcome } rest else s) =
      s.setActive o { item with endPending := some (item.endPending.getD outcome) } rest := by
    cases hpending : item.endPending with
    | none => rfl
    | some pending =>
      refine hsame.symm.trans ?_
      rw [Option.getD_some, ← hpending]
  rcases hstate with ⟨f, hf⟩ | hgrant
  · simp only [State.endingCause, hitem, hf]
    exact hboth
  · simp only [State.endingCause, hitem, hgrant]
    exact hboth

theorem State.endingCause_interval {s : State} {o : OutputId} {item : Item} {a : ActiveItem} {rest : List Item}
    {next : Time} (hitem : s.outputs[o].activeItem = some (item, a, rest)) (hstate : s.outputs[o].state = .interval next)
    (outcome : ItemOutcome) : s.endingCause o outcome = s.endActive o outcome s.timebase := by
  simp only [State.endingCause, hitem, hstate]

theorem State.advanceTo_activeItem (s : State) (t : Time) (o : OutputId) :
    (s.advanceTo t).outputs[o].activeItem = s.outputs[o].activeItem := by
  rw [State.advanceTo_output_parts]
  rfl

theorem exec_holdLimit (o : OutputId) (t : Time) (s : State) : exec (.holdLimit o t) s =
    .next (if (s.advanceTo t).holdLimitDue o then (s.advanceTo t).endingCause o .limit else s.advanceTo t) := rfl

theorem holdLimits : Clause.holdLimits := by
  intro s o t item a rest now u x hqueue hactive hform hflag
  have hitem : u.outputs[o].activeItem = some (item, a, rest) :=
    (s.advanceTo_activeItem t o).trans (Output.activeItem_eq_some.2 ⟨hqueue, hactive⟩)
  have hdue : u.holdLimitDue o = decide (a.startTime + x.config.holdLimit * 1000000 ≤ now) := by
    simp only [State.holdLimitDue, hitem, hform, hflag, ItemForm.isHold, Bool.not_false, Bool.true_and]
    rfl
  rw [exec_holdLimit]
  refine ⟨fun hbefore => ?_, fun hafter => ⟨fun hstate => ?_, fun next hstate => ?_⟩⟩
  · rw [hdue, if_neg (by simpa using hbefore)]
  · rw [hdue, if_pos (by simpa using hafter), State.endingCause_pending hitem hstate]
    rfl
  · rw [hdue, if_pos (by simpa using hafter), State.endingCause_interval hitem hstate]
    rfl

theorem State.frameFault_eq_some {s : State} {o : OutputId} {f : Frame} {c : CellNo} :
    s.frameFault o = some (f, c) ↔ s.outputs[o].state = .frame f ∧ f.run < f.runCount ∧ f.runEnd ≤ s.timebase ∧
      s.pool.readRun f.chain (f.run + 1) = .unreadable c := by
  unfold State.frameFault
  cases hstate : s.outputs[o].state with
  | frame g =>
    simp only [OutputState.frame?, Option.bind_some, OutputState.frame.injEq]
    by_cases hdue : g.run < g.runCount ∧ g.runEnd ≤ s.timebase
    · rw [if_pos hdue]
      cases hread : s.pool.readRun g.chain (g.run + 1) <;> grind
    · rw [if_neg hdue]
      grind
  | off | idle | grant | interval | space => simp [OutputState.frame?]

/-- An item that has reached FRAME ends, and the output enters SPACE (R150). -/
theorem State.endActive_reached {s : State} {o : OutputId} {item : Item} {a : ActiveItem} {rest : List Item}
    (hitem : s.outputs[o].activeItem = some (item, a, rest)) (hreached : s.outputs[o].state.frame?.isSome = true)
    (outcome : ItemOutcome) (t : Time) :
    s.endActive o outcome t = ((s.dropFrame o).reportItemEnd o item outcome).setOutput o {
      ((s.dropFrame o).reportItemEnd o item outcome).outputs[o] with
      queue := rest
      state := .space (t + ((s.dropFrame o).reportItemEnd o item outcome).outputs[o].config.minItemSpace * Config.ms) } := by
  simp only [State.endActive, hitem, hreached, Bool.true_or, if_true]

theorem State.dropFrame_claims (s : State) (o : OutputId) : (s.dropFrame o).claims = s.claims := by
  unfold State.dropFrame
  split <;> rfl

theorem State.reportItemEnd_claims (s : State) (o : OutputId) (item : Item) (outcome : ItemOutcome) :
    (s.reportItemEnd o item outcome).claims = s.claims := by
  unfold State.reportItemEnd
  split
  · rfl
  · split <;> rfl

theorem exec_frameParityFault (o : OutputId) (t : Time) (s : State) : exec (.frameParityFault o t) s =
    .next (match (s.advanceTo t).frameFault o with
      | some (f, c) => (s.advanceTo t).cutFrame o f c
      | none => s.advanceTo t) := rfl

theorem parityFaults : Clause.parityFaults := by
  intro s o t f c item a rest u hf hrun hover hread hqueue hactive ended
  have hfault : u.frameFault o = some (f, c) := State.frameFault_eq_some.2 ⟨hf, hrun, hover, hread⟩
  have hitem : u.outputs[o].activeItem = some (item, a, rest) := Output.activeItem_eq_some.2 ⟨hqueue, hactive⟩
  have hclaims : ended.claims = s.claims := by
    have hended := State.endActive_reached (s := u.recordFault c) hitem
      (by show u.outputs[o].state.frame?.isSome = true; rw [hf]; rfl) .damaged f.runEnd
    refine (congrArg State.claims hended).trans ?_
    refine (State.reportItemEnd_claims ((u.recordFault c).dropFrame o) o item .damaged).trans ?_
    exact (u.recordFault c).dropFrame_claims o
  rw [exec_frameParityFault, hfault]
  have hcut : u.cutFrame o f c = (State.setOutputClaim ((u.recordFault c).endActive o .damaged f.runEnd) o
      (some (.damage { handle := item.handle, sent := f.sent, cell := c }))).setDamageSeen o := by
    simp only [State.cutFrame, hitem]
  refine (congrArg Host.Outcome.next hcut).trans ?_
  rw [← hclaims]
  rfl

theorem noLimitAndNoFault : Clause.noLimitAndNoFault := by
  intro s o t u
  refine ⟨fun h => ?_, fun h => ?_⟩
  · have hdue : u.holdLimitDue o = false := by
      unfold State.holdLimitDue
      rw [s.advanceTo_activeItem t o]
      split
      · rfl
      · rename_i item a rest hitem
        obtain ⟨hqueue, hactive⟩ := Output.activeItem_eq_some.1 hitem
        rcases h item (by rw [hqueue]; rfl) with hnone | hform | hended
        · exact nomatch hactive.symm.trans hnone
        · have : item.form.isHold = false := Bool.eq_false_iff.2 fun hx => hform (ItemForm.isHold_iff.1 hx)
          rw [this]
          rfl
        · rw [hended]
          simp
    rw [exec_holdLimit, hdue]
    rfl
  · have hnone : u.frameFault o = none := Option.eq_none_iff_forall_ne_some.2 fun ⟨f, c⟩ hfault => by
      obtain ⟨hf, hrun, hover, hread⟩ := State.frameFault_eq_some.1 hfault
      exact h f c hf hrun hover hread
    rw [exec_frameParityFault, hnone]

/-- Settles O60: the limit and the fault by the state of the output, and where neither is due. -/
theorem holdLimitsAndParityFaults : Obligations.HoldLimitsAndParityFaults :=
  ⟨holdLimits, parityFaults, noLimitAndNoFault⟩

end Sys2Proof.Machine
end

section
/-! SUPPORT. The items of an output: how their ends are reported, and how offers, the ends of HOLDs, flush and
configuration act on its queue (R135 to R139, R147 to R156). -/

namespace Sys2Proof.Machine

/-! ## The report of items that end (R149, R150, R155, R156) -/

/-- The completion record after one more item has ended. -/
def completionOf (outcome : ItemOutcome) (item : Item) (before : Option Completion) : Option Completion :=
  match item.origin with
  | .host tag => some { tag := tag, hold := item.form.isHold, outcome := outcome }
  | .relay _ => before

/-- The completion record after items have ended in their order. -/
def completionAfter (outcome : ItemOutcome) (items : List Item) (before : Option Completion) : Option Completion :=
  items.foldl (fun c item => completionOf outcome item c) before

/-- The link-clear that an item sends at its end. -/
def linkClearOf (item : Item) : Option PressName :=
  match item.origin with
  | .relay press => if item.follow then some press else none
  | .host _ => none

/-- The link-clears that items send at their ends. -/
def linkClearsAfter (outcome : ItemOutcome) (items : List Item) : List PressName :=
  if outcome = .sent then [] else items.filterMap linkClearOf

/-- What the end of items writes: the completion record with HOST_DONE and its ATTENTION bit, and the link-clears. -/
def State.withItemEnds (s : State) (o : OutputId) (outcome : ItemOutcome) (items : List Item) : State :=
  { s with
    outputs := s.outputs.set o { s.outputs[o] with
      completion := completionAfter outcome items s.outputs[o].completion
      hostDone := s.outputs[o].hostDone || items.any Item.fromHost }
    mail := { s.mail with linkClears := s.mail.linkClears.set o (s.mail.linkClears[o] ++ linkClearsAfter outcome items) }
    port := { s.port with attention := { s.port.attention with
      output := s.port.attention.output.set o (s.port.attention.output[o] || items.any Item.fromHost) } } }

theorem completionAfter_of_relay (outcome : ItemOutcome) {items : List Item} (h : items.any Item.fromHost = false)
    (before : Option Completion) : completionAfter outcome items before = before := by
  induction items generalizing before with
  | nil => rfl
  | cons item items ih =>
    obtain ⟨hitem, hrest⟩ := Bool.or_eq_false_iff.1 h
    refine (ih hrest _).trans ?_
    show completionOf outcome item before = before
    unfold completionOf
    cases horigin : item.origin with
    | relay press => rfl
    | host tag =>
      unfold Item.fromHost at hitem
      rw [horigin] at hitem
      cases hitem

theorem State.withItemEnds_nothing {s : State} {o : OutputId} {outcome : ItemOutcome} {items : List Item}
    (hhost : items.any Item.fromHost = false) (hclears : linkClearsAfter outcome items = []) :
    s.withItemEnds o outcome items = s := by
  unfold State.withItemEnds
  rw [completionAfter_of_relay outcome hhost, hhost, hclears, Bool.or_false, Bool.or_false, List.append_nil,
    show ({ s.outputs[o] with
      completion := s.outputs[o].completion, hostDone := s.outputs[o].hostDone } : Output) = s.outputs[o] from rfl]
  simp

theorem State.reportItemEnd_eq (s : State) (o : OutputId) (item : Item) (outcome : ItemOutcome) :
    s.reportItemEnd o item outcome = s.withItemEnds o outcome [item] := by
  cases horigin : item.origin with
  | host tag =>
    simp [State.reportItemEnd, State.withItemEnds, horigin, completionAfter, completionOf, linkClearsAfter, linkClearOf,
      Item.fromHost, State.setOutput, State.setOutputAttention, State.setPort]
  | relay press =>
    have hhost : [item].any Item.fromHost = false := by simp [Item.fromHost, horigin]
    by_cases hclear : item.follow = true ∧ outcome ≠ .sent
    · have hsend : s.reportItemEnd o item outcome = s.sendLinkClear o press := by
        simp [State.reportItemEnd, horigin, hclear]
      have hclears : linkClearsAfter outcome [item] = [press] := by
        simp [linkClearsAfter, linkClearOf, horigin, hclear]
      rw [hsend]
      unfold State.withItemEnds
      rw [completionAfter_of_relay outcome hhost, hhost, hclears, Bool.or_false, Bool.or_false,
        show ({ s.outputs[o] with
          completion := s.outputs[o].completion, hostDone := s.outputs[o].hostDone } : Output) = s.outputs[o] from rfl]
      simp [State.sendLinkClear, State.setMail]
    · have hkeep : s.reportItemEnd o item outcome = s := by
        simp only [State.reportItemEnd, horigin]
        exact if_neg (by simpa using hclear)
      refine hkeep.trans (State.withItemEnds_nothing hhost ?_).symm
      unfold linkClearsAfter
      split
      · rfl
      · rename_i hsent
        simp only [List.filterMap_cons, List.filterMap_nil, linkClearOf, horigin]
        rw [if_neg fun hfollow => hclear ⟨hfollow, hsent⟩]

theorem State.withItemEnds_cons (s : State) (o : OutputId) (outcome : ItemOutcome) (item : Item) (items : List Item) :
    (s.withItemEnds o outcome [item]).withItemEnds o outcome items = s.withItemEnds o outcome (item :: items) := by
  have hclears : linkClearsAfter outcome [item] ++ linkClearsAfter outcome items =
      linkClearsAfter outcome (item :: items) := by
    unfold linkClearsAfter
    split
    · rfl
    · exact (List.filterMap_append (l := [item])).symm
  simp [State.withItemEnds, completionAfter, ← hclears, Bool.or_assoc]

theorem State.reportItemEnds_eq (s : State) (o : OutputId) (outcome : ItemOutcome) (items : List Item) :
    s.reportItemEnds o outcome items = s.withItemEnds o outcome items := by
  unfold State.reportItemEnds
  induction items generalizing s with
  | nil => exact (State.withItemEnds_nothing rfl (by simp [linkClearsAfter])).symm
  | cons item items ih => rw [List.foldl_cons, ih, State.reportItemEnd_eq, State.withItemEnds_cons]

theorem completionAfter_last (outcome : ItemOutcome) (front : List Item) {item : Item} {behind : List Item}
    {tag : BitVec 8} (horigin : item.origin = .host tag) (h : behind.any Item.fromHost = false)
    (before : Option Completion) : completionAfter outcome (front ++ item :: behind) before =
      some { tag := tag, hold := item.form.isHold, outcome := outcome } := by
  unfold completionAfter
  rw [List.foldl_append, List.foldl_cons]
  refine (completionAfter_of_relay outcome h _).trans ?_
  simp only [completionOf, horigin]

theorem itemEndReports : Clause.itemEndReports := by
  intro s o outcome items t x host
  have ht : t = s.withItemEnds o outcome items := s.reportItemEnds_eq o outcome items
  have hself : t.outputs[o] = { x with
      completion := completionAfter outcome items x.completion, hostDone := x.hostDone || host } := by
    rw [ht]
    exact s.outputs_setOutput_self o _
  rw [hself]
  refine ⟨?_, fun p hp => ?_, rfl, fun hnone => completionAfter_of_relay outcome hnone _, ?_, ?_, ?_⟩
  · rw [ht]
    rfl
  · rw [ht]
    exact s.outputs_setOutput_of_ne _ (Ne.symm hp)
  · rintro front item behind tag rfl horigin hbehind
    exact completionAfter_last outcome front horigin hbehind _
  · rw [ht]
    rfl
  · rw [ht]
    rfl

/-- The settings of an output stay when items end. -/
theorem State.reportItemEnds_config (s : State) (o : OutputId) (outcome : ItemOutcome) (items : List Item) :
    (s.reportItemEnds o outcome items).outputs[o].config = s.outputs[o].config :=
  (s.reportItemEnds_sameQueue o o outcome items).2.2

theorem State.dropFrame_of_frame {s : State} {o : OutputId} {f : Frame} (h : s.outputs[o].state = .frame f) :
    s.dropFrame o = s.sendRemoval o f.chain := by
  simp only [State.dropFrame, h, OutputState.frame?]

theorem OutputState.frame?_eq_none {st : OutputState} (h : ∀ f, st ≠ .frame f) : st.frame? = none := by
  cases st with
  | frame f => exact absurd rfl (h f)
  | off | idle | grant | interval | space => rfl

theorem State.dropFrame_of_not_frame {s : State} {o : OutputId} (h : ∀ f, s.outputs[o].state ≠ .frame f) :
    s.dropFrame o = s := by
  simp only [State.dropFrame, OutputState.frame?_eq_none h]

/-- An item that has reached FRAME ends into SPACE, any other gives way to the next (R150). -/
theorem State.endActive_eq {s : State} {o : OutputId} {item : Item} {a : ActiveItem} {rest : List Item}
    (hitem : s.outputs[o].activeItem = some (item, a, rest)) (outcome : ItemOutcome) (t : Time) :
    s.endActive o outcome t =
      if s.outputs[o].state.frame?.isSome || decide (0 < a.framesSent) then
        ((s.dropFrame o).reportItemEnds o outcome [item]).setOutput o {
          ((s.dropFrame o).reportItemEnds o outcome [item]).outputs[o] with
          queue := rest
          state := .space (t + ((s.dropFrame o).reportItemEnds o outcome [item]).outputs[o].config.minItemSpace * 1000) }
      else
        (((s.dropFrame o).reportItemEnds o outcome [item]).setOutput o {
          ((s.dropFrame o).reportItemEnds o outcome [item]).outputs[o] with queue := rest }).startHead o := by
  simp only [State.endActive, hitem]
  rfl

theorem activeItemEnds : Clause.activeItemEnds := by
  intro s o item a rest outcome t hqueue hactive x
  have hitem : s.outputs[o].activeItem = some (item, a, rest) := Output.activeItem_eq_some.2 ⟨hqueue, hactive⟩
  refine ⟨fun f hf => ?_, fun hnone hsent => ?_, fun hnone hsent => ?_⟩
  · rw [State.endActive_eq hitem, if_pos (by rw [show s.outputs[o].state = .frame f from hf]; rfl),
      State.dropFrame_of_frame hf, State.reportItemEnds_config]
    rfl
  · rw [State.endActive_eq hitem, if_pos (by simp [hsent]), State.dropFrame_of_not_frame hnone,
      State.reportItemEnds_config]
    rfl
  · have hunreached : (s.outputs[o].state.frame?.isSome || decide (0 < a.framesSent)) ≠ true := by
      rw [OutputState.frame?_eq_none hnone, hsent]
      simp
    rw [State.endActive_eq hitem, if_neg hunreached, State.dropFrame_of_not_frame hnone]
    refine ⟨fun hrest => ?_, fun _ => rfl⟩
    rw [State.startHead_nil (by rw [State.outputs_setOutput_self]; exact hrest), State.setOutput_setOutput,
      State.outputs_setOutput_self, hrest]
    rfl

/-- Settles O31: the report in closed form over the items, and the end of one by whether it has reached FRAME. -/
theorem itemsEndInOrder : Obligations.ItemsEndInOrder := ⟨itemEndReports, activeItemEnds⟩

end Sys2Proof.Machine
end

section
/-! SUPPORT. What the host and the hold-ended messages do to the queue of an output: offers, the ends of HOLDs, OUTPUT
CONFIGURE and OUTPUT FLUSH (R135 to R138, R147, R148, R153, R154). -/

namespace Sys2Proof.Machine

/-- A block takes the request of the command in EXECUTE. -/
theorem exec_atRequest {s : State} {i : Instr} {c : HostCommand} {work : Task → Bool → State → State} {task : Task}
    {held : Bool} (hi : requestOf i = some (c, .request, work)) (hs : s.AtRequest c task held) :
    exec i s = .next (work task held s) := by
  rw [exec_of_request hi]
  exact congrArg _ (State.blockRequest_of_atRequest hs work)

/-! ## SEND and HOLD START (R135, R136, R138, R198) -/

theorem Output.answer_full {x : Output} (item : Item) (hon : x.config.kind ≠ .off) (hfull : 8 ≤ x.queue.length) :
    x.answer item = .queueFull := by
  rw [Output.answer, if_neg hon]
  exact if_pos hfull

theorem isHostHold_iff {tag : BitVec 8} {item : Item} :
    isHostHold tag item = true ↔ item.origin = .host tag ∧ item.form = .hold := by
  simp [isHostHold, ItemForm.isHold_iff]

theorem Output.answer_host {x : Output} {item : Item} {tag : BitVec 8} (horigin : item.origin = .host tag)
    (hon : x.config.kind ≠ .off) (hroom : x.queue.length < 8) : x.answer item =
      if item.form = .hold ∧ ∃ other ∈ x.queue, other.origin = .host tag ∧ other.form = .hold then .duplicateTag
      else .accepted := by
  have hnotFull : ¬ Config.queueDepth ≤ x.queue.length := Nat.not_le.2 hroom
  rw [Output.answer, if_neg hon, if_neg hnotFull]
  simp only [horigin]
  refine if_congr ?_ rfl rfl
  rw [Bool.and_eq_true, ItemForm.isHold_iff, List.any_eq_true]
  simp only [isHostHold_iff]

theorem State.offer_answered {s : State} {o : OutputId} {item : Item} {answer : OfferAnswer} {tag : BitVec 8}
    (horigin : item.origin = .host tag) (h : s.outputs[o].answer item = answer) (hanswer : answer ≠ .accepted) :
    s.offer o item = (s, answer) := by
  subst h
  cases hx : s.outputs[o].answer item with
  | accepted => exact absurd hx hanswer
  | queueFull => simp only [State.offer, hx, horigin]
  | outputOff | duplicateTag => simp only [State.offer, hx]

theorem State.offer_accepted {s : State} {o : OutputId} {item : Item} (h : s.outputs[o].answer item = .accepted) :
    s.offer o item =
      (if s.outputs[o].state = .idle then
          (s.setOutput o { s.outputs[o] with queue := s.outputs[o].queue ++ [item] }).startHead o
        else s.setOutput o { s.outputs[o] with queue := s.outputs[o].queue ++ [item] }, .accepted) := by
  simp only [State.offer, h]

theorem hostOffer_eq {task : Task} {h : Handle} (hh : Handle.ofWord (task.word 0) = some h) (form : ItemForm)
    (tag : BitVec 8) (held : Bool) (s : State) : hostOffer form tag task held s =
      (s.offer (argOutput task.arg) (newItem (.host tag) form h false)).1.finish task held
        (s.offer (argOutput task.arg) (newItem (.host tag) form h false)).2.outcome [] := by
  simp only [hostOffer, hh]

/-- Settles O32: the answer in the order of its tests, and what an accepted item does. -/
theorem hostOffersJoinTheQueue : Obligations.HostOffersJoinTheQueue := by
  intro s task held h i form tag hi hh o x item repeated
  have hexec : exec i s = .next (hostOffer form tag task held s) := by
    rcases hi with ⟨rfl, hs, rfl, rfl⟩ | ⟨rfl, hs, rfl, rfl⟩
    · exact exec_atRequest (work := sendWork) rfl hs
    · exact exec_atRequest (work := holdStartWork) rfl hs
  rw [hexec, hostOffer_eq hh]
  have horigin : item.origin = .host tag := rfl
  have hrefused : ∀ answer : OfferAnswer, x.answer item = answer → answer ≠ .accepted →
      (s.offer o item).1.finish task held (s.offer o item).2.outcome [] = s.finish task held answer.outcome [] :=
    fun answer hx hne => by rw [State.offer_answered horigin hx hne]
  refine ⟨fun hoff => ?_, fun hon hfull => ?_, fun hon hroom hrepeated => ?_, fun hon hroom hnew => ?_⟩
  · exact congrArg _ (hrefused .outputOff (if_pos hoff) nofun)
  · exact congrArg _ (hrefused .queueFull (Output.answer_full item hon hfull) nofun)
  · exact congrArg _ (hrefused .duplicateTag ((Output.answer_host horigin hon hroom).trans (if_pos hrepeated)) nofun)
  · have haccepted := State.offer_accepted (s := s) (o := o) ((Output.answer_host horigin hon hroom).trans (if_neg hnew))
    refine ⟨fun hbusy => ?_, fun hidle hempty => ?_⟩
    · rw [if_neg (show s.outputs[o].state ≠ .idle from hbusy)] at haccepted
      exact congrArg _ (congrArg (fun r : State × OfferAnswer => r.1.finish task held r.2.outcome []) haccepted)
    · have hqueue : s.outputs[o].queue ++ [item] = [item] := congrArg (· ++ [item]) hempty
      rw [if_pos (show s.outputs[o].state = .idle from hidle), hqueue, State.startHead_cons
        (by rw [State.outputs_setOutput_self]), State.raiseGrant_eq, State.setOutput_setOutput,
        State.outputs_setOutput_self] at haccepted
      exact congrArg _ (congrArg (fun r : State × OfferAnswer => r.1.finish task held r.2.outcome []) haccepted)

/-! ## The ends of HOLDs (R137, R147, R148) -/

theorem markHoldEnded_split {p : Item → Bool} {front : List Item} {item : Item} (hitem : p item = true)
    (hfront : ∀ x ∈ front, p x = false) (behind : List Item) :
    markHoldEnded p (front ++ item :: behind) = front ++ { item with holdEnded := true } :: behind := by
  induction front with
  | nil => exact if_pos hitem
  | cons x xs ih =>
    obtain ⟨hx, hxs⟩ := List.forall_mem_cons.1 hfront
    rw [List.cons_append, markHoldEnded, hx, ih hxs]
    rfl

theorem State.setHoldEnded_none {s : State} {o : OutputId} {p : Item → Bool}
    (h : ∀ item ∈ s.outputs[o].queue, p item = false) : s.setHoldEnded o p = (s, false) := by
  unfold State.setHoldEnded
  simp only
  exact if_neg (by simpa using h)

/-- A QUEUED item keeps its flag (R147). -/
theorem State.setHoldEnded_queued {s : State} {o : OutputId} {p : Item → Bool} {front behind : List Item} {item : Item}
    (hqueue : s.outputs[o].queue = front ++ item :: behind) (hitem : p item = true) (hfront : ∀ x ∈ front, p x = false)
    (hqueued : item.active = none) : s.setHoldEnded o p = (s.setOutput o { s.outputs[o] with
      queue := front ++ { item with holdEnded := true } :: behind }, true) := by
  have hany : s.outputs[o].queue.any p = true := List.any_eq_true.2 ⟨item, by rw [hqueue]; simp, hitem⟩
  unfold State.setHoldEnded
  simp only [hany, if_true]
  rw [hqueue, markHoldEnded_split hitem hfront]
  cases hactive : s.outputs[o].activeItem with
  | none => rfl
  | some head =>
    obtain ⟨y, a, rest⟩ := head
    obtain ⟨hhead, hy⟩ := Output.activeItem_eq_some.1 hactive
    have hne : p y = false := by
      cases front with
      | nil =>
        obtain ⟨rfl, -⟩ := List.cons.inj (hhead.symm.trans hqueue)
        exact nomatch hqueued.symm.trans hy
      | cons x xs =>
        obtain ⟨rfl, -⟩ := List.cons.inj (hhead.symm.trans hqueue)
        exact hfront y List.mem_cons_self
    simp only [hne]
    rfl

/-- The flag of the ACTIVE item acts at once (R147). -/
theorem State.setHoldEnded_active {s : State} {o : OutputId} {p : Item → Bool} {behind : List Item} {item : Item}
    {a : ActiveItem} (hqueue : s.outputs[o].queue = item :: behind) (hitem : p item = true)
    (hactive : item.active = some a) : s.setHoldEnded o p = ((s.setOutput o { s.outputs[o] with
      queue := { item with holdEnded := true } :: behind }).endingCause o .sent, true) := by
  have hany : s.outputs[o].queue.any p = true := List.any_eq_true.2 ⟨item, by rw [hqueue]; simp, hitem⟩
  have hhead : s.outputs[o].activeItem = some (item, a, behind) := Output.activeItem_eq_some.2 ⟨hqueue, hactive⟩
  have hmark := markHoldEnded_split hitem (front := []) (by simp) behind
  unfold State.setHoldEnded
  simp only [hany, if_true, hhead, hitem]
  rw [hqueue]
  exact congrArg (fun q => ((s.setOutput o { s.outputs[o] with queue := q }).endingCause o .sent, true)) hmark

/-- The ACTIVE item with its flag set, by the state of its output. -/
theorem State.endingCause_flagged {s : State} {o : OutputId} {item : Item} {a : ActiveItem} {behind : List Item}
    (hactive : item.active = some a) :
    let put := fun (x : Item) => s.setOutput o { s.outputs[o] with queue := x :: behind }
    ((∃ f, s.outputs[o].state = .frame f) ∨ s.outputs[o].state = .grant →
      (put item).endingCause o .sent = put { item with endPending := some (item.endPending.getD .sent) }) ∧
    (∀ next, s.outputs[o].state = .interval next →
      (put item).endingCause o .sent = (put item).endActive o .sent s.timebase) := by
  intro put
  have hself : (put item).outputs[o] = { s.outputs[o] with queue := item :: behind } := State.outputs_setOutput_self ..
  have hhead : (put item).outputs[o].activeItem = some (item, a, behind) :=
    Output.activeItem_eq_some.2 ⟨by rw [hself], hactive⟩
  refine ⟨fun hstate => ?_, fun next hstate => ?_⟩
  · rw [State.endingCause_pending hhead (by rw [hself]; exact hstate), State.setActive, hself]
    exact State.setOutput_setOutput ..
  · exact State.endingCause_interval hhead (by rw [hself]; exact hstate) .sent

/-- The state without the hold-ended messages of an output that have been taken. -/
def State.withHoldEnded (s : State) (l : Vector (List PressName) 2) : State :=
  { s with mail := { s.mail with holdEnded := l } }

theorem State.startHead_withHoldEnded (s : State) (o : OutputId) (l : Vector (List PressName) 2) :
    (s.withHoldEnded l).startHead o = (s.startHead o).withHoldEnded l := by
  cases hqueue : s.outputs[o].queue with
  | nil =>
    rw [State.startHead_nil hqueue, State.startHead_nil (s := s.withHoldEnded l) hqueue]
    rfl
  | cons item rest =>
    rw [State.startHead_cons hqueue, State.startHead_cons (s := s.withHoldEnded l) hqueue, State.raiseGrant_eq,
      State.raiseGrant_eq]
    rfl

theorem State.dropFrame_withHoldEnded (s : State) (o : OutputId) (l : Vector (List PressName) 2) :
    (s.withHoldEnded l).dropFrame o = (s.dropFrame o).withHoldEnded l := by
  show (match s.outputs[o].state.frame? with
    | some f => (s.withHoldEnded l).sendRemoval o f.chain
    | none => s.withHoldEnded l) = _
  unfold State.dropFrame
  cases s.outputs[o].state.frame? <;> rfl

theorem State.endActive_withHoldEnded (s : State) (o : OutputId) (outcome : ItemOutcome) (t : Time)
    (l : Vector (List PressName) 2) :
    (s.withHoldEnded l).endActive o outcome t = (s.endActive o outcome t).withHoldEnded l := by
  have hends : ∀ (u : State) items, (u.withHoldEnded l).reportItemEnds o outcome items =
      (u.reportItemEnds o outcome items).withHoldEnded l := fun u items => by
    rw [State.reportItemEnds_eq, State.reportItemEnds_eq]
    rfl
  have hset : ∀ (u : State) x, (u.withHoldEnded l).setOutput o x = (u.setOutput o x).withHoldEnded l := fun _ _ => rfl
  cases hitem : s.outputs[o].activeItem with
  | none =>
    have hkeep : s.endActive o outcome t = s := by simp only [State.endActive, hitem]
    have hkeep' : (s.withHoldEnded l).endActive o outcome t = s.withHoldEnded l := by
      simp only [State.endActive, State.withHoldEnded, hitem]
    rw [hkeep, hkeep']
  | some head =>
    obtain ⟨item, a, rest⟩ := head
    rw [State.endActive_eq hitem, State.endActive_eq (s := s.withHoldEnded l) hitem, State.dropFrame_withHoldEnded, hends]
    refine Eq.trans ?_ (apply_ite (State.withHoldEnded · l) _ _ _).symm
    rw [← State.startHead_withHoldEnded]
    rfl

theorem State.endingCause_withHoldEnded (s : State) (o : OutputId) (outcome : ItemOutcome)
    (l : Vector (List PressName) 2) :
    (s.withHoldEnded l).endingCause o outcome = (s.endingCause o outcome).withHoldEnded l := by
  cases hitem : s.outputs[o].activeItem with
  | none => simp only [State.endingCause, State.withHoldEnded, hitem]
  | some head =>
    obtain ⟨item, a, rest⟩ := head
    cases hstate : s.outputs[o].state with
    | frame f =>
      rw [State.endingCause_pending hitem (.inl ⟨f, hstate⟩),
        State.endingCause_pending (s := s.withHoldEnded l) hitem (.inl ⟨f, hstate⟩)]
      rfl
    | grant =>
      rw [State.endingCause_pending hitem (.inr hstate),
        State.endingCause_pending (s := s.withHoldEnded l) hitem (.inr hstate)]
      rfl
    | interval next =>
      rw [State.endingCause_interval hitem hstate, State.endingCause_interval (s := s.withHoldEnded l) hitem hstate]
      exact s.endActive_withHoldEnded o outcome s.timebase l
    | off | idle | space => simp only [State.endingCause, State.withHoldEnded, hitem, hstate]

theorem followsPress_iff {press : PressName} {item : Item} :
    followsPress press item = true ↔ item.origin = .relay press ∧ item.follow = true := by
  simp [followsPress, and_comm]

/-- What a row makes of the search for the item whose hold has ended. -/
structure EndsHold (s : State) (o : OutputId) (i : Instr) (p : Item → Bool) (close missed : State → State) : Prop where
  missed : (s.setHoldEnded o p).2 = false → exec i s = .next (missed s)
  found : (s.setHoldEnded o p).2 = true → exec i s = .next (close (s.setHoldEnded o p).1)

/-- The item whose hold has ended, QUEUED or ACTIVE, in either row. -/
theorem EndsHold.reaches {s : State} {o : OutputId} {i : Instr} {p : Item → Bool} {close missed : State → State}
    (h : EndsHold s o i p close missed) :
    ((∀ item ∈ s.outputs[o].queue, p item = false) → exec i s = .next (missed s)) ∧
    ∀ front item behind, s.outputs[o].queue = front ++ item :: behind → p item = true → (∀ x ∈ front, p x = false) →
      let flagged := { item with holdEnded := true }
      let put := fun (x : Item) => s.setOutput o { s.outputs[o] with queue := front ++ x :: behind }
      (item.active = none → exec i s = .next (close (put flagged))) ∧
      (∀ a, item.active = some a → front = [] →
        ((∃ f, s.outputs[o].state = .frame f) ∨ s.outputs[o].state = .grant →
          exec i s = .next (close (put { flagged with endPending := some (item.endPending.getD .sent) }))) ∧
        (∀ next, s.outputs[o].state = .interval next →
          exec i s = .next (close ((put flagged).endActive o .sent s.timebase)))) := by
  refine ⟨fun hnone => h.missed (by rw [State.setHoldEnded_none hnone]), fun front item behind hqueue hitem hfront => ?_⟩
  intro flagged put
  refine ⟨fun hqueued => ?_, fun a hactive hempty => ?_⟩
  · have hset := State.setHoldEnded_queued hqueue hitem hfront hqueued
    rw [h.found (by rw [hset]), hset]
  · subst hempty
    have hset := State.setHoldEnded_active hqueue hitem hactive
    obtain ⟨hpending, hended⟩ := State.endingCause_flagged (s := s) (o := o) (item := flagged) (behind := behind) hactive
    rw [h.found (by rw [hset]), hset]
    exact ⟨fun hstate => congrArg (fun t => Host.Outcome.next (close t)) (hpending hstate),
      fun next hstate => congrArg (fun t => Host.Outcome.next (close t)) (hended next hstate)⟩

theorem State.setHoldEnded_missed {s : State} {o : OutputId} {p : Item → Bool} (h : (s.setHoldEnded o p).2 = false) :
    s.setHoldEnded o p = (s, false) := by
  have hany : s.outputs[o].queue.any p = false := by
    refine Bool.eq_false_iff.2 fun hany => ?_
    unfold State.setHoldEnded at h
    simp only [hany, if_true] at h
    split at h
    · split at h <;> cases h
    · cases h
  exact State.setHoldEnded_none fun item hitem => Bool.eq_false_iff.2 (List.any_eq_false.1 hany item hitem)

theorem State.setHoldEnded_withHoldEnded (s : State) (o : OutputId) (p : Item → Bool) (l : Vector (List PressName) 2) :
    (s.withHoldEnded l).setHoldEnded o p =
      ((s.setHoldEnded o p).1.withHoldEnded l, (s.setHoldEnded o p).2) := by
  cases hany : s.outputs[o].queue.any p with
  | false =>
    have hnone : ∀ item ∈ s.outputs[o].queue, p item = false := fun item hitem =>
      Bool.eq_false_iff.2 (List.any_eq_false.1 hany item hitem)
    rw [State.setHoldEnded_none hnone, State.setHoldEnded_none (s := s.withHoldEnded l) hnone]
  | true =>
    have hcause := (s.setOutput o { s.outputs[o] with
      queue := markHoldEnded p s.outputs[o].queue }).endingCause_withHoldEnded o .sent l
    cases hitem : s.outputs[o].activeItem with
    | none =>
      simp only [State.setHoldEnded, State.withHoldEnded, hany, if_true, hitem]
      rfl
    | some head =>
      obtain ⟨item, a, rest⟩ := head
      cases hp : p item with
      | false =>
        simp only [State.setHoldEnded, State.withHoldEnded, hany, if_true, hitem, hp]
        rfl
      | true =>
        simp only [State.setHoldEnded, State.withHoldEnded, hany, if_true, hitem, hp]
        exact congrArg (·, true) hcause

theorem endsHold_holdEnd {s : State} {task : Task} {held : Bool} (hs : s.AtRequest .holdEnd task held) :
    EndsHold s (argOutput task.arg) (.holdEnd .request) (isHostHold ((task.word 0).extractLsb' 0 8))
      (fun t => t.finish task held .ok []) (fun t => t.finish task held .noSuchHold []) where
  missed hnone := by
    refine (exec_atRequest (work := holdEndWork) rfl hs).trans (congrArg _ ?_)
    simp only [holdEndWork, lowByte, State.setHoldEnded_missed hnone]
  found hfound := by
    refine (exec_atRequest (work := holdEndWork) rfl hs).trans (congrArg _ ?_)
    generalize hset : s.setHoldEnded (argOutput task.arg) (isHostHold ((task.word 0).extractLsb' 0 8)) = r at hfound
    obtain ⟨t, found⟩ := r
    obtain rfl : found = true := hfound
    simp only [holdEndWork, lowByte, hset]

theorem exec_holdEnded {s : State} {o : OutputId} {press : PressName} {rest : List PressName}
    (hmail : s.mail.holdEnded[o] = press :: rest) : exec (.holdEnded o) s =
      .next (((s.withHoldEnded (s.mail.holdEnded.set o rest)).setHoldEnded o (followsPress press)).1) := by
  show execHoldEnded o s = _
  simp only [execHoldEnded, hmail]
  rfl

theorem endsHold_message {s : State} {o : OutputId} {press : PressName} {rest : List PressName}
    (hmail : s.mail.holdEnded[o] = press :: rest) : EndsHold s o (.holdEnded o) (followsPress press)
      (fun t => { t with mail := { t.mail with holdEnded := t.mail.holdEnded.set o rest } })
      (fun t => { t with mail := { t.mail with holdEnded := t.mail.holdEnded.set o rest } }) where
  missed hnone := by
    rw [exec_holdEnded hmail, State.setHoldEnded_withHoldEnded, State.setHoldEnded_missed hnone]
    rfl
  found _ := by
    have hsame : (s.setHoldEnded o (followsPress press)).1.mail.holdEnded = s.mail.holdEnded :=
      (State.setHoldEnded_only s o _).within .holdEnded (by decide)
    rw [exec_holdEnded hmail, State.setHoldEnded_withHoldEnded, ← hsame]
    rfl

/-- Settles O33: the item that is named, QUEUED or ACTIVE, for HOLD END and for a hold-ended message. -/
theorem holdEndsReachTheirItem : Obligations.HoldEndsReachTheirItem := by
  intro s o i named close missed hi
  have hrow : ∃ p : Item → Bool, (∀ item, p item = true ↔ named item) ∧ EndsHold s o i p close missed := by
    rcases hi with ⟨task, held, rfl, hs, rfl, rfl, rfl, rfl⟩ | ⟨press, rest, rfl, hmail, rfl, rfl, rfl⟩
    · exact ⟨_, fun item => isHostHold_iff, endsHold_holdEnd hs⟩
    · exact ⟨_, fun item => followsPress_iff, endsHold_message hmail⟩
  obtain ⟨p, hp, hends⟩ := hrow
  have hnot : ∀ item, ¬ named item → p item = false := fun item hx => Bool.eq_false_iff.2 fun h => hx ((hp item).1 h)
  obtain ⟨hmissed, hfound⟩ := hends.reaches
  exact ⟨fun hnone => hmissed fun item hmem => hnot item (hnone item hmem),
    fun front item behind hqueue hnamed hfront => hfound front item behind hqueue ((hp item).2 hnamed)
      fun x hx => hnot x (hfront x hx)⟩

/-! ## OUTPUT CONFIGURE and OUTPUT FLUSH (R153, R154) -/

theorem State.withdrawGrant_eq (s : State) (o : OutputId) :
    s.withdrawGrant o = { s with claims := { s.claims with
      output := s.claims.output.set o
        (if s.claims.output[o] = some .frameGrant then none else s.claims.output[o]) } } := by
  unfold State.withdrawGrant State.grantWaits
  split
  · rename_i hgrant
    rw [if_pos (by simpa using hgrant)]
    rfl
  · rename_i hgrant
    rw [if_neg (by simpa using hgrant)]
    simp

theorem outputConfigures : Clause.outputConfigures := by
  intro s task held hs o x u
  refine (exec_atRequest (work := outputConfigureWork) rfl hs).trans (congrArg _ ?_)
  have hcut : ((s.dropFrame o).withdrawGrant o) = { s with
      claims := { s.claims with
        output := s.claims.output.set o
          (if s.claims.output[o] = some .frameGrant then none else s.claims.output[o]) }
      mail := { s.mail with removals := match x.state with
        | .frame f => s.mail.removals.set o (some f.chain)
        | _ => s.mail.removals } } := by
    rw [State.withdrawGrant_eq]
    cases hstate : x.state with
    | frame f =>
      rw [State.dropFrame_of_frame hstate]
      rfl
    | off | idle | grant | interval | space =>
      rw [State.dropFrame_of_not_frame fun f hf => nomatch (hstate : s.outputs[o].state = _).symm.trans hf]
  show ((s.configureOutput o task.outputConfig).finish task held .ok []) = _
  unfold State.configureOutput
  rw [hcut]
  rfl

/-- OUTPUT FLUSH of an output whose head is not ACTIVE. -/
theorem State.flush_inactive {s : State} {o : OutputId} (h : ∀ item ∈ s.outputs[o].queue.head?, item.active = none) :
    s.flush o = (s.reportItemEnds o .flushed s.outputs[o].queue).setOutput o {
      (s.reportItemEnds o .flushed s.outputs[o].queue).outputs[o] with queue := [] } := by
  have hnone : s.outputs[o].activeItem = none := by
    unfold Output.activeItem
    cases hqueue : s.outputs[o].queue with
    | nil => rfl
    | cons item rest => simp [h item (by rw [hqueue]; rfl)]
  simp only [State.flush, hnone]

/-- OUTPUT FLUSH of an output whose head is ACTIVE, by its state. -/
theorem State.flush_active {s : State} {o : OutputId} {item : Item} {a : ActiveItem} {rest : List Item}
    (hitem : s.outputs[o].activeItem = some (item, a, rest)) :
    let u := s.reportItemEnds o .flushed rest
    let put := fun (x : Item) => u.setOutput o { u.outputs[o] with queue := [x] }
    ((∃ f, s.outputs[o].state = .frame f) →
      s.flush o = put { item with endPending := some (item.endPending.getD .flushed) }) ∧
    (∀ next, s.outputs[o].state = .interval next → s.flush o = (put item).endActive o .flushed s.timebase) ∧
    (s.outputs[o].state = .grant →
      s.flush o = ((put item).withdrawGrant o).endActive o (item.endPending.getD .flushed) s.timebase) := by
  intro u put
  have hactive := (Output.activeItem_eq_some.1 hitem).2
  have hself : (put item).outputs[o] = { u.outputs[o] with queue := [item] } := State.outputs_setOutput_self ..
  have hhead : (put item).outputs[o].activeItem = some (item, a, []) :=
    Output.activeItem_eq_some.2 ⟨by rw [hself], hactive⟩
  have hstate : (put item).outputs[o].state = s.outputs[o].state := by
    rw [hself]
    exact (s.reportItemEnds_sameQueue o o .flushed rest).2.1
  have htime : (put item).timebase = s.timebase := by
    show (s.reportItemEnds o .flushed rest).timebase = _
    rw [State.reportItemEnds_eq]
    rfl
  have hflush : s.flush o = match (put item).outputs[o].state with
      | .grant => ((put item).withdrawGrant o).endActive o (item.endPending.getD .flushed) (put item).timebase
      | .frame _ | .interval _ | .off | .idle | .space _ => (put item).endingCause o .flushed := by
    simp only [State.flush, hitem]
    rfl
  refine ⟨fun ⟨f, hf⟩ => ?_, fun next hnext => ?_, fun hgrant => ?_⟩
  · rw [hflush, hstate, hf]
    refine (State.endingCause_pending hhead (.inl ⟨f, hstate.trans hf⟩)).trans ?_
    rw [State.setActive, hself]
    exact State.setOutput_setOutput ..
  · rw [hflush, hstate, hnext]
    refine (State.endingCause_interval hhead (hstate.trans hnext) .flushed).trans ?_
    rw [htime]
  · rw [hflush, hstate, hgrant, htime]

theorem flushes : Clause.flushes := by
  intro s task held hs o x put
  have hexec := exec_atRequest (i := .outputFlush .request) (work := outputFlushWork) rfl hs
  have hflush : ∀ t, s.flush o = t → exec (.outputFlush .request) s = .next (t.finish task held .ok []) :=
    fun t ht => by rw [hexec, ← ht]; rfl
  refine ⟨fun hinactive => hflush _ (State.flush_inactive hinactive), fun item a rest hqueue hactive => ?_⟩
  have hitem : s.outputs[o].activeItem = some (item, a, rest) := Output.activeItem_eq_some.2 ⟨hqueue, hactive⟩
  obtain ⟨hframe, hinterval, hgrant⟩ := State.flush_active hitem
  refine ⟨fun hstate => hflush _ (hframe hstate), fun next hstate => hflush _ (hinterval next hstate),
    fun hstate => hflush _ ((hgrant hstate).trans ?_)⟩
  have hclaims : (s.reportItemEnds o .flushed rest).claims = s.claims := by
    rw [State.reportItemEnds_eq]
    rfl
  rw [State.withdrawGrant_eq, State.setOutput_claims, hclaims, apply_ite (s.claims.output.set o ·)]
  simp [put, State.setOutput]

/-- Settles O34: the cut and the items of OUTPUT CONFIGURE, and OUTPUT FLUSH by the ACTIVE item. -/
theorem outputConfigureAndFlush : Obligations.OutputConfigureAndFlush := ⟨outputConfigures, flushes⟩

end Sys2Proof.Machine
end

section
/-! SUPPORT. The events of the receive inputs: bursts that are assembled and end (R68 to R75). -/

namespace Sys2Proof.Machine

theorem State.inputs_setInput_self (s : State) (i : InputId) (x : Input) : (s.setInput i x).inputs[i] = x :=
  Vector.getElem_set_self ..

theorem State.setInput_setInput (s : State) (i : InputId) (x y : Input) :
    (s.setInput i x).setInput i y = s.setInput i y := by
  simp [State.setInput]

/-- An input that is written and then sets a sticky bit. -/
theorem State.setSticky_setInput (s : State) (i : InputId) (x : Input) (f : InputSticky → InputSticky) :
    (s.setInput i x).setSticky i f = { s with
      inputs := s.inputs.set i { x with sticky := f x.sticky }
      port := { s.port with attention := { s.port.attention with input := s.port.attention.input.set i true } } } := by
  unfold State.setSticky
  rw [State.inputs_setInput_self, State.setInput_setInput]
  rfl

/-! ## GLITCH_FLOOR_REACHED (R68 to R71, R73) -/

theorem exec_glitchFloorReached (i : InputId) (t : Time) (s : State) : exec (.glitchFloorReached i t) s =
    .next (if s.watching i then (s.advanceTo t).inputFloor i else s.advanceTo t) := rfl

theorem State.inputFloor_none {s : State} {i : InputId} (h : s.inputs[i].floorReached s.timebase = none) :
    s.inputFloor i = s := by
  simp only [State.inputFloor, h]

theorem State.inputFloor_some {s : State} {i : InputId} {y : Assembler} {overlength : Bool}
    (h : s.inputs[i].floorReached s.timebase = some (y, overlength)) :
    s.inputFloor i = if overlength then { s with
        inputs := s.inputs.set i { s.inputs[i] with
          assembler := y, sticky := { s.inputs[i].sticky with overlength := true } }
        port := { s.port with attention := { s.port.attention with input := s.port.attention.input.set i true } } }
      else { s with inputs := s.inputs.set i { s.inputs[i] with assembler := y } } := by
  simp only [State.inputFloor, h]
  cases overlength with
  | false => rfl
  | true => rw [if_pos rfl, if_pos rfl, State.setSticky_setInput]

/-- A raw mark that began at `t₀` has lasted the floor. -/
def Input.MarkLasted (x : Input) (now t₀ : Time) : Prop :=
  x.raw.mark = true ∧ t₀ + x.config.glitchFloor ≤ x.markExtent now

theorem Input.markLasted_iff {x : Input} {now t₀ : Time} :
    (x.raw.mark && decide (t₀ + x.config.glitchFloor ≤ x.markExtent now)) = true ↔ x.MarkLasted now t₀ := by
  simp [Input.MarkLasted]

section
variable {x : Input} {now t₀ start : Time} {a : Assembly} {d : Discard}

theorem Input.floorReached_waiting (hx : x.assembler = .waiting (some t₀)) (h : x.MarkLasted now t₀) :
    x.floorReached now = some (.assembling {
      start := t₀, runs := [], openRun := .mark t₀, tentative := none, estimate := none
      estimated := decide (x.config.kind ≠ .carrier) }, false) := by
  simp only [Input.floorReached, hx]
  exact if_pos (Input.markLasted_iff.2 h)

theorem Input.floorReached_mark (hx : x.assembler = .assembling a) (hopen : a.openRun = .mark start)
    (htentative : a.tentative = some t₀) (hmark : x.raw.mark = false) (h : t₀ + x.config.glitchFloor ≤ now) :
    x.floorReached now =
      some (.assembling { a with runs := a.runs ++ [t₀ - start], openRun := .space t₀, tentative := none }, false) := by
  simp only [Input.floorReached, hx, hopen, htentative]
  exact if_pos (by simp [hmark, h])

theorem Input.floorReached_space (hx : x.assembler = .assembling a) (hopen : a.openRun = .space start)
    (htentative : a.tentative = some t₀) (h : x.MarkLasted now t₀) :
    x.floorReached now = if a.runs.length < 127 then
        some (.assembling { a with runs := a.runs ++ [t₀ - start], openRun := .mark t₀, tentative := none }, false)
      else some (.discarding Discard.start, true) := by
  simp only [Input.floorReached, hx, hopen, htentative]
  exact if_pos (Input.markLasted_iff.2 h)

theorem Input.floorReached_discarding (hx : x.assembler = .discarding d) (htentative : d.tentative = some t₀)
    (h : x.MarkLasted now t₀) : x.floorReached now = some (.discarding Discard.start, false) := by
  simp only [Input.floorReached, hx, htentative]
  exact if_pos (Input.markLasted_iff.2 h)

/-- No tentative run, or one that has not lasted the floor. -/
theorem Input.floorReached_none
    (h : x.assembler = .waiting none ∨ (∃ a, x.assembler = .assembling a ∧ a.tentative = none) ∨
      (∃ d, x.assembler = .discarding d ∧ d.tentative = none) ∨
      (∃ t₀, x.assembler = .waiting (some t₀) ∧ ¬x.MarkLasted now t₀) ∨
      (∃ a start t₀, x.assembler = .assembling a ∧ a.openRun = .mark start ∧ a.tentative = some t₀ ∧
        (x.raw.mark = true ∨ now < t₀ + x.config.glitchFloor)) ∨
      (∃ a start t₀, x.assembler = .assembling a ∧ a.openRun = .space start ∧ a.tentative = some t₀ ∧
        ¬x.MarkLasted now t₀) ∨
      ∃ d t₀, x.assembler = .discarding d ∧ d.tentative = some t₀ ∧ ¬x.MarkLasted now t₀) :
    x.floorReached now = none := by
  rcases h with hx | ⟨a, hx, ha⟩ | ⟨d, hx, hd⟩ | ⟨t₀, hx, hnot⟩ | ⟨a, start, t₀, hx, hopen, ha, hnot⟩ |
    ⟨a, start, t₀, hx, hopen, ha, hnot⟩ | ⟨d, t₀, hx, hd, hnot⟩
  · simp only [Input.floorReached, hx]
  · simp only [Input.floorReached, hx, ha]
  · simp only [Input.floorReached, hx, hd]
  · simp only [Input.floorReached, hx]
    exact if_neg fun h => hnot (Input.markLasted_iff.1 h)
  · simp only [Input.floorReached, hx, hopen, ha]
    refine if_neg fun h => ?_
    obtain ⟨hmark, hlasted⟩ := (Bool.and_eq_true ..).mp h
    rcases hnot with hnot | hnot
    · rw [hnot] at hmark
      cases hmark
    · exact Nat.not_lt.2 (of_decide_eq_true hlasted) hnot
  · simp only [Input.floorReached, hx, hopen, ha]
    exact if_neg fun h => hnot (Input.markLasted_iff.1 h)
  · simp only [Input.floorReached, hx, hd]
    exact if_neg fun h => hnot (Input.markLasted_iff.1 h)

end

theorem glitchFloors : Clause.glitchFloors := by
  intro i t s now u x put markLasted
  have hexec := exec_glitchFloorReached i t s
  refine ⟨fun hwatch => by rw [hexec, hwatch]; rfl, fun hwatch => ?_⟩
  rw [hwatch, if_pos rfl] at hexec
  have hput : ∀ y, x.floorReached now = some (y, false) → exec (.glitchFloorReached i t) s = .next (put y) :=
    fun y hy => hexec.trans (congrArg _ (State.inputFloor_some (s := s.advanceTo t) hy))
  refine ⟨fun t₀ hx h => hput _ (Input.floorReached_waiting hx h),
    fun a start t₀ hx hopen ha hmark h => hput _ (Input.floorReached_mark hx hopen ha hmark h),
    fun a start t₀ hx hopen ha h => ?_, fun d t₀ hx hd h => hput _ (Input.floorReached_discarding hx hd h),
    fun h => hexec.trans (congrArg _ (State.inputFloor_none (s := s.advanceTo t) (Input.floorReached_none h)))⟩
  have hspace := Input.floorReached_space hx hopen ha h
  refine ⟨fun hroom => hput _ (hspace.trans (if_pos hroom)), fun hlong => ?_⟩
  exact hexec.trans (congrArg _ (State.inputFloor_some (s := s.advanceTo t)
    (hspace.trans (if_neg (Nat.not_lt.2 hlong)))))

theorem markExtents : Clause.markExtents := by
  intro x now f
  unfold Input.markExtent
  refine ⟨fun h => ?_, fun hkind hline hedge => ?_⟩
  · cases hkind : x.config.kind with
    | carrier =>
      simp only
      exact if_pos (h.resolve_left fun hne => hne hkind)
    | envelope | off => rfl
  · simp only [hkind, hline, hedge]
    rfl

/-! ## STUCK, END_GAP and DISCARDING_END_GAP (R70, R72 to R75) -/

theorem exec_stuck (i : InputId) (t : Time) (s : State) : exec (.stuck i t) s =
    .next (if s.watching i then (s.advanceTo t).inputStuck i else s.advanceTo t) := rfl

theorem exec_endGap (i : InputId) (t : Time) (s : State) : exec (.endGap i t) s =
    .next (if s.watching i then (s.advanceTo t).inputEndGap i else s.advanceTo t) := rfl

theorem exec_discardingEndGap (i : InputId) (t : Time) (s : State) : exec (.discardingEndGap i t) s =
    .next (if s.watching i then (s.advanceTo t).inputDiscardGap i else s.advanceTo t) := rfl

theorem Input.stuckDue_mark {x : Input} {now start : Time} {a : Assembly} (hx : x.assembler = .assembling a)
    (hopen : a.openRun = .mark start) (hmark : x.raw.mark = true) :
    x.stuckDue now = decide (start + 60000 < x.markExtent now) := by
  simp only [Input.stuckDue, hx, hopen, hmark, Bool.true_and]
  rfl

theorem Input.stuckDue_false {x : Input} {now : Time}
    (h : (∀ a start, x.assembler = .assembling a → a.openRun ≠ .mark start) ∨ x.raw.mark = false) :
    x.stuckDue now = false := by
  unfold Input.stuckDue
  split
  · rename_i a hx
    split
    · rename_i start hopen
      rw [h.resolve_left fun hnot => hnot a start hx hopen]
      rfl
    · rfl
  all_goals rfl

theorem Input.endGapDue_space {x : Input} {now start : Time} {a : Assembly} (hx : x.assembler = .assembling a)
    (hopen : a.openRun = .space start) (htentative : a.tentative = none) :
    x.endGapDue now = if start + x.config.endGap * 1000 ≤ now then some (a, start) else none := by
  simp only [Input.endGapDue, hx, hopen, htentative]
  rfl

theorem Input.endGapDue_none {x : Input} {now : Time}
    (h : ∀ a start, x.assembler = .assembling a → a.openRun = .space start → a.tentative ≠ none) :
    x.endGapDue now = none := by
  unfold Input.endGapDue
  split
  · rename_i a hx
    split
    · rename_i hopen htentative
      exact absurd htentative (h a _ hx hopen)
    · rfl
  all_goals rfl

theorem Input.discardGapDue_space {x : Input} {now start : Time} {d : Discard} (hx : x.assembler = .discarding d)
    (hspace : d.spaceSince = some start) (htentative : d.tentative = none) :
    x.discardGapDue now = decide (start + x.config.endGap * 1000 ≤ now) := by
  simp only [Input.discardGapDue, hx, hspace, htentative]
  rfl

theorem Input.discardGapDue_false {x : Input} {now : Time}
    (h : ∀ d start, x.assembler = .discarding d → d.spaceSince = some start → d.tentative ≠ none) :
    x.discardGapDue now = false := by
  unfold Input.discardGapDue
  split
  · rename_i d hx
    split
    · rename_i hspace htentative
      exact absurd htentative (h d _ hx hspace)
    · rfl
  all_goals rfl

theorem State.inputEndGap_none {s : State} {i : InputId} (h : s.inputs[i].endGapDue s.timebase = none) :
    s.inputEndGap i = s := by
  simp only [State.inputEndGap, h]

theorem State.inputEndGap_some {s : State} {i : InputId} {a : Assembly} {finish : Time}
    (h : s.inputs[i].endGapDue s.timebase = some (a, finish)) :
    s.inputEndGap i = if a.runs.length < 3 then s.setInput i { s.inputs[i] with assembler := .waiting none }
      else (s.setInput i { s.inputs[i] with assembler := .waiting none }).offerBurst i
        (finishedBurst i s.inputs[i] a finish) := by
  simp only [State.inputEndGap, h]

theorem State.offerBurst_setInput {s : State} {i : InputId} {x : Input} (b : Burst) :
    (x.held = none → (s.setInput i x).offerBurst i b = { s with
      inputs := s.inputs.set i { x with held := some b }
      claims := { s.claims with lookup := s.claims.lookup.set i true } }) ∧
    (x.held ≠ none → (s.setInput i x).offerBurst i b = { s with
      inputs := s.inputs.set i { x with sticky := { x.sticky with overrun := true } }
      port := { s.port with attention := { s.port.attention with input := s.port.attention.input.set i true } } }) := by
  have hself := s.inputs_setInput_self i x
  refine ⟨fun hempty => ?_, fun hfull => ?_⟩
  · simp only [State.offerBurst, hself, hempty, State.setInput_setInput]
    rfl
  · obtain ⟨other, hother⟩ := Option.ne_none_iff_exists'.1 hfull
    simp only [State.offerBurst, hself, hother]
    rw [State.setSticky_setInput]
    simp [hother]

theorem finishedBurst_eq (i : InputId) (x : Input) (a : Assembly) (finish : Time) : finishedBurst i x a finish = {
    input := i, kind := x.config.kind.burstKind, runs := a.runs
    estimate := if x.config.kind = .carrier then a.estimate else none
    startTime := a.start, endTime := finish } := by
  unfold finishedBurst
  cases x.config.kind <;> rfl

theorem burstEnds : Clause.burstEnds := by
  intro i t s now u x flagged
  have hstuck : x.stuckDue now = false → exec (.stuck i t) s = .next u := fun h => by
    have hkeep : u.inputStuck i = u := if_neg (by rw [show u.inputs[i].stuckDue u.timebase = false from h]; simp)
    rw [exec_stuck, hkeep, ite_self]
  have hend : x.endGapDue now = none → exec (.endGap i t) s = .next u := fun h => by
    rw [exec_endGap, State.inputEndGap_none (s := s.advanceTo t) h, ite_self]
  have hdiscard : x.discardGapDue now = false → exec (.discardingEndGap i t) s = .next u := fun h => by
    have hkeep : u.inputDiscardGap i = u :=
      if_neg (by rw [show u.inputs[i].discardGapDue u.timebase = false from h]; simp)
    rw [exec_discardingEndGap, hkeep, ite_self]
  refine ⟨fun h => ?_, fun h => ?_, fun h => ?_, fun hwatch => ⟨fun a start hx hopen hmark => ?_,
    fun a start hx hopen htentative => ?_, fun d start hx hspace htentative => ?_⟩⟩
  · rcases h with hwatch | h
    · rw [exec_stuck, hwatch]
      rfl
    · exact hstuck (Input.stuckDue_false h)
  · rcases h with hwatch | h
    · rw [exec_endGap, hwatch]
      rfl
    · exact hend (Input.endGapDue_none h)
  · rcases h with hwatch | h
    · rw [exec_discardingEndGap, hwatch]
      rfl
    · exact hdiscard (Input.discardGapDue_false h)
  · have hdue := Input.stuckDue_mark (now := now) hx hopen hmark
    refine ⟨fun hlong => ?_, fun hshort => hstuck (hdue.trans (decide_eq_false (Nat.not_lt.2 hshort)))⟩
    rw [exec_stuck, hwatch]
    refine congrArg Host.Outcome.next ?_
    refine (if_pos (hdue.trans (decide_eq_true hlong))).trans ?_
    exact State.setSticky_setInput ..
  · have hdue := Input.endGapDue_space (now := now) hx hopen htentative
    refine ⟨fun hbefore => hend (hdue.trans (if_neg (Nat.not_le.2 hbefore))), fun hafter => ?_⟩
    have hexec : exec (.endGap i t) s = .next (u.inputEndGap i) := by rw [exec_endGap, hwatch]; rfl
    rw [hexec, State.inputEndGap_some (s := s.advanceTo t) (hdue.trans (if_pos hafter)), finishedBurst_eq]
    refine ⟨fun hrunt => ?_, fun hburst hempty => ?_, fun hburst hfull => ?_⟩
    · rw [if_pos hrunt]
      rfl
    · rw [if_neg (Nat.not_lt.2 hburst)]
      exact congrArg Host.Outcome.next ((State.offerBurst_setInput (x := { x with assembler := .waiting none }) _).1 hempty)
    · rw [if_neg (Nat.not_lt.2 hburst)]
      exact congrArg Host.Outcome.next ((State.offerBurst_setInput (x := { x with assembler := .waiting none }) _).2 hfull)
  · have hdue := Input.discardGapDue_space (now := now) hx hspace htentative
    refine ⟨fun hafter => ?_, fun hbefore => hdiscard (hdue.trans (decide_eq_false (Nat.not_le.2 hbefore)))⟩
    rw [exec_discardingEndGap, hwatch]
    exact congrArg Host.Outcome.next (if_pos (hdue.trans (decide_eq_true hafter)))

/-- Settles O54: what is due on an input, event by event. -/
theorem burstsAreAssembledAndEnd : Obligations.BurstsAreAssembledAndEnd := ⟨glitchFloors, burstEnds, markExtents⟩

end Sys2Proof.Machine
end

section
/-! SUPPORT. The raw marks of a receive input, its blanking and its configuration (R65 to R67, R69, R76 to R81). -/

namespace Sys2Proof.Machine

/-! ## The line (R65, R66, R77) -/

theorem lineActive_iff (c : InputConfig) (l : Line) :
    lineActive c l = true ↔ (c.polarity = .activeHigh ↔ l.high = true) := by
  unfold lineActive
  cases c.polarity <;> cases l.high <;> simp

/-- After a transition the line stands at its other level. -/
theorem lineActive_toggled (c : InputConfig) (l : Line) (now : Time) :
    lineActive c (l.toggled now) = !lineActive c l := by
  unfold lineActive Line.toggled
  cases c.polarity <;> cases l.high <;> rfl

/-- A transition out of the active level is no active edge. -/
theorem lastActiveEdge_toggled {c : InputConfig} {l : Line} (h : lineActive c l = true) (now : Time) :
    lastActiveEdge c (l.toggled now) = lastActiveEdge c l := by
  unfold lineActive at h
  unfold lastActiveEdge Line.toggled
  cases hpolarity : c.polarity <;> cases hhigh : l.high <;> simp_all

theorem quietLines : Clause.quietLines := by
  intro c l now
  refine ⟨lineActive_iff c l, fun h => ?_, fun h => ?_, ?_⟩
  · simp only [lastActiveEdge, lastInactiveEdge, h, and_self]
  · simp only [lastActiveEdge, lastInactiveEdge, h, and_self]
  · unfold lineQuiet
    rw [Bool.and_eq_true, Bool.not_eq_true']
    refine and_congr_right fun _ => ?_
    cases hkind : c.kind with
    | carrier =>
      cases hedge : lastActiveEdge c l with
      | none => simp
      | some e =>
        simp only [true_implies, Option.some.injEq, forall_eq']
        exact decide_eq_true_iff
    | envelope | off => simp

theorem resumedInputs : Clause.resumedInputs := by
  intro x now
  exact ⟨fun h => if_pos h, fun h => if_neg (by rw [h]; simp)⟩

theorem carrierEstimates : Clause.carrierEstimates := by
  intro edges span
  unfold carrierEstimate
  refine ⟨fun hfew => if_pos hfew, fun hmany hzero => ?_, fun hmany hspan => ?_⟩
  · rw [if_neg (Nat.not_lt.2 hmany), if_pos hzero]
  · have hdouble : 0 < 2 * span := by omega
    rw [if_neg (Nat.not_lt.2 hmany), if_neg hspan.ne']
    refine ⟨(2 * (2000 * (edges - 1)) + span) / (2 * span), rfl, ?_, ?_⟩
    · have hle := Nat.div_mul_le_self (2 * (2000 * (edges - 1)) + span) (2 * span)
      calc 2 * ((2 * (2000 * (edges - 1)) + span) / (2 * span)) * span
          = (2 * (2000 * (edges - 1)) + span) / (2 * span) * (2 * span) := by ring
        _ ≤ 2 * (2000 * (edges - 1)) + span := hle
        _ = 4000 * (edges - 1) + span := by ring
    · have hlt := Nat.lt_div_mul_add (a := 2 * (2000 * (edges - 1)) + span) hdouble
      calc 4000 * (edges - 1) + span
          = 2 * (2000 * (edges - 1)) + span := by ring
        _ < (2 * (2000 * (edges - 1)) + span) / (2 * span) * (2 * span) + 2 * span := hlt
        _ = 2 * ((2 * (2000 * (edges - 1)) + span) / (2 * span) + 1) * span := by ring

theorem watchedLines : Clause.watchedLines := by
  intro s i
  unfold State.watching
  rw [Bool.and_eq_true, Option.isNone_iff_eq_none]
  refine and_congr_right fun _ => ?_
  cases s.inputs[i].assembler <;> simp

/-! ## The end of a raw mark (R65 to R70, R73, R77) -/

theorem Assembly.withEstimate_openRun (a : Assembly) (x : Input) : (a.withEstimate x).openRun = a.openRun := by
  unfold Assembly.withEstimate
  split <;> rfl

theorem Input.markEnds_assembling {x : Input} {a : Assembly} (hx : x.assembler = .assembling a) (e : Time) :
    x.markEnds e = .assembling { a.withEstimate x with tentative := match a.openRun with
      | .mark _ => some e
      | .space _ => none } := by
  have hopen := a.withEstimate_openRun x
  simp only [Input.markEnds, hx]
  cases ha : a.openRun <;> simp only [hopen, ha]

theorem Input.markEnds_measured {x : Input} {d : Discard} (hx : x.assembler = .discarding d) (e : Time)
    (h : d.spaceSince ≠ none ∨ d.tentative ≠ none) : x.markEnds e = .discarding { d with tentative := none } := by
  simp only [Input.markEnds, hx]
  cases hspace : d.spaceSince <;> cases htentative : d.tentative <;> simp_all

theorem Input.markEnds_unmeasured {x : Input} {d : Discard} (hx : x.assembler = .discarding d) (e : Time)
    (hspace : d.spaceSince = none) (htentative : d.tentative = none) : x.markEnds e = .discarding {
      spaceSince := some (if d.untilQuiet then quietFrom x.config x.line e else e), tentative := none
      untilQuiet := false } := by
  simp only [Input.markEnds, hx, hspace, htentative]

theorem markEndings : Clause.markEndings := by
  intro x e y
  refine ⟨rfl, fun h => ?_, fun v hx => ?_, fun a hx => Input.markEnds_assembling hx e, fun d hx => ⟨fun h =>
    Input.markEnds_measured hx e h, fun hspace htentative => ⟨_, Input.markEnds_unmeasured hx e hspace htentative, ?_, ?_⟩⟩⟩
  · show x.markEnds e = x.assembler
    rcases h with hx | hx <;> simp only [Input.markEnds, hx]
  · show x.markEnds e = .waiting none
    simp only [Input.markEnds, hx]
  · intro h
    cases hquiet : d.untilQuiet with
    | false => rfl
    | true =>
      rw [if_pos rfl]
      unfold quietFrom
      cases hkind : x.config.kind with
      | carrier =>
        rcases h with h | h | h
        · exact nomatch hquiet.symm.trans h
        · exact absurd hkind h
        · simp only [h]
      | envelope | off => rfl
  · intro edge hquiet hkind hedge
    rw [hquiet, if_pos rfl]
    simp only [quietFrom, hkind, hedge]
    rfl

/-! ## CARRIER_GAP (R66, R67, R69) -/

theorem exec_carrierGap (i : InputId) (t : Time) (s : State) : exec (.carrierGap i t) s =
    .next (if s.watching i then (s.advanceTo t).inputGap i else s.advanceTo t) := rfl

theorem State.inputGap_due {s : State} {i : InputId} {f : Time} (h : s.inputs[i].gapDue s.timebase = true)
    (hedge : lastInactiveEdge s.inputs[i].config s.inputs[i].line = some f) :
    s.inputGap i = s.setInput i (s.inputs[i].endMark f) := by
  unfold State.inputGap
  simp only [h, if_true, hedge]
  rfl

theorem State.inputGap_early {s : State} {i : InputId} (h : s.inputs[i].gapDue s.timebase = false) : s.inputGap i = s := by
  unfold State.inputGap
  simp only [h]
  rfl

theorem Input.gapDue_eq {x : Input} {e : Time} (hkind : x.config.kind = .carrier) (hmark : x.raw.mark = true)
    (hline : lineActive x.config x.line = false) (hedge : lastActiveEdge x.config x.line = some e) (now : Time) :
    x.gapDue now = decide (e + 70 ≤ now) := by
  simp only [Input.gapDue, hkind, hmark, hline, gapPassed, hedge]
  rfl

/-- The end of a mark by its CARRIER_GAP. -/
theorem exec_carrierGap_due {i : InputId} {t : Time} {s : State} {e f : Time} (hwatch : s.watching i = true)
    (hkind : s.inputs[i].config.kind = .carrier) (hmark : s.inputs[i].raw.mark = true)
    (hline : lineActive s.inputs[i].config s.inputs[i].line = false)
    (hactive : lastActiveEdge s.inputs[i].config s.inputs[i].line = some e)
    (hinactive : lastInactiveEdge s.inputs[i].config s.inputs[i].line = some f) (hgap : e + 70 ≤ max s.timebase t) :
    exec (.carrierGap i t) s = .next ((s.advanceTo t).setInput i (s.inputs[i].endMark f)) := by
  have hdue : (s.advanceTo t).inputs[i].gapDue (s.advanceTo t).timebase = true :=
    (Input.gapDue_eq hkind hmark hline hactive _).trans (decide_eq_true hgap)
  rw [exec_carrierGap, hwatch, if_pos rfl, State.inputGap_due hdue hinactive]
  rfl

theorem carrierGaps : Clause.carrierGaps := by
  intro i t s e f now u x hwatch hkind hmark hline hactive hinactive
  refine ⟨fun hbefore => ?_, fun hgap =>
    ⟨_, exec_carrierGap_due hwatch hkind hmark hline hactive hinactive hgap, rfl, fun v hx => ?_, fun a start hx hopen => ?_,
      fun a start hx hopen hestimated => ?_⟩⟩
  · have hdue : u.inputs[i].gapDue u.timebase = false :=
      (Input.gapDue_eq hkind hmark hline hactive _).trans (decide_eq_false (Nat.not_le.2 hbefore))
    rw [exec_carrierGap, State.inputGap_early hdue, ite_self]
  · show x.markEnds f = .waiting none
    simp only [Input.markEnds, hx]
  · have hends := Input.markEnds_assembling hx f
    rw [hopen] at hends
    refine ⟨fun hestimated => hends.trans ?_, fun hestimated => hends.trans ?_⟩
    · rw [show a.withEstimate x = a from if_pos hestimated]
    · have hestimate : a.withEstimate x = { a with
          estimated := true, estimate := carrierEstimate x.raw.edges (e - x.raw.firstEdge) } := by
        unfold Assembly.withEstimate
        rw [if_neg (by rw [hestimated]; simp), show lastActiveEdge x.config x.line = some e from hactive]
        rfl
      rw [hestimate]
  · have hends := Input.markEnds_assembling hx f
    rw [hopen] at hends
    refine hends.trans ?_
    rw [show a.withEstimate x = a from if_pos hestimated]

theorem noCarrierGap : Clause.noCarrierGap := by
  intro i t s x h
  have hkeep : s.watching i = true → (s.advanceTo t).inputs[i].gapDue (s.advanceTo t).timebase = false := fun hwatch => by
    show x.gapDue _ = false
    unfold Input.gapDue
    rcases h with h | h | h | h
    · exact nomatch h.symm.trans hwatch
    · simp [h]
    · simp [h]
    · simp [h]
  rw [exec_carrierGap]
  cases hwatch : s.watching i with
  | false => rfl
  | true => rw [if_pos rfl, State.inputGap_early (hkeep hwatch)]

/-! ## LINE_TRANSITION (R65, R66, R68 to R70, R73, R76) -/

/-- Nothing of the input is overdue at an edge. -/
def Input.Settled (x : Input) (now : Time) : Prop :=
  x.floorReached now = none ∧ x.stuckDue now = false ∧ x.gapOverdue now = false ∧ x.endGapDue now = none ∧
    x.discardGapDue now = false

theorem State.settleInput_settled {s : State} {i : InputId} (h : s.inputs[i].Settled s.timebase) :
    s.settleInput i = s := by
  obtain ⟨hfloor, hstuck, hgap, hend, hdiscard⟩ := h
  have h1 : s.inputFloor i = s := State.inputFloor_none hfloor
  have h2 : s.inputStuck i = s := if_neg (by rw [hstuck]; simp)
  have h3 : s.inputGapBefore i = s := if_neg (by rw [hgap]; simp)
  have h4 : s.inputEndGap i = s := State.inputEndGap_none hend
  have h5 : s.inputDiscardGap i = s := if_neg (by rw [hdiscard]; simp)
  rw [State.settleInput, h1, h2, h3, h1, h4, h5]

/-- The input with the edge noted. -/
def Input.noted (x : Input) (now : Time) : Input := { x with line := x.line.toggled now }

theorem exec_lineTransition_unwatched {i : InputId} {t : Time} {s : State} (h : s.watching i = false) :
    exec (.lineTransition i t) s =
      .next ((s.advanceTo t).setInput i (s.inputs[i].noted (max s.timebase t))) := by
  refine congrArg Host.Outcome.next ?_
  exact if_neg (by rw [show (s.advanceTo t).watching i = false from h]; simp)

theorem exec_lineTransition_watched {i : InputId} {t : Time} {s : State} (h : s.watching i = true)
    (hsettled : s.inputs[i].Settled (max s.timebase t)) :
    exec (.lineTransition i t) s =
      .next ((s.advanceTo t).setInput i (s.inputs[i].takeTransition (max s.timebase t))) := by
  refine congrArg Host.Outcome.next ?_
  unfold State.inputTransition
  rw [if_pos (show (s.advanceTo t).watching i = true from h), State.settleInput_settled (s := s.advanceTo t) hsettled]
  rfl

section
variable {x : Input} {now : Time}

theorem Input.takeTransition_edge (hline : lineActive x.config x.line = false) (hmark : x.raw.mark = true) :
    x.takeTransition now = { x.noted now with raw := { x.raw with edges := x.raw.edges + 1 } } := by
  have hactive : lineActive x.config (x.line.toggled now) = true := by rw [lineActive_toggled, hline]; rfl
  simp only [Input.takeTransition, hactive, if_true, hmark]
  rfl

theorem Input.takeTransition_begins (hline : lineActive x.config x.line = false) (hmark : x.raw.mark = false) :
    x.takeTransition now = { x.noted now with
      raw := { mark := true, since := now, edges := 1, firstEdge := now }
      assembler := x.assembler.markBegins now } := by
  have hactive : lineActive x.config (x.line.toggled now) = true := by rw [lineActive_toggled, hline]; rfl
  simp only [Input.takeTransition, hactive, if_true, hmark]
  rfl

theorem Input.takeTransition_envelope (hline : lineActive x.config x.line = true) (hkind : x.config.kind = .envelope) :
    x.takeTransition now = (x.noted now).endMark now := by
  have hactive : lineActive x.config (x.line.toggled now) = false := by rw [lineActive_toggled, hline]; rfl
  simp only [Input.takeTransition, hactive, hkind]
  rfl

theorem Input.takeTransition_carrier (hline : lineActive x.config x.line = true) (hkind : x.config.kind = .carrier) :
    x.takeTransition now =
      if x.raw.mark && gapPassed x.config x.line now then (x.noted now).endMark now else x.noted now := by
  have hactive : lineActive x.config (x.line.toggled now) = false := by rw [lineActive_toggled, hline]; rfl
  have hgap : gapPassed x.config (x.line.toggled now) now = gapPassed x.config x.line now := by
    unfold gapPassed
    rw [lastActiveEdge_toggled hline]
  simp only [Input.takeTransition, hactive, hkind, hgap]
  rfl

end

theorem Assembler.markBegins_eq (t : Time) (y : Assembler) : y.markBegins t = match y with
    | .off => .off
    | .blanked => .blanked
    | .waiting _ => .waiting (some t)
    | .assembling a => .assembling { a with tentative := match a.openRun with
        | .mark _ => none
        | .space _ => some t }
    | .discarding d => .discarding { d with tentative := some t } := by
  cases y with
  | assembling a => cases hopen : a.openRun <;> simp only [Assembler.markBegins, hopen]
  | off | blanked | waiting | discarding => rfl

theorem lineTransitions : Clause.lineTransitions := by
  intro i t s now u x put noted active
  refine ⟨fun hwatch => exec_lineTransition_unwatched hwatch, fun hwatch hfloor hstuck hgap hend hdiscard => ?_⟩
  have hexec := exec_lineTransition_watched hwatch ⟨hfloor, hstuck, hgap, hend, hdiscard⟩
  have hline : active ↔ lineActive x.config x.line = false := by
    rw [← Bool.not_eq_true, lineActive_iff]
    show (_ ↔ _) ↔ _
    cases x.line.high <;> by_cases hp : x.config.polarity = .activeHigh <;> simp [hp]
  have hput : ∀ y, x.takeTransition now = y → exec (.lineTransition i t) s = .next (put y) := fun y hy => by
    rw [hexec, ← hy]
    rfl
  refine ⟨fun hactive hmark => hput _ (Input.takeTransition_edge (hline.1 hactive) hmark), fun hactive hmark => ?_,
    fun hinactive hkind hestimated hmeasured => ?_, fun hinactive hkind hgap' hedge => ?_⟩
  · refine hput _ ((Input.takeTransition_begins (hline.1 hactive) hmark).trans ?_)
    rw [Assembler.markBegins_eq]
    rfl
  · have hactive : lineActive x.config x.line = true := Bool.not_eq_false _ ▸ fun h => hinactive (hline.2 h)
    refine hput _ ((Input.takeTransition_envelope hactive hkind).trans ?_)
    refine congrArg (fun y : Assembler => ({ noted with
      raw := { mark := false, since := now, edges := 0, firstEdge := 0 }
      assembler := y } : Input)) (?_ : (x.noted now).markEnds now = _)
    cases hx : x.assembler with
    | assembling a =>
      rw [Input.markEnds_assembling (x := x.noted now) hx,
        show a.withEstimate (x.noted now) = a from if_pos (hestimated a hx)] <;> rfl
    | discarding d => exact Input.markEnds_measured (x := x.noted now) hx now (hmeasured d hx)
    | off | blanked | waiting => simp only [Input.markEnds, Input.noted, hx]
  · have hactive : lineActive x.config x.line = true := Bool.not_eq_false _ ▸ fun h => hinactive (hline.2 h)
    refine hput _ ((Input.takeTransition_carrier hactive hkind).trans (if_neg ?_))
    obtain ⟨e, he⟩ := Option.ne_none_iff_exists'.1 hedge
    have hnot : gapPassed x.config x.line now = false := by
      simp only [gapPassed, he]
      exact decide_eq_false (Nat.not_le.2 (hgap' e he))
    simp [hnot]

theorem marksEnd : Clause.marksEnd := by
  intro i t s now u x put noted hwatch
  refine ⟨fun hfloor hstuck hgap hend hdiscard hline => ?_, fun hkind hmark hline e f hactive hinactive hdue =>
    exec_carrierGap_due hwatch hkind hmark hline hactive hinactive hdue⟩
  have hexec := exec_lineTransition_watched hwatch ⟨hfloor, hstuck, hgap, hend, hdiscard⟩
  have hput : ∀ y, x.takeTransition now = y → exec (.lineTransition i t) s = .next (put y) := fun y hy => by
    rw [hexec, ← hy]
    rfl
  refine ⟨fun hkind => hput _ (Input.takeTransition_envelope hline hkind), fun hkind hdue => hput _ ?_⟩
  have hpassed : gapPassed x.config x.line now = true := by
    unfold gapPassed
    cases hedge : lastActiveEdge x.config x.line with
    | none => rfl
    | some e => exact decide_eq_true (hdue e hedge)
  rw [Input.takeTransition_carrier hline hkind, hpassed, Bool.and_true]
  rfl

/-- Settles O53: what a transition does to the line, what begins and what ends a raw mark, and what its end does. -/
theorem rawMarksFollowTheLine : Obligations.RawMarksFollowTheLine :=
  ⟨lineTransitions, carrierGaps, marksEnd, markEndings, quietLines, resumedInputs, noCarrierGap, carrierEstimates,
    watchedLines⟩

end Sys2Proof.Machine
end

section
/-! SUPPORT. Blanking, sticky requests, the configuration of an input and the end of the memory test (R59, R76 to R81). -/

namespace Sys2Proof.Machine

/-! ## Blanking and sticky requests (R76 to R78) -/

theorem OutputState.blanking_iff (x : OutputState) : x.blanking = true ↔ x ≠ .off ∧ x ≠ .idle := by
  cases x <;> simp [OutputState.blanking]

theorem State.blankedBy_iff (s : State) (m : OutputMask) : s.blankedBy m = true ↔
    ∃ o : OutputId, OutputMask.has m o = true ∧ s.outputs[o].state.blanking = true := by
  simp only [State.blankedBy, List.any_eq_true, List.mem_finRange, true_and, Bool.and_eq_true]

theorem blankingSignals : Clause.blankingSignals :=
  ⟨OutputState.blanking_iff, State.blankedBy_iff⟩

theorem exec_blankingAsserted (i : InputId) (o : OutputId) (s : State) : exec (.blankingAsserted i o) s =
    .next (if OutputMask.has s.inputs[i].config.blankMask o && s.outputs[o].state.blanking then s.enterBlanked i
      else s) := rfl

theorem exec_blankingReleased (i : InputId) (s : State) : exec (.blankingReleased i) s =
    .next (if s.inputs[i].assembler = .blanked ∧ s.blankedBy s.inputs[i].config.blankMask = false then
      s.setInput i (s.inputs[i].resume s.timebase) else s) := rfl

/-- Resuming writes the state of the input and its raw measure alone. -/
theorem Input.resume_eq (x : Input) (now : Time) : x.resume now = { x with
    raw := (x.resume now).raw
    assembler := if lineQuiet x.config x.line now then .waiting none
      else .discarding { spaceSince := none, tentative := none, untilQuiet := true } } := by
  unfold Input.resume
  cases lineQuiet x.config x.line now <;> rfl

theorem State.enterBlanked_assembling {s : State} {i : InputId} {a : Assembly}
    (h : s.inputs[i].assembler = .assembling a) : s.enterBlanked i =
    (s.setInput i { s.inputs[i] with
      assembler := .blanked
      sticky := { s.inputs[i].sticky with blankedDrop := true } }).setInputAttention i true := by
  simp only [State.enterBlanked, h]
  exact State.setSticky_setInput _ _ _ _

theorem State.enterBlanked_idle {s : State} {i : InputId}
    (h : (∃ v, s.inputs[i].assembler = .waiting v) ∨ ∃ d, s.inputs[i].assembler = .discarding d) :
    s.enterBlanked i = s.setInput i { s.inputs[i] with assembler := .blanked } := by
  rcases h with ⟨v, h⟩ | ⟨d, h⟩ <;> simp only [State.enterBlanked, h]

theorem State.enterBlanked_same {s : State} {i : InputId}
    (h : s.inputs[i].assembler = .off ∨ s.inputs[i].assembler = .blanked) : s.enterBlanked i = s := by
  rcases h with h | h <;> simp only [State.enterBlanked, h]

theorem blankingAndRequests : Clause.blankingAndRequests := by
  intro i o s x put flagged
  refine ⟨fun hmask hblanks => ?_, fun hblanked hfree => ?_, fun bit hbit => ?_⟩
  · have hexec : exec (.blankingAsserted i o) s = .next (s.enterBlanked i) := by
      rw [exec_blankingAsserted, show OutputMask.has s.inputs[i].config.blankMask o = true from hmask, hblanks]
      rfl
    exact ⟨fun a ha => hexec.trans (congrArg _ (State.enterBlanked_assembling ha)),
      fun h => hexec.trans (congrArg _ (State.enterBlanked_idle h)),
      fun h => hexec.trans (congrArg _ (State.enterBlanked_same h))⟩
  · have hnone : s.blankedBy x.config.blankMask = false := by
      rw [← Bool.not_eq_true, State.blankedBy_iff]
      rintro ⟨p, hp, hon⟩
      exact nomatch (hfree p hp).symm.trans hon
    exact ⟨x.resume s.timebase, (exec_blankingReleased i s).trans (congrArg _ (if_pos ⟨hblanked, hnone⟩)), rfl,
      x.resume_eq s.timebase⟩
  · have hcontains : s.mail.sticky[i].contains bit = true := List.contains_iff_mem.2 hbit
    refine congrArg Host.Outcome.next ((if_pos hcontains).trans ?_)
    cases bit <;> rfl

theorem blankingStays : Clause.blankingStays := by
  intro i s x asserts
  refine ⟨fun o ho => ?_, fun h => ?_⟩
  · rw [exec_blankingAsserted, if_neg]
    rw [Bool.and_eq_true]
    exact ho
  · rw [exec_blankingReleased, if_neg]
    rintro ⟨hblanked, hfree⟩
    rcases h with h | h
    · exact h hblanked
    · exact nomatch hfree.symm.trans ((State.blankedBy_iff s _).2 h)

/-- Settles O55: an output blanks the inputs of whose mask it is, and an input takes a requested sticky bit. -/
theorem blankingAndStickyRequests : Obligations.BlankingAndStickyRequests :=
  ⟨blankingAndRequests, blankingStays, blankingSignals⟩

/-! ## The state an input takes (R77, R80, R81) -/

/-- What an input becomes when it looks at its line and at the blanking signals. -/
def State.placed (s : State) (x : Input) : Input :=
  if x.config.kind = .off then { x with assembler := .off }
  else if s.blankedBy x.config.blankMask then { x with assembler := .blanked }
  else x.resume s.timebase

theorem State.placeInput_eq (s : State) (i : InputId) : s.placeInput i = s.setInput i (s.placed s.inputs[i]) := by
  unfold State.placeInput State.placed
  by_cases hoff : s.inputs[i].config.kind = .off
  · simp only [hoff, if_true]
  · by_cases hblank : s.blankedBy s.inputs[i].config.blankMask = true
    · simp only [hoff, hblank, if_true, if_false]
    · simp only [hoff, hblank, if_false, Bool.false_eq_true]

section
variable {s : State} {x : Input}

theorem State.placed_off (h : x.config.kind = .off) : s.placed x = { x with assembler := .off } := if_pos h

theorem State.placed_blanked (h : x.config.kind ≠ .off) (hb : s.blankedBy x.config.blankMask = true) :
    s.placed x = { x with assembler := .blanked } := (if_neg h).trans (if_pos hb)

theorem State.placed_resumed (h : x.config.kind ≠ .off) (hb : s.blankedBy x.config.blankMask = false) :
    s.placed x = x.resume s.timebase := (if_neg h).trans (if_neg (by rw [hb]; simp))

/-- Only the state and the raw measure change. -/
theorem State.placed_eq : s.placed x = { x with assembler := (s.placed x).assembler, raw := (s.placed x).raw } := by
  by_cases h : x.config.kind = .off
  · rw [State.placed_off h]
  · cases hb : s.blankedBy x.config.blankMask with
    | true => rw [State.placed_blanked h hb]
    | false =>
      rw [State.placed_resumed h hb]
      unfold Input.resume
      cases lineQuiet x.config x.line s.timebase <;> rfl

end

theorem Input.resume_resume (x : Input) (now : Time) : (x.resume now).resume now = x.resume now := by
  unfold Input.resume
  cases h : lineQuiet x.config x.line now <;> simp [h]

/-! ## INPUT CONFIGURE (R80, R192) -/

/-- The input with its new configuration, before it is placed. -/
def Input.configured (x : Input) (c : InputConfig) : Input :=
  { x with config := c, held := none, sticky := InputSticky.clear }

theorem State.configureInput_eq (s : State) (i : InputId) (c : InputConfig) : s.configureInput i c = { s with
    inputs := s.inputs.set i (s.placed (s.inputs[i].configured c))
    claims := { s.claims with lookup := s.claims.lookup.set i false }
    mail := { s.mail with inputChanges := s.mail.inputChanges ++ [i] }
    port := { s.port with
      attention := { s.port.attention with input := s.port.attention.input.set i false } } } := by
  simp only [State.configureInput, State.placeInput_eq]
  simp only [State.clearSticky, State.sendInputChange, State.withdrawLookup, State.setInput, State.setInputAttention,
    State.setPort, State.setMail, State.setClaims]
  simp [-Fin.getElem_fin, getElem_set_fin, Vector.set_set]
  rfl

/-- Settles O27: the input is emptied, takes its new record and is placed by its line and the blanking signals. -/
theorem inputConfigureResetsTheInput : Obligations.InputConfigureResetsTheInput := by
  intro s task held hs i c
  have hself : (s.configureInput i c).inputs[i] = s.placed (s.inputs[i].configured c) := by
    rw [State.configureInput_eq, getElem_set_fin, if_pos rfl]
  have hkept := State.placed_eq (s := s) (x := s.inputs[i].configured c)
  have hline : (s.placed (s.inputs[i].configured c)).line = s.inputs[i].line :=
    hkept ▸ rfl
  refine ⟨s.configureInput i c, exec_atRequest (work := inputConfigureWork) (i := .inputConfigure .request) rfl hs,
    ?_, fun j hj => ?_, ?_⟩
  · rw [State.configureInput_eq]
  · rw [State.configureInput_eq, getElem_set_fin, if_neg hj.symm]
  · rw [hself]
    refine ⟨congrArg Input.config hkept, congrArg Input.held hkept, congrArg Input.sticky hkept,
      hline, fun hoff => ?_, fun hkind hblank => ?_, fun hkind hfree => ?_⟩
    · rw [State.placed_off (x := s.inputs[i].configured c) hoff]
      exact ⟨rfl, rfl⟩
    · rw [State.placed_blanked (x := s.inputs[i].configured c) hkind ((s.blankedBy_iff _).2 hblank)]
      exact ⟨rfl, rfl⟩
    · have hnone : s.blankedBy c.blankMask = false := by
        rw [← Bool.not_eq_true, State.blankedBy_iff]
        rintro ⟨o, ho, hon⟩
        exact nomatch (hfree o ho).symm.trans hon
      rw [State.placed_resumed (x := s.inputs[i].configured c) hkind hnone, Input.resume_resume]
      exact ⟨rfl, congrArg Input.assembler (Input.resume_eq (s.inputs[i].configured c) s.timebase)⟩

/-! ## The end of the memory test (R59, R60, R81, R177, R178) -/

theorem State.placeInputs_eq (l : List InputId) (hl : l.Nodup) (s : State) :
    l.foldl (fun s i => s.placeInput i) s =
      { s with inputs := Vector.ofFn fun j => if j ∈ l then s.placed s.inputs[j] else s.inputs[j] } := by
  induction l generalizing s with
  | nil =>
    refine congrArg (fun v => { s with inputs := v }) (Vector.ext fun j hj => ?_)
    simp
  | cons i rest ih =>
    obtain ⟨hi, hrest⟩ := List.nodup_cons.1 hl
    rw [List.foldl_cons, ih hrest, State.placeInput_eq]
    refine congrArg (fun v => { s with inputs := v }) (Vector.ext fun j hj => ?_)
    have hget := fun (y : Input) => getElem_set_fin s.inputs i ⟨j, hj⟩ y
    simp only [Vector.getElem_ofFn, List.mem_cons, State.setInput_inputs, hget]
    by_cases hij : i = ⟨j, hj⟩
    · subst hij
      simp [hi]
    · simp only [hij, Ne.symm hij, if_false, false_or]
      rfl

theorem State.placeInputs_all (s : State) : (List.finRange 4).foldl (fun s i => s.placeInput i) s =
    { s with inputs := Vector.ofFn fun j => s.placed s.inputs[j] } := by
  rw [State.placeInputs_eq _ (List.nodup_finRange 4)]
  simp only [List.mem_finRange, if_true]

/-- The state that the memory test leaves, before the host port goes on. -/
def State.tested (s : State) (failing : List CellNo) : State :=
  { s with
    memoryTest := none
    pool := testedPool failing
    inputs := Vector.ofFn fun j => s.placed s.inputs[j]
    port := { s.port with
      attention := { s.port.attention with table := s.port.attention.table || !failing.isEmpty } } }

theorem State.endMemoryTest_eq (s : State) (failing : List CellNo) :
    s.endMemoryTest failing = (s.tested failing).testEnded := by
  simp only [State.endMemoryTest, State.afterTest, State.placeInputs_all, State.raiseTable_frame]
  rfl

theorem State.testEnded_port (s : State) : s.testEnded = { s with port := s.testEnded.port } := by
  unfold State.testEnded
  split <;> rfl

/-- A command that ends OK leaves FAULT as it stands. -/
theorem State.endTask_ok (s : State) (task : Task) (cut : Bool) : s.endTask task cut .ok = s.setPort { s.port with
    completion := { code := task.command.code, cut := cut, outcome := .ok }
    engine := .idle
    done := true } := by
  unfold State.endTask State.endCode
  rw [decide_eq_false (by simp), Bool.or_false]

theorem State.testEnded_attention (s : State) : s.testEnded.port.attention = s.port.attention := by
  unfold State.testEnded
  split <;> rfl

section
variable {s : State} {failing : List CellNo}

theorem testedPool_cells (c : CellNo) :
    (testedPool failing).cells[c].condition = (if c ∈ failing then .withheld else .free) ∧
    (testedPool failing).cells[c].fault = false ∧ (testedPool failing).cells[c].refs = 0 := by
  rw [(testedPool_spec failing).1 c]
  refine ⟨?_, rfl, rfl⟩
  simp only [testedCell, List.contains_iff_mem]

theorem mem_testedPool_freeList (c : CellNo) : c ∈ (testedPool failing).freeList ↔ c ∉ failing := by
  rw [(testedPool_spec failing).2.1, List.mem_filter]
  simp

theorem testedPool_sorted : (testedPool failing).freeList.Pairwise (· < ·) := by
  rw [(testedPool_spec failing).2.1]
  exact (List.pairwise_lt_finRange 768).filter _

theorem State.tested_inputs (i : InputId) : (s.tested failing).inputs[i] = s.placed s.inputs[i] :=
  Vector.getElem_ofFn _

end

theorem testEnds : Clause.testEnds := by
  intro failing t s start hstart hdue
  have htested := (s.advanceTo t).tested_inputs (failing := failing)
  obtain ⟨-, -, hreturn, hreservation⟩ := testedPool_spec failing
  have htime : (s.advanceTo t).testDue = true := by
    unfold State.testDue
    rw [show (s.advanceTo t).memoryTest = some start from hstart]
    exact decide_eq_true hdue
  have hexec : exec (.memoryTestEnd failing t) s = .next ((s.advanceTo t).tested failing).testEnded :=
    congrArg Host.Outcome.next ((if_pos htime).trans ((s.advanceTo t).endMemoryTest_eq failing))
  have hattention := ((s.advanceTo t).tested failing).testEnded_attention
  rw [State.testEnded_port] at hexec
  refine ⟨_, hexec, rfl, testedPool_cells, mem_testedPool_freeList, testedPool_sorted, hreturn, hreservation,
    hattention.trans ?_, fun i => ?_, fun hengine => ?_, fun task held hengine => ?_⟩
  · cases failing <;> rfl
  · rw [htested i]
    refine ⟨State.placed_eq, fun hoff => ?_, fun hkind => ⟨fun hblank => ?_, fun hfree => ?_⟩⟩
    · rw [State.placed_off (x := (s.advanceTo t).inputs[i]) hoff]
    · rw [State.placed_blanked (x := (s.advanceTo t).inputs[i]) hkind hblank]
    · rw [State.placed_resumed (x := (s.advanceTo t).inputs[i]) hkind hfree]
      exact ⟨rfl, congrArg Input.assembler (Input.resume_eq s.inputs[i] (max s.timebase t))⟩
  · have hport : ((s.advanceTo t).tested failing).port.engine = .testing := hengine
    rw [hattention]
    simp only [State.testEnded, hport]
    rfl
  · have hport : ((s.advanceTo t).tested failing).port.engine = .execute task held := hengine
    rw [hattention]
    simp only [State.testEnded, hport, State.endTask_ok]
    rfl

theorem testGoesOn : Clause.testGoesOn := by
  intro failing t s h
  refine congrArg Host.Outcome.next (if_neg ?_)
  rw [Bool.not_eq_true]
  unfold State.testDue
  show (match s.memoryTest with | some start => _ | none => _) = _
  cases hstart : s.memoryTest with
  | none => rfl
  | some start => exact decide_eq_false (Nat.not_le.2 (h start hstart))

/-- Settles O4: the memory test ends 40 ms after its start and not before. -/
theorem memoryTestEndFreesThePassingCells : Obligations.MemoryTestEndFreesThePassingCells :=
  ⟨testEnds, testGoesOn⟩

end Sys2Proof.Machine
end

section
/-! SUPPORT. The INITIALIZE table step (R46, R157, R177), and what the cell pool does with releases and removals
(R54 to R56). -/

namespace Sys2Proof.Machine

/-! ## INITIALIZE (R46, R59, R81, R96, R121, R132, R157, R177) -/

theorem exec_initializeTableStep {s : State} {task : Task} {held : Bool} (hs : s.AtStep .initializeTable task held) :
    exec .initializeTableStep s = .next s.initializeTable :=
  congrArg _ (State.hostStep_of_atStep hs _)

theorem Claims.resetValue_waiting (p : Position) : Claims.resetValue.waiting p = false := by
  cases p with
  | input i => simp [Claims.waiting, Claims.resetValue]
  | output o => simp [Claims.waiting, Claims.resetValue]
  | host => rfl

/-- Settles O51: the INITIALIZE table step empties every block and begins the memory test. -/
theorem initializeEmptiesThePart : Obligations.InitializeEmptiesThePart := by
  intro s task held hs
  refine ⟨_, exec_initializeTableStep hs, rfl, fun slot => Vector.getElem_map .., Claims.resetValue_waiting, rfl,
    fun c => Vector.getElem_map .., rfl, rfl, rfl, fun i => ?_, fun r => Vector.getElem_replicate _, rfl, rfl,
    fun o => Vector.getElem_map ..⟩
  rw [show s.initializeTable.inputs[i] = s.inputs[i].cleared from Vector.getElem_map ..]
  exact ⟨rfl, rfl⟩

/-! ## CHAIN_RELEASE (R55, R56) -/

theorem exec_chainRelease {s : State} {chain : List CellNo} {rest : List (List CellNo)}
    (h : s.mail.releases = chain :: rest) : exec .chainRelease s =
      .next ((s.setMail { s.mail with releases := rest }).takeRelease chain) := by
  show execChainRelease s = _
  simp only [execChainRelease, h]

/-- A change of the cells of a chain changes the cells of the pool alone. -/
theorem Pool.modifyChain_eq (p : Pool) (chain : List CellNo) (f : Cell → Cell) :
    p.modifyChain chain f = { p with cells := (p.modifyChain chain f).cells } := by
  obtain ⟨hfree, hreturn, hreservation⟩ := p.modifyChain_lists chain f
  exact Pool.ext_parts rfl hfree hreturn hreservation

theorem State.takeRelease_referenced {s : State} {chain : List CellNo} (h : s.pool.chainRefs chain ≠ 0) :
    s.takeRelease chain = { s with pool := { s.pool with
      cells := (s.pool.modifyChain chain fun cell => { cell with condition := .returning }).cells
      returnList := s.pool.returnList ++ [⟨chain, s.pool.chainRefs chain⟩] } } := by
  unfold State.takeRelease
  rw [if_neg h, Pool.modifyChain_eq]
  rfl

theorem releasedChains : Clause.releasedChains := by
  intro s first others rest chain refs hreleases taken
  have hexec : exec .chainRelease s = .next (taken.takeRelease chain) := exec_chainRelease hreleases
  refine ⟨fun hnone => hexec.trans (congrArg _ (if_pos hnone)), fun hsome =>
    ⟨_, hexec.trans (congrArg _ (State.takeRelease_referenced (s := taken) hsome)), rfl, fun c => ?_⟩⟩
  exact s.pool.modifyChain_cells chain (fun cell => { cell with condition := .returning }) (fun _ => rfl) c

/-! ## REFERENCE_REMOVAL (R54) -/

theorem exec_referenceRemoval {s : State} {o : OutputId} {chain : List CellNo}
    (h : s.mail.removals[o] = some chain) : exec (.referenceRemoval o) s =
      .next ((s.setMail { s.mail with removals := s.mail.removals.set o none }).takeRemoval o chain) := by
  show execReferenceRemoval o s = _
  simp only [execReferenceRemoval, h]

section
variable {s : State} {o : OutputId} {chain : List CellNo}

/-- The chain is not on the return list: its cells lose the reference. -/
theorem State.takeRemoval_owned (h : ∀ r ∈ s.pool.returnList, r.chain ≠ chain) :
    s.takeRemoval o chain = s.setPool { s.pool with cells := (s.pool.dropReference chain o).cells } := by
  have hfind : s.pool.returnList.find? (fun r => decide (r.chain = chain)) = none :=
    List.find?_eq_none.2 fun r hr => by simpa using h r hr
  unfold State.takeRemoval Pool.dropReference
  rw [Pool.modifyChain_eq]
  simp only [hfind]

variable {front behind : List ReturningChain} {refs : OutputMask}

/-- The chain is on the return list: its set loses the output, and without any other output the cells come back. -/
theorem State.takeRemoval_returning (hlist : s.pool.returnList = front ++ ⟨chain, refs⟩ :: behind)
    (hothers : ∀ r ∈ front ++ behind, r.chain ≠ chain) :
    s.takeRemoval o chain = if OutputMask.remove refs o = 0 then
        (s.setPool { s.pool with
          cells := (s.pool.dropReference chain o).cells, returnList := front ++ behind }).returnCells chain
      else s.setPool { s.pool with
        cells := (s.pool.dropReference chain o).cells
        returnList := front ++ ⟨chain, OutputMask.remove refs o⟩ :: behind } := by
  have hfront : ∀ r ∈ front, r.chain ≠ chain := fun r hr => hothers r (List.mem_append_left _ hr)
  have hbehind : ∀ r ∈ behind, r.chain ≠ chain := fun r hr => hothers r (List.mem_append_right _ hr)
  have hfind : s.pool.returnList.find? (fun r => decide (r.chain = chain)) = some ⟨chain, refs⟩ := by
    rw [hlist, List.find?_append, List.find?_eq_none.2 fun r hr => by simpa using hfront r hr]
    simp
  have hfilter : s.pool.returnList.filter (fun r => decide (r.chain ≠ chain)) = front ++ behind := by
    rw [hlist, List.filter_append, List.filter_cons_of_neg (by simp),
      List.filter_eq_self.2 fun r hr => by simpa using hfront r hr,
      List.filter_eq_self.2 fun r hr => by simpa using hbehind r hr]
  have hkeep : ∀ l : List ReturningChain, (∀ r ∈ l, r.chain ≠ chain) → l.map (ReturningChain.drop chain o) = l :=
    fun l hl => (List.map_congr_left fun r hr => if_neg (hl r hr)).trans (List.map_id' l)
  have hmap : s.pool.returnList.map (ReturningChain.drop chain o) =
      front ++ ⟨chain, OutputMask.remove refs o⟩ :: behind := by
    rw [hlist, List.map_append, List.map_cons, hkeep front hfront, hkeep behind hbehind,
      show ReturningChain.drop chain o ⟨chain, refs⟩ = ⟨chain, OutputMask.remove refs o⟩ from if_pos rfl]
  unfold State.takeRemoval Pool.dropReference
  rw [Pool.modifyChain_eq]
  simp only [hfind, hfilter, hmap]

end

theorem removedReferences : Clause.removedReferences := by
  intro s o chain hremoval
  have hexec := exec_referenceRemoval hremoval
  refine ⟨{ s with
    mail := { s.mail with removals := s.mail.removals.set o none }
    pool := { s.pool with cells := (s.pool.dropReference chain o).cells } }, rfl,
    s.pool.dropReference_cells chain o, fun hout => ?_, fun front behind refs hlist hothers => ?_⟩
  · exact hexec.trans (congrArg _ (State.takeRemoval_owned
      (s := s.setMail { s.mail with removals := s.mail.removals.set o none }) hout))
  · have hreturning := State.takeRemoval_returning (o := o)
      (s := s.setMail { s.mail with removals := s.mail.removals.set o none }) hlist hothers
    exact ⟨fun hleft => hexec.trans (congrArg _ (hreturning.trans (if_neg hleft))),
      fun hlast => hexec.trans (congrArg _ (hreturning.trans (if_pos hlast)))⟩

/-- Settles O52: a released chain and the removal of an output's references. -/
theorem chainsReturnToThePool : Obligations.ChainsReturnToThePool :=
  ⟨releasedChains, removedReferences⟩

end Sys2Proof.Machine
end

section
/-! SUPPORT. The press tracker takes a match result (R93, R101 to R106). -/

namespace Sys2Proof.Machine

/-! ## The first of all numbers with a property -/

theorem find?_finRange_eq_none {n : Nat} {p : Fin n → Bool} :
    (List.finRange n).find? p = none ↔ ∀ i, p i = false := by
  simp [List.find?_eq_none]

theorem find?_finRange_eq_some {n : Nat} {p : Fin n → Bool} {i : Fin n} :
    (List.finRange n).find? p = some i ↔ p i = true ∧ ∀ j, j < i → p j = false := by
  rw [List.find?_eq_some_iff_getElem]
  refine and_congr_right fun _ => ⟨?_, fun hbefore => ⟨i.val, by simp, by simp, fun j hj => ?_⟩⟩
  · rintro ⟨k, hk, hget, hbefore⟩ j hj
    rw [List.getElem_finRange] at hget
    have hval : k = i.val := congrArg Fin.val hget
    have hnot := hbefore j.val (hval ▸ hj)
    simpa using hnot
  · have hnot := hbefore ⟨j, hj.trans i.isLt⟩ hj
    simpa using hnot

/-! ## The HELD record of an input and a group, and the lowest FREE record (R101, R104) -/

section
variable {t : Tracker} {i : InputId} {g : GroupNo} {r : PressNo} {p : Press}

theorem Tracker.findHeld_eq_none
    (h : ∀ (r : PressNo) (p : Press), ¬(t.presses[r] = some p ∧ p.isHeld = true ∧ p.input = i ∧ p.group = g)) : t.findHeld i g = none := by
  cases hfound : t.findHeld i g with
  | none => rfl
  | some found => exact absurd (Tracker.findHeld_some hfound) (h found.1 found.2)

theorem Tracker.findHeld_eq_some (h : t.presses[r] = some p ∧ p.isHeld = true ∧ p.input = i ∧ p.group = g)
    (hone : ∀ (r' : PressNo) (p' : Press), t.presses[r'] = some p' ∧ p'.isHeld = true ∧ p'.input = i ∧ p'.group = g → r' = r) :
    t.findHeld i g = some (r, p) := by
  obtain ⟨hp, hheld, hinput, hgroup⟩ := h
  cases hfound : t.findHeld i g with
  | none => exact absurd hgroup (Tracker.findHeld_none hfound hp hheld hinput)
  | some found =>
    obtain ⟨r', p'⟩ := found
    have hfields := Tracker.findHeld_some hfound
    cases hone r' p' hfields
    cases hp.symm.trans hfields.1
    rfl

theorem Tracker.lowestFree_eq_none (h : ∀ r : PressNo, t.presses[r] ≠ none) : t.lowestFree = none :=
  find?_finRange_eq_none.2 fun r => Option.isNone_eq_false_iff.2 (Option.isSome_iff_ne_none.2 (h r))

theorem Tracker.lowestFree_eq_some (hfree : t.presses[r] = none) (hlowest : ∀ q : PressNo, q < r → t.presses[q] ≠ none) :
    t.lowestFree = some r :=
  find?_finRange_eq_some.2 ⟨Option.isNone_iff_eq_none.2 hfree, fun q hq =>
    Option.isNone_eq_false_iff.2 (Option.isSome_iff_ne_none.2 (hlowest q hq))⟩

end

/-! ## What the tracker does with a result (R93, R102 to R106) -/

theorem exec_matchResult {s : State} {m : MatchResult} {rest : List Notice} (h : s.mail.path = .result m :: rest) :
    exec .matchResult s = .next (State.takeMatch { s with mail := { s.mail with path := rest } } m) :=
  congrArg Host.Outcome.next (State.takeNotice_head h (act := fun u => u.takeMatch m) rfl)

section
variable {s : State} {m : MatchResult} {r : PressNo} {p : Press}

theorem State.createPress_refused {e : EntryMatch} (h : ∀ r : PressNo, s.tracker.presses[r] ≠ none) :
    s.createPress m e = s.requestSticky m.input .pressRefused := by
  simp only [State.createPress, Tracker.lowestFree_eq_none h]

theorem State.createPress_lowest {e : EntryMatch} (hfree : s.tracker.presses[r] = none)
    (hlowest : ∀ q : PressNo, q < r → s.tracker.presses[q] ≠ none) (hlist : r ∉ s.tracker.reportList) :
    s.createPress m e = { s with
      tracker := {
        sequence := s.tracker.sequence + 1
        reportList := s.tracker.reportList ++ [r]
        presses := s.tracker.presses.set r (some (newPress (s.tracker.sequence + 1) m e)) }
      mail := { s.mail with pressStarts := s.mail.pressStarts ++
        [{ press := ⟨r, s.tracker.sequence + 1⟩, handle := e.handle, input := m.input }] } } := by
  have hjoin : (if r ∈ s.tracker.reportList then s.tracker.reportList else s.tracker.reportList ++ [r]) =
    s.tracker.reportList ++ [r] := if_neg hlist
  rw [← hjoin]
  simp only [State.createPress, Tracker.lowestFree_eq_some hfree hlowest, State.joinReports_eq]
  rfl

theorem State.takeMatch_none (h : m.found = .none) : s.takeMatch m = s := by
  simp only [State.takeMatch, h]

theorem State.takeMatch_orphan {g : RepeatMatch} (h : m.found = .ofGroup g)
    (hnone : s.tracker.findHeld m.input g.group = none) : s.takeMatch m = s.requestSticky m.input .orphanRepeat := by
  simp only [State.takeMatch, h, hnone]

theorem State.takeMatch_repeat {g : RepeatMatch} (h : m.found = .ofGroup g)
    (hheld : s.tracker.findHeld m.input g.group = some (r, p)) :
    s.takeMatch m = s.setPress r (some (p.credit m.endTime g.releaseGap)) := by
  simp only [State.takeMatch, h, hheld]

theorem State.takeMatch_creates {e : EntryMatch} (h : m.found = .entry e)
    (hnone : s.tracker.findHeld m.input e.group = none) : s.takeMatch m = s.createPress m e := by
  simp only [State.takeMatch, h, hnone]

theorem State.takeMatch_held {e : EntryMatch} (h : m.found = .entry e)
    (hheld : s.tracker.findHeld m.input e.group = some (r, p)) : s.takeMatch m =
      if p.handle = e.handle then
        if p.variant = e.variant then s.setPress r (some (p.credit m.endTime e.releaseGap))
        else (s.endPress r .newPress).createPress m e
      else (s.endPress r .otherKey).createPress m e := by
  simp only [State.takeMatch, h, hheld]

end

theorem matchResults : Clause.matchResults := by
  intro s m rest hpath taken held credited requested put
  have hexec : exec .matchResult s = .next (taken.takeMatch m) := exec_matchResult hpath
  have hput : ∀ r p gap, p.isHeld = true →
      taken.setPress r (some (p.credit m.endTime gap)) = put r (credited p gap) := fun r p gap _ => rfl
  refine ⟨fun hnone => hexec.trans (congrArg _ (State.takeMatch_none hnone)), fun g hfound => ⟨fun hnone => ?_,
    fun r p hheld hone => ?_⟩, fun e hfound => ?_⟩
  · exact hexec.trans (congrArg _ (State.takeMatch_orphan (s := taken) hfound (Tracker.findHeld_eq_none hnone)))
  · rw [hexec, State.takeMatch_repeat (s := taken) hfound (Tracker.findHeld_eq_some hheld hone),
      hput r p _ hheld.2.1]
  · intro created creates
    have hcreates : ∀ u, taken.takeMatch m = u.createPress m e → creates u := fun u hu => by
      exact ⟨fun hfull => hexec.trans (congrArg _ (hu.trans (State.createPress_refused hfull))),
        fun r hfree hlowest hlist =>
          hexec.trans (congrArg _ (hu.trans (State.createPress_lowest hfree hlowest hlist)))⟩
    refine ⟨fun hnone => hcreates _ (State.takeMatch_creates (s := taken) hfound (Tracker.findHeld_eq_none hnone)),
      fun r p hheld hone => ?_⟩
    have htake := State.takeMatch_held (s := taken) hfound (Tracker.findHeld_eq_some hheld hone)
    refine ⟨fun hhandle hvariant => ?_, fun hhandle hvariant => hcreates _ ?_, fun hhandle => hcreates _ ?_⟩
    · rw [hexec, htake, if_pos hhandle, if_pos hvariant, hput r p _ hheld.2.1]
    · rw [htake, if_pos hhandle, if_neg hvariant]
    · rw [htake, if_neg hhandle]

/-- Settles O56: a match result credits the HELD press it belongs to, ends another, and creates a press. -/
theorem matchResultsMakePresses : Obligations.MatchResultsMakePresses := matchResults

end Sys2Proof.Machine
end

section
/-! SUPPORT. Damage in stored patterns, and the served claims of an output: the frame grant and the damage notice
(R39 to R42, R53, R139, R141, R143, R151, R152). -/

namespace Sys2Proof.Machine

/-! ## A fault found in a stored pattern (R39, R40) -/

section
variable {s : State} {slot : SlotNo} {e : Installed} {g : GroupNo} {group : Group} {p : Pattern}

theorem State.damageEntry_damaged (he : s.installedAt slot = some e) (h : e.status = .damaged) (v : Variant) :
    s.damageEntry slot v = s := by
  simp only [State.damageEntry, he, h]

theorem State.damageEntry_live (he : s.installedAt slot = some e) (h : e.status ≠ .damaged) (v : Variant) :
    s.damageEntry slot v = { s with
      entries := s.entries.set slot { s.entries[slot] with occupant := .installed { e with
        status := .damaged
        mainDamaged := e.mainDamaged || decide (v = .main)
        alternateDamaged := e.alternateDamaged || decide (v = .alternate) } }
      bins := (s.leaveFrames slot e).bins
      mail := { s.mail with path := s.mail.path ++ [.entryDamaged ⟨slot, s.entries[slot].generation⟩] }
      port := { s.port with attention := { s.port.attention with table := true } } } := by
  have hmarks : ∀ marked : Installed, ((((s.leaveFrames slot e).setInstalled slot marked).sendNotice
      (.entryDamaged (s.handleOf slot))).setTableAttention true) = { s with
        entries := s.entries.set slot { s.entries[slot] with occupant := .installed marked }
        bins := (s.leaveFrames slot e).bins
        mail := { s.mail with path := s.mail.path ++ [.entryDamaged ⟨slot, s.entries[slot].generation⟩] }
        port := { s.port with attention := { s.port.attention with table := true } } } := fun marked => by
    obtain ⟨bins, hbins⟩ := s.leaveFrames_frame slot e
    rw [hbins]
    rfl
  have hdamage : s.damageEntry slot v = ((((s.leaveFrames slot e).setInstalled slot (match v with
      | .main => { e with status := .damaged, mainDamaged := true }
      | .alternate => { e with status := .damaged, alternateDamaged := true })).sendNotice
        (.entryDamaged (s.handleOf slot))).setTableAttention true) := by
    cases hstatus : e.status with
    | damaged => exact absurd hstatus h
    | active => simp only [State.damageEntry, he, hstatus] <;> rfl
    | suspended => simp only [State.damageEntry, he, hstatus] <;> rfl
  rw [hdamage, hmarks]
  cases v <;> simp

theorem State.damageRepeat_damaged (hg : s.groups[g] = some group) (h : group.repeatDamaged = true) :
    s.damageRepeat g = s := by
  cases hp : group.repeatPattern <;> simp only [State.damageRepeat, hg, h, hp]

theorem State.damageRepeat_live (hg : s.groups[g] = some group) (hp : group.repeatPattern = some p)
    (h : group.repeatDamaged = false) : s.damageRepeat g = { s with
      groups := s.groups.set g (some { group with repeatDamaged := true })
      bins := (s.leaveBin p.runCount (.ofGroup g)).bins
      port := { s.port with attention := { s.port.attention with table := true } } } := by
  obtain ⟨bins, hbins⟩ := s.leaveBin_frame p.runCount (.ofGroup g)
  simp only [State.damageRepeat, hg, hp, h, hbins]
  rfl

end

/-- Settles O37: a fault marks its owner damaged once, and takes its patterns out of their bin. -/
theorem faultsMarkThePatternDamaged : Obligations.FaultsMarkThePatternDamaged := by
  intro s
  refine ⟨fun slot v e he => ⟨fun hdamaged => State.damageEntry_damaged he hdamaged v, fun hlive => ?_⟩,
    fun g group p hg hp => ⟨State.damageRepeat_damaged hg, fun hlive => ?_⟩⟩
  · have hall : s.damagePattern (.frame slot v) = _ := State.damageEntry_live he hlive v
    have hbins : (s.damagePattern (.frame slot v)).bins = (s.leaveFrames slot e).bins := by rw [hall]
    refine ⟨hall.trans (by rw [hbins]), fun n => ?_⟩
    rw [State.binList_congr hbins, State.binList_leaveFrames]
  · have hall : s.damagePattern (.ofGroup g) = _ := State.damageRepeat_live hg hp hlive
    have hbins : (s.damagePattern (.ofGroup g)).bins = (s.leaveBin p.runCount (.ofGroup g)).bins := by rw [hall]
    refine ⟨hall.trans (by rw [hbins]), fun n => ?_⟩
    rw [State.binList_congr hbins, State.binList_leaveBin]

/-! ## FRAME_GRANT (R41, R53, R139, R141, R143, R151) -/

section
variable {s : State} {o : OutputId} {item : Item} {a : ActiveItem} {rest : List Item} {e : Installed} {g : Group}
  {v : Variant} {n : Nat} {chain : List CellNo}

theorem State.grantReady_of (hclaim : s.claims.output[o] = some .frameGrant) (hturn : s.turnOf (.output o) = true)
    (hremovals : s.mail.removals[o] = none) : s.grantReady o = true := by
  simp only [State.grantReady, State.grantWaits, State.outputReady, hclaim, hturn, hremovals]
  rfl

theorem State.answerGrant_stale (hitem : s.outputs[o].activeItem = some (item, a, rest))
    (he : s.currentEntry item.handle = none) : s.answerGrant o = s.endActive o .stale s.timebase := by
  simp only [State.answerGrant, hitem, he]

theorem State.answerGrant_damaged (hitem : s.outputs[o].activeItem = some (item, a, rest))
    (he : s.currentEntry item.handle = some e) (hstatus : e.status = .damaged) :
    s.answerGrant o = s.endActive o .damaged s.timebase := by
  simp only [State.answerGrant, hitem, he, hstatus, if_true]

theorem State.answerGrant_starts (hitem : s.outputs[o].activeItem = some (item, a, rest))
    (he : s.currentEntry item.handle = some e) (hstatus : e.status ≠ .damaged) (hg : s.groups[e.group] = some g) :
    s.answerGrant o =
      s.startFrame o ((chooseGrant e g a.variant (decide (a.framesSent = 0))).frame g.settings s.timebase) := by
  simp only [State.answerGrant, hitem, he, hstatus, if_false, hg]

theorem chooseGrant_frame (h : a.framesSent = 0 ∨ g.repeatPattern = none ∨ g.repeatDamaged = true)
    (hchain : e.chainOf v = some chain) :
    chooseGrant e g v (decide (a.framesSent = 0)) = ⟨.frame v, e.runCount, chain⟩ := by
  have hframe : (e.chainOf v).getD e.main = chain := by rw [hchain]; rfl
  rcases chooseGrant_cases e g v (decide (a.framesSent = 0)) with hc | ⟨p, -, hp, hdamaged, hfirst⟩
  · rw [hc, hframe]
  · rcases h with h | h | h
    · exact absurd h (of_decide_eq_false hfirst)
    · exact nomatch h.symm.trans hp
    · exact nomatch h.symm.trans hdamaged

theorem chooseGrant_repeat (hlater : 0 < a.framesSent) (hdamaged : g.repeatDamaged = false)
    (hp : g.repeatPattern = some ⟨n, chain⟩) :
    chooseGrant e g v (decide (a.framesSent = 0)) = ⟨.repeatOf e.group, n, chain⟩ := by
  have hfirst : decide (a.framesSent = 0) = false := decide_eq_false hlater.ne'
  simp only [chooseGrant, hfirst, hp, hdamaged]
  rfl

end

/-! ### The runs that a frame drives at its start (R143, R151) -/

/-- A frame that starts now drives runs from now on. -/
theorem driveRuns_start (pool : Pool) (now : Time) (fuel : Nat) (f : Frame) (hstart : f.runStart = now)
    (hend : now ≤ f.runEnd) : driveRuns pool now fuel f = { f with
      run := (driveRuns pool now fuel f).run, runStart := now, runEnd := (driveRuns pool now fuel f).runEnd } := by
  induction fuel generalizing f with
  | zero => rw [driveRuns, ← hstart]
  | succ fuel ih =>
    unfold driveRuns
    split
    next hdue =>
      split
      next d _ =>
        exact ih { f with run := f.run + 1, runStart := f.runEnd, runEnd := f.runEnd + d } (hdue.2.antisymm hend)
          (Nat.le_add_right_of_le hend)
      all_goals rw [← hstart]
    next => rw [← hstart]

theorem driveRuns_unreadable {pool : Pool} {now : Time} {f : Frame} {c : CellNo}
    (h : pool.readRun f.chain (f.run + 1) = .unreadable c) (fuel : Nat) : driveRuns pool now fuel f = f := by
  cases fuel with
  | zero => rfl
  | succ fuel =>
    unfold driveRuns
    rw [h]
    exact ite_self _

/-- The references of an output change no run. -/
theorem Pool.readRun_addReference (p : Pool) (chain other : List CellNo) (o : OutputId) (k : Nat) :
    (p.addReference chain o).readRun other k = p.readRun other k :=
  Pool.readRun_congr p _ (fun c => by rw [p.addReference_cells chain o c]; exact ⟨rfl, rfl⟩) other k

/-- A frame that has driven no run leaves the line inactive. -/
theorem State.txActive_of_run_zero {s : State} {o : OutputId} {f : Frame} (h : s.outputs[o].state = .frame f)
    (hrun : f.run = 0) (sub : Fin 16) : s.txActive o sub = false := by
  simp only [State.txActive, h, hrun]
  rfl

theorem Pool.addReference_eq (p : Pool) (chain : List CellNo) (o : OutputId) :
    p.addReference chain o = { p with cells := (p.addReference chain o).cells } := p.modifyChain_eq chain _

theorem grantAnswers : Clause.grantAnswers := by
  intro s o item a rest hclaim hturn hremovals hqueue hactive served
  have hitem : served.outputs[o].activeItem = some (item, a, rest) := Output.activeItem_eq_some.2 ⟨hqueue, hactive⟩
  have hexec : exec (.frameGrant o) s = .next (served.answerGrant o) :=
    exec_frameGrant_ready (State.grantReady_of hclaim hturn hremovals)
  refine ⟨fun he => hexec.trans (congrArg _ (State.answerGrant_stale hitem he)), fun e he hstatus =>
    hexec.trans (congrArg _ (State.answerGrant_damaged hitem he hstatus)),
    fun e g sent n chain he hstatus hg hchoice hruns => ?_⟩
  have hgrant : chooseGrant e g a.variant (decide (a.framesSent = 0)) = ⟨sent, n, chain⟩ := by
    rcases hchoice with ⟨hfirst, rfl, rfl, hchain⟩ | ⟨hlater, hdamaged, rfl, hp⟩
    · exact chooseGrant_frame hfirst hchain
    · exact chooseGrant_repeat hlater hdamaged hp
  have hstarts := State.answerGrant_starts hitem he hstatus hg
  rw [hgrant] at hstarts
  have hread := fun k => s.pool.readRun_addReference chain chain o k
  have hcells : (served.pool.addReference chain o).cells = (s.pool.addReference chain o).cells := rfl
  refine ⟨{ served with
    pool := { s.pool with cells := (s.pool.addReference chain o).cells }
    outputs := s.outputs.set o { s.outputs[o] with state := .frame (driveRuns (s.pool.addReference chain o) s.timebase n
      ((⟨sent, n, chain⟩ : Grant).frame g.settings s.timebase)) } }, _, ?_, rfl,
    driveRuns_start _ _ n _ rfl (le_refl s.timebase), fun d hd hfirst => ?_, fun c hfirst => ?_,
    s.pool.addReference_cells chain o⟩
  · rw [hexec, hstarts, ← Pool.addReference_eq]
    rfl
  · rw [driveRuns_next (now := s.timebase) (f := (⟨sent, n, chain⟩ : Grant).frame g.settings s.timebase) (d := d) hruns le_rfl
      ((hread 1).trans hfirst) (Nat.lt_add_of_pos_right hd) hruns]
    exact ⟨rfl, rfl⟩
  · have hstays : driveRuns (s.pool.addReference chain o) s.timebase n
        ((⟨sent, n, chain⟩ : Grant).frame g.settings s.timebase) = _ :=
      driveRuns_unreadable ((hread 1).trans hfirst) n
    have hself : ∀ y, (s.outputs.set o y)[o] = y := fun y => by rw [getElem_set_fin, if_pos rfl]
    rw [hstays, ← Pool.addReference_eq]
    exact ⟨rfl, rfl, State.txActive_of_run_zero (congrArg Output.state (hself _)) rfl, (hread 1).trans hfirst⟩

theorem grantsWait : Clause.grantsWait := by
  intro s o h
  refine exec_frameGrant_notReady ?_
  rw [← Bool.not_eq_true]
  intro hready
  obtain ⟨hwaits, hout⟩ := Bool.and_eq_true_iff.1 hready
  obtain ⟨hturn, hremovals⟩ := Bool.and_eq_true_iff.1 hout
  rcases h with h | h | h
  · exact h (of_decide_eq_true hwaits)
  · exact nomatch h.symm.trans hturn
  · exact h (Option.isNone_iff_eq_none.1 hremovals)

/-- Settles O38: a served grant refuses or starts the frame, and any other waits. -/
theorem frameGrantsAreAnsweredInOrder : Obligations.FrameGrantsAreAnsweredInOrder := ⟨grantAnswers, grantsWait⟩

/-! ## The damage notice (R42, R152) -/

theorem exec_damageNotice_served {s : State} {o : OutputId} {d : DamageReport}
    (hclaim : s.claims.output[o] = some (.damage d)) (hturn : s.turnOf (.output o) = true)
    (hremovals : s.mail.removals[o] = none) :
    exec (.damageNotice o) s = .next (((s.served (.output o)).takeDamage d).raiseDeferred o) := by
  have hready : s.outputReady o = true := by
    rw [State.outputReady, hturn, hremovals]
    rfl
  show execDamageNotice o s = _
  simp only [execDamageNotice, hready, hclaim]

theorem exec_damageNotice_waits {s : State} {o : OutputId} (h : s.mail.removals[o] ≠ none) :
    exec (.damageNotice o) s = .next s := by
  have hready : s.outputReady o = false := by
    rw [State.outputReady, Option.isNone_eq_false_iff.2 (Option.isSome_iff_ne_none.2 h), Bool.and_false]
  show execDamageNotice o s = _
  simp only [execDamageNotice, hready]

/-- A deferred grant is raised where the output waits for one and has no claim. -/
theorem State.raiseDeferred_eq {s : State} {o : OutputId} (h : s.claims.output[o] = none) : s.raiseDeferred o =
    if s.outputs[o].state = .grant then
      { s with claims := { s.claims with output := s.claims.output.set o (some .frameGrant) } }
    else s := by
  cases hstate : s.outputs[o].state with
  | grant =>
    rw [if_pos rfl]
    simp only [State.raiseDeferred, hstate, State.raiseGrant, h]
    rfl
  | off | idle | frame | interval | space => simp only [State.raiseDeferred, hstate]; rfl

section
variable {s : State} {d : DamageReport} {ref : PatternRef} {chain : List CellNo}

theorem State.takeDamage_owned (hnamed : s.namedPattern d = some (ref, chain)) (hmem : d.cell ∈ chain)
    (howned : s.pool.cells[d.cell].condition = .owned) : s.takeDamage d = s.damagePattern ref := by
  simp only [State.takeDamage, hnamed]
  exact if_pos ⟨List.contains_iff_mem.2 hmem, howned⟩

theorem State.takeDamage_gone (h : ∀ ref chain, s.namedPattern d = some (ref, chain) →
    ¬(d.cell ∈ chain ∧ s.pool.cells[d.cell].condition = .owned)) : s.takeDamage d = s.setTableAttention true := by
  cases hnamed : s.namedPattern d with
  | none => simp only [State.takeDamage, hnamed]
  | some named =>
    obtain ⟨ref, chain⟩ := named
    simp only [State.takeDamage, hnamed]
    exact if_neg fun hboth => h ref chain hnamed ⟨List.contains_iff_mem.1 hboth.1, hboth.2⟩

theorem State.namedPattern_frame {v : Variant} (hsent : d.sent = .frame v) : s.namedPattern d =
    (s.currentEntry d.handle).bind fun e => (e.chainOf v).map fun c => (.frame d.handle.slot v, c) := by
  simp only [State.namedPattern, hsent]

theorem State.namedPattern_repeat {g : GroupNo} (hsent : d.sent = .repeatOf g) : s.namedPattern d =
    s.groups[g].bind fun group => group.repeatPattern.map fun p => (.ofGroup g, p.chain) := by
  simp only [State.namedPattern, hsent]

end

/-- Settles O39: a served damage notice marks the pattern that still stands. -/
theorem damageNoticesMarkWhatStands : Obligations.DamageNoticesMarkWhatStands := by
  intro s o d hclaim hturn
  refine ⟨exec_damageNotice_waits, fun hremovals => ?_⟩
  intro served grant owned unmarked
  have hnone : served.claims.output[o] = none := by
    show (s.claims.output.set o none)[o] = none
    rw [getElem_set_fin, if_pos rfl]
  have hexec : ∀ u : State, served.takeDamage d = u → u.claims = served.claims → u.outputs = served.outputs →
      exec (.damageNotice o) s = .next (grant u) := fun u hu hclaims houtputs => by
    have hserved : exec (.damageNotice o) s = .next ((served.takeDamage d).raiseDeferred o) :=
      exec_damageNotice_served hclaim hturn hremovals
    have hstate : u.outputs[o].state = s.outputs[o].state := by rw [houtputs]
    rw [hserved, hu, State.raiseDeferred_eq (by rw [hclaims]; exact hnone), hstate]
  have hmarks : ∀ ref chain, served.namedPattern d = some (ref, chain) → owned chain →
      exec (.damageNotice o) s = .next (grant (served.damagePattern ref)) := fun ref chain hnamed hown =>
    hexec _ (State.takeDamage_owned hnamed hown.1 hown.2) (by rw [(served.damagePattern_marked ref).frame])
      (by rw [(served.damagePattern_marked ref).frame])
  have hunmarked : (∀ ref chain, served.namedPattern d = some (ref, chain) → ¬owned chain) →
      exec (.damageNotice o) s = .next (grant unmarked) := fun h =>
    hexec unmarked (State.takeDamage_gone h) rfl rfl
  refine ⟨fun v e chain hsent he hchain hown => hmarks _ chain ?_ hown, fun v hsent hgone => hunmarked ?_,
    fun g group p hsent hg hp hown => hmarks _ p.chain ?_ hown, fun g hsent hgone => hunmarked ?_⟩
  · rw [State.namedPattern_frame hsent, show served.currentEntry d.handle = some e from he, Option.bind_some, hchain]
    rfl
  · intro ref chain hnamed
    rw [State.namedPattern_frame hsent, Option.bind_eq_some_iff] at hnamed
    obtain ⟨e, he, hmap⟩ := hnamed
    obtain ⟨c, hc, heq⟩ := Option.map_eq_some_iff.1 hmap
    cases heq
    exact hgone e chain he hc
  · rw [State.namedPattern_repeat hsent, show served.groups[g] = some group from hg, Option.bind_some, hp]
    rfl
  · intro ref chain hnamed
    rw [State.namedPattern_repeat hsent, Option.bind_eq_some_iff] at hnamed
    obtain ⟨group, hgroup, hmap⟩ := hnamed
    obtain ⟨p, hp, heq⟩ := Option.map_eq_some_iff.1 hmap
    cases heq
    exact hgone group p hgroup hp

end Sys2Proof.Machine
end

section
/-! SUPPORT. The parameter steps of the host and the parameter-phase clean-up (R28, R29, R35, R36, R52). -/

namespace Sys2Proof.Machine

/-! ## A parameter step at its turn (R170, R175) -/

theorem State.hostStep_of_atParameterStep {s : State} {h : HostStep} {task : Task} {held : Bool}
    (hs : s.AtParameterStep h task held) (body : Task → Bool → State → State) :
    s.hostStep h body = body task held { s with claims := s.hostServed } := by
  obtain ⟨hclaim, hturn, hengine⟩ := hs
  rw [State.hostStep, if_pos ⟨hclaim, hturn⟩, hengine]
  rfl

theorem State.stepPassed_eq (s : State) (task : Task) (held : Bool) : s.stepPassed task held = { s with
    claims := if held then { s.claims with host := some .cleanUp } else s.claims
    port := { s.port with engine := if held then .cleanup task .aborted else .parameter task (.word s.timebase) } } := by
  cases held <;> rfl

/-! ## The install parameter step (R28, R187) -/

theorem ofNat_mod_self (n k : Nat) [NeZero n] (m : Nat) (h : k % n = m % n) : Fin.ofNat n k = Fin.ofNat n m :=
  Fin.ext h

/-- The fields of the first word of an install. -/
theorem Task.loading_eq (task : Task) : task.loading = {
    group := Fin.ofNat 16 ((task.word 0).toNat / 4096), key := task.word 1, tolerance := Fin.ofNat 8 (task.word 0).toNat
    runCount := (task.word 2).toNat, alternatePresent := (task.word 0).getLsbD 8 } := by
  have hgroup : installGroup (task.word 0) = Fin.ofNat 16 ((task.word 0).toNat / 4096) := by
    refine ofNat_mod_self 16 _ _ ?_
    rw [bitField, Nat.shiftRight_eq_div_pow]
    exact Nat.mod_mod _ _
  have htolerance : installTolerance (task.word 0) = Fin.ofNat 8 (task.word 0).toNat := by
    refine ofNat_mod_self 8 _ _ ?_
    rw [bitField, Nat.shiftRight_zero]
    exact Nat.mod_mod _ _
  rw [Task.loading, hgroup, htolerance]
  rfl

theorem countAccepted_iff (limit n : Nat) : countAccepted limit n = true ↔ n % 2 = 1 ∧ 3 ≤ n ∧ n ≤ limit :=
  decide_eq_true_iff

/-- Some slot holds the key value. -/
theorem State.keyHeld_none_iff (s : State) (g : GroupNo) (key : Word) :
    s.keyHeld g key none = true ↔ ∃ slot : SlotNo, s.entries[slot].occupant.holdsKey g key = true := by
  rw [← not_iff_not, Bool.not_eq_true, State.keyHeld_eq_false]
  simp

theorem State.lowestFreeSlot_eq_none {s : State} (h : ∀ slot : SlotNo, s.entries[slot].occupant ≠ .free) :
    s.lowestFreeSlot = none := find?_finRange_eq_none.2 fun slot => decide_eq_false (h slot)

theorem State.lowestFreeSlot_eq_some {s : State} {slot : SlotNo} (hfree : s.entries[slot].occupant = .free)
    (hlowest : ∀ lower : SlotNo, lower < slot → s.entries[lower].occupant ≠ .free) : s.lowestFreeSlot = some slot :=
  find?_finRange_eq_some.2 ⟨decide_eq_true hfree, fun lower hl => decide_eq_false (hlowest lower hl)⟩

section
variable {s : State} {task : Task} {held : Bool}

theorem installParameterBody_noSuchGroup (h : s.groups[task.loading.group] = none) :
    installParameterBody task held s = s.stepFailed task .noSuchGroup := by
  simp only [installParameterBody, h, Option.isNone_none, if_true]

variable (hgroup : s.groups[task.loading.group] ≠ none)
include hgroup

theorem installParameterBody_defined : installParameterBody task held s =
    if !countAccepted 127 task.loading.runCount then s.stepFailed task .badParameter
    else if s.keyHeld task.loading.group task.loading.key none then s.stepFailed task .duplicateKey
    else match s.lowestFreeSlot with
      | none => s.stepFailed task .tableFull
      | some slot => match s.pool.reserve task.loading.cells with
        | none => s.stepFailed task .noSpace
        | some p => ((s.setLoading slot task.loading).setPool p).stepPassed task held :=
  if_neg (by rw [Option.isNone_iff_eq_none]; exact hgroup)

theorem installParameterBody_badParameter (h : ¬countAccepted 127 task.loading.runCount = true) :
    installParameterBody task held s = s.stepFailed task .badParameter := by
  rw [installParameterBody_defined hgroup, Bool.eq_false_iff.2 h]
  rfl

variable (hcount : countAccepted 127 task.loading.runCount = true)
include hcount

theorem installParameterBody_duplicateKey (h : s.keyHeld task.loading.group task.loading.key none = true) :
    installParameterBody task held s = s.stepFailed task .duplicateKey := by
  rw [installParameterBody_defined hgroup, hcount, h]
  rfl

variable (hkey : s.keyHeld task.loading.group task.loading.key none = false)
include hkey

theorem installParameterBody_tableFull (h : s.lowestFreeSlot = none) :
    installParameterBody task held s = s.stepFailed task .tableFull := by
  rw [installParameterBody_defined hgroup, hcount, hkey, h]
  rfl

theorem installParameterBody_noSpace {slot : SlotNo} (hslot : s.lowestFreeSlot = some slot)
    (h : s.pool.reserve task.loading.cells = none) : installParameterBody task held s = s.stepFailed task .noSpace := by
  rw [installParameterBody_defined hgroup, hcount, hkey, hslot, h]
  rfl

theorem installParameterBody_passes {slot : SlotNo} {p : Pool} (hslot : s.lowestFreeSlot = some slot)
    (h : s.pool.reserve task.loading.cells = some p) :
    installParameterBody task held s = ((s.setLoading slot task.loading).setPool p).stepPassed task held := by
  rw [installParameterBody_defined hgroup, hcount, hkey, hslot, h]
  rfl

end

theorem installParameters : Clause.installParameters := by
  intro s task held hs w g n taken cells served fails goodCount
  have hexec : exec .installParameterStep s = .next (installParameterBody task held served) :=
    congrArg Host.Outcome.next (State.hostStep_of_atParameterStep hs _)
  have hl := task.loading_eq
  have hlgroup : task.loading.group = g := by rw [hl]
  have hgroups : served.groups[task.loading.group] = s.groups[g] := congrArg (fun k : GroupNo => s.groups[k]) hlgroup
  have hcells : task.loading.cells = cells := by rw [hl]; rfl
  have hgood : countAccepted 127 task.loading.runCount = true ↔ goodCount := countAccepted_iff 127 n
  have htaken : served.keyHeld task.loading.group task.loading.key none = true ↔ taken := by
    rw [State.keyHeld_none_iff, hlgroup]
    rfl
  have hdefined : s.groups[g] ≠ none → served.groups[task.loading.group] ≠ none := fun h => by
    rwa [hgroups]
  have hfails : ∀ outcome, installParameterBody task held served = served.stepFailed task outcome → fails outcome :=
    fun outcome h => hexec.trans (congrArg _ h)
  refine ⟨fun hg => hfails _ (installParameterBody_noSuchGroup (hgroups.trans hg)), fun hg hcount =>
    hfails _ (installParameterBody_badParameter (hdefined hg) (hgood.not.2 hcount)), fun hg hcount hkey =>
    hfails _ (installParameterBody_duplicateKey (hdefined hg) (hgood.2 hcount) (htaken.2 hkey)),
    fun hg hcount hkey hfull => hfails _ (installParameterBody_tableFull (hdefined hg) (hgood.2 hcount)
      (Bool.eq_false_iff.2 (htaken.not.2 hkey)) (State.lowestFreeSlot_eq_none hfull)), ?_⟩
  intro hg hcount hkey slot hfree hlowest
  have hslot : served.lowestFreeSlot = some slot := State.lowestFreeSlot_eq_some hfree hlowest
  have hkey' := Bool.eq_false_iff.2 (htaken.not.2 hkey)
  obtain ⟨hfew, henough⟩ := s.pool.reserve_spec cells
  refine ⟨fun hspace => hfails _ (installParameterBody_noSpace (hdefined hg) (hgood.2 hcount) hkey' hslot
    (by rw [hcells]; exact hfew hspace)), fun hspace => ?_⟩
  obtain ⟨⟨pcells, free, returns, reserved⟩, hreserve, hp, hpcells⟩ := henough hspace
  cases hp
  have hpasses := installParameterBody_passes (held := held) (hdefined hg) (hgood.2 hcount) hkey' hslot
    (by rw [hcells]; exact hreserve)
  rw [State.stepPassed_eq, hl] at hpasses
  exact ⟨_, hexec.trans (congrArg _ hpasses), rfl, hpcells⟩

/-! ## The group parameter step (R35, R36, R184, R185) -/

/-- The test of the group's state, which comes first. -/
theorem groupStateFailure_eq {c : HostCommand} (h : c = .groupDefine ∨ c = .groupEdit) (x : Option Group) :
    groupStateFailure c x = if c = .groupDefine ↔ x = none then none
      else some (if c = .groupDefine then .groupDefined else .noSuchGroup) := by
  rcases h with rfl | rfl <;> cases x <;> simp [groupStateFailure]

theorem cellsFor_eq {n : Nat} (h : n % 2 = 1 ∧ 3 ≤ n ∧ n ≤ 15) : cellsFor n = if n ≤ 7 then 1 else 2 := by
  obtain ⟨hodd, hlow, hhigh⟩ := h
  unfold cellsFor
  split <;> omega

section
variable {s : State} {task : Task} {held : Bool}

theorem groupParameterBody_wrongState {outcome : HostOutcome}
    (h : groupStateFailure task.command s.groups[argGroup task.arg] = some outcome) :
    groupParameterBody task held s = s.stepFailed task outcome := by
  simp only [groupParameterBody, h]

variable (hstate : groupStateFailure task.command s.groups[argGroup task.arg] = none)
include hstate

theorem groupParameterBody_badParameter (h : ¬countAccepted 15 (task.word 6).toNat = true) :
    groupParameterBody task held s = s.stepFailed task .badParameter := by
  simp only [groupParameterBody, hstate, Bool.eq_false_iff.2 h]
  rfl

variable (hcount : countAccepted 15 (task.word 6).toNat = true)
include hcount

theorem groupParameterBody_noSpace (h : s.pool.reserve (cellsFor (task.word 6).toNat) = none) :
    groupParameterBody task held s = s.stepFailed task .noSpace := by
  simp only [groupParameterBody, hstate, hcount, h]
  rfl

theorem groupParameterBody_passes {p : Pool} (h : s.pool.reserve (cellsFor (task.word 6).toNat) = some p) :
    groupParameterBody task held s = (s.setPool p).stepPassed task held := by
  simp only [groupParameterBody, hstate, hcount, h]
  rfl

end

theorem groupParameters : Clause.groupParameters := by
  intro s task held hs hcommand g n cells served fails stateFits goodCount
  have hexec : exec .groupParameterStep s = .next (groupParameterBody task held served) :=
    congrArg Host.Outcome.next (State.hostStep_of_atParameterStep hs _)
  have hfails : ∀ outcome, groupParameterBody task held served = served.stepFailed task outcome → fails outcome :=
    fun outcome h => hexec.trans (congrArg _ h)
  have hfailure := groupStateFailure_eq hcommand s.groups[g]
  have hfits : stateFits → groupStateFailure task.command served.groups[argGroup task.arg] = none := fun h =>
    hfailure.trans (if_pos h)
  have hgood : countAccepted 15 n = true ↔ goodCount := countAccepted_iff 15 n
  refine ⟨fun h => hfails _ (groupParameterBody_wrongState (hfailure.trans (if_neg h))), fun h hcount =>
    hfails _ (groupParameterBody_badParameter (hfits h) (hgood.not.2 hcount)), fun h hcount hspace => ?_,
    fun h hcount hspace => ?_⟩
  · have hfew := (s.pool.reserve_spec cells).1 hspace
    rw [show cells = cellsFor n from (cellsFor_eq hcount).symm] at hfew
    exact hfails _ (groupParameterBody_noSpace (hfits h) (hgood.2 hcount) hfew)
  · obtain ⟨⟨pcells, free, returns, reserved⟩, hreserve, hp, hpcells⟩ := (s.pool.reserve_spec cells).2 hspace
    cases hp
    have hreserve' : served.pool.reserve (cellsFor n) = some _ := (congrArg s.pool.reserve (cellsFor_eq hcount)).trans hreserve
    have hpasses := groupParameterBody_passes (held := held) (hfits h) (hgood.2 hcount) hreserve'
    rw [State.stepPassed_eq] at hpasses
    exact ⟨_, hexec.trans (congrArg _ hpasses), rfl, hpcells⟩

/-- Settles O40: the two parameter steps test in order and reserve whole or nothing. -/
theorem parameterStepsTestInOrder : Obligations.ParameterStepsTestInOrder := ⟨installParameters, groupParameters⟩

/-! ## Cells that come back, and the clean-up (R29, R49, R52, R58) -/

theorem returnedCells : Clause.returnedCells := by
  intro s chain hnodup t marked
  have ht := s.returnCells_frame chain
  have hpool : t.pool = s.pool.returnCells chain := congrArg State.pool ht
  obtain ⟨hfree, hreturn, hreservation⟩ := s.pool.returnCells_lists chain hnodup
  refine ⟨ht.trans (by rw [hpool, congrArg State.port ht]), ?_, fun c => ?_, congrArg State.port ht⟩
  · rw [hpool]
    exact Pool.ext_parts rfl hfree hreturn hreservation
  · rw [hpool]
    exact s.pool.returnCells_cells chain hnodup c

theorem exec_parameterPhaseCleanUp {s : State} {task : Task} {outcome : HostOutcome}
    (hclaim : s.claims.host = some .cleanUp) (hturn : s.turnOf .host = true)
    (hengine : s.port.engine = .cleanup task outcome) : exec .parameterPhaseCleanUp s =
      .next ((State.freeLoading { s with claims := s.hostServed }).returnReservation.endTask task false outcome) := by
  show Host.Outcome.next s.cleanUp = _
  rw [State.cleanUp, if_pos ⟨hclaim, hturn⟩, hengine]
  rfl

theorem State.loadingSlot_eq_some {s : State} {slot : SlotNo} {l : Loading} (hl : s.entries[slot].occupant = .loading l)
    (hone : ∀ (other : SlotNo) l', s.entries[other].occupant = .loading l' → other = slot) :
    s.loadingSlot = some slot := by
  refine find?_finRange_eq_some.2 ⟨by simp only [hl], fun lower hlt => ?_⟩
  cases hother : s.entries[lower].occupant with
  | loading l' => exact absurd (hone lower l' hother) hlt.ne
  | free | installed => rfl

theorem State.freeLoading_loading {s : State} {slot : SlotNo} {l : Loading} (hl : s.entries[slot].occupant = .loading l)
    (hone : ∀ (other : SlotNo) l', s.entries[other].occupant = .loading l' → other = slot) :
    s.freeLoading = s.freeSlot slot := by
  simp only [State.freeLoading, State.loadingSlot_eq_some hl hone]

theorem State.freeLoading_none {s : State} (h : ∀ (slot : SlotNo) l, s.entries[slot].occupant ≠ .loading l) :
    s.freeLoading = s := by
  have hslot : s.loadingSlot = none := by
    refine find?_finRange_eq_none.2 fun slot => ?_
    cases hother : s.entries[slot].occupant with
    | loading l' => exact absurd hother (h slot l')
    | free | installed => rfl
  simp only [State.freeLoading, hslot]

theorem cleanUps : Clause.cleanUps := by
  intro s task outcome hclaim hturn hengine served
  have hexec := exec_parameterPhaseCleanUp hclaim hturn hengine
  refine ⟨fun slot l hl hone => hexec.trans ?_, fun hnone => hexec.trans ?_⟩
  · rw [State.freeLoading_loading (s := { s with claims := s.hostServed }) hl hone]
    rfl
  · rw [State.freeLoading_none (s := { s with claims := s.hostServed }) hnone]
    rfl

/-- Settles O41: the cells of a chain come back, and the clean-up frees the LOADING slot. -/
theorem cleanUpGivesEverythingBack : Obligations.CleanUpGivesEverythingBack := ⟨returnedCells, cleanUps⟩

end Sys2Proof.Machine
end

section
/-! SUPPORT. The final steps of an install and of a group edit, and the entry edit (R30, R31, R36, R37, R51). -/

namespace Sys2Proof.Machine

/-! ## The install final step (R30, R51, R187) -/

theorem State.loading?_loading {s : State} {slot : SlotNo} {l : Loading} (hl : s.entries[slot].occupant = .loading l)
    (hone : ∀ (other : SlotNo) l', s.entries[other].occupant = .loading l' → other = slot) :
    s.loading? = some (slot, l) := by
  simp only [State.loading?, State.loadingSlot_eq_some hl hone, Option.bind_some, hl]

section
variable {s u : State} {task : Task} {held : Bool} {slot : SlotNo} {l : Loading}

theorem installFinalBody_conflict {other : ContenderOwner} (hl : s.loading? = some (slot, l))
    (hcheck : conflictCheck (s.installUnderTest l) (s.conflictSet (fun _ => false)) s = (u, .conflict other)) :
    installFinalBody task held s =
      (u.freeSlot slot).returnReservation.finish task held .conflict (u.conflictResult other) := by
  simp only [installFinalBody, hl, hcheck]

theorem installFinalBody_unreadable (hl : s.loading? = some (slot, l))
    (hcheck : conflictCheck (s.installUnderTest l) (s.conflictSet (fun _ => false)) s = (u, .unreadable)) :
    installFinalBody task held s = (u.freeSlot slot).returnReservation.finish task held .entryDamaged [] := by
  simp only [installFinalBody, hl, hcheck]

theorem installFinalBody_clear (hl : s.loading? = some (slot, l))
    (hcheck : conflictCheck (s.installUnderTest l) (s.conflictSet (fun _ => false)) s = (u, .clear)) :
    installFinalBody task held s =
      (u.completeInstall slot l).1.finish task held .ok [(u.completeInstall slot l).2] := by
  simp only [installFinalBody, hl, hcheck]

end

/-- The install in its slot, which owns the reserved cells. -/
def State.withInstall (s : State) (slot : SlotNo) (l : Loading) : State :=
  (s.setEntry slot {
    generation := nextGeneration s.entries[slot].generation
    occupant := .installed (l.install s.pool.reservation) }).setPool s.pool.ownReservation

section
variable {s : State} {slot : SlotNo} {l : Loading}

theorem State.completeInstall_eq {g : Group} (hg : s.groups[l.group] = some g) :
    (s.completeInstall slot l).1 = { s with
      entries := s.entries.set slot {
        generation := nextGeneration s.entries[slot].generation, occupant := .installed (l.install s.pool.reservation) }
      groups := s.groups.set l.group (some { g with entryCount := g.entryCount + 1 })
      pool := s.pool.ownReservation
      bins := ((s.withInstall slot l).joinFrames slot (l.install s.pool.reservation)).bins } := by
  obtain ⟨bins, hbins⟩ := (s.withInstall slot l).joinFrames_frame slot (l.install s.pool.reservation)
  have hcount : (s.completeInstall slot l).1 =
      ((s.withInstall slot l).joinFrames slot (l.install s.pool.reservation)).changeCount l.group (· + 1) := rfl
  rw [hcount, hbins, State.changeCount_of_some (s := { s.withInstall slot l with bins := bins }) (group := g) hg]
  rfl

theorem State.completeInstall_binList (hbin : (binOf l.runCount).isSome = true) (n : Nat) :
    (s.completeInstall slot l).1.binList n = if n = l.runCount then
      s.binList n ++ .frame slot .main :: (if l.alternatePresent then [.frame slot .alternate] else [])
    else s.binList n := by
  have hcount : (s.completeInstall slot l).1 =
      ((s.withInstall slot l).joinFrames slot (l.install s.pool.reservation)).changeCount l.group (· + 1) := rfl
  have halternate : (l.install s.pool.reservation).alternate.isSome = l.alternatePresent := by
    cases h : l.alternatePresent <;> simp [Loading.install, h]
  rw [hcount, State.changeCount_frame]
  refine ((s.withInstall slot l).binList_joinFrames slot (l.install s.pool.reservation) hbin n).trans ?_
  rw [halternate]
  rfl

end

/-- Settles O43: the install final step installs whole, or gives everything back. -/
theorem installFinalStepInstallsOrRefuses : Obligations.InstallFinalStepInstallsOrRefuses := by
  intro s u task held slot l verdict hs hl hone hcheck m gen freed
  have hexec : exec .installFinalStep s = .next (installFinalBody task held { s with claims := s.hostServed }) :=
    congrArg Host.Outcome.next (State.hostStep_of_atStep hs _)
  have hloading : State.loading? { s with claims := s.hostServed } = some (slot, l) := State.loading?_loading hl hone
  have hmarked := conflictCheck_marked (State.installUnderTest { s with claims := s.hostServed } l)
    (State.conflictSet { s with claims := s.hostServed } (fun _ => false)) { s with claims := s.hostServed }
  rw [hcheck] at hmarked
  have hgen : u.entries[slot].generation = s.entries[slot].generation := hmarked.generation slot
  refine ⟨fun other hv => ?_, fun hv => ?_, fun hv g hg => ?_⟩
  · subst hv
    exact hexec.trans (congrArg _ (installFinalBody_conflict hloading hcheck))
  · subst hv
    exact hexec.trans (congrArg _ (installFinalBody_unreadable hloading hcheck))
  · subst hv
    have hword : (u.completeInstall slot l).2 = BitVec.ofNat 16 (gen.val * 256 + slot.val) := by
      show (⟨slot, nextGeneration u.entries[slot].generation⟩ : Handle).toWord = _
      rw [hgen]
      rfl
    obtain ⟨hown, hcells⟩ := u.pool.ownReservation_spec
    have hall := State.completeInstall_eq (slot := slot) hg
    have hpool : (u.completeInstall slot l).1.pool = u.pool.ownReservation := by rw [hall]
    refine ⟨(u.completeInstall slot l).1, ?_, ?_, fun c => ?_, fun hbin n => State.completeInstall_binList hbin n⟩
    · rw [hexec, installFinalBody_clear hloading hcheck, hword]
    · rw [hpool, ← hown, hall, hgen]
      rfl
    · rw [hpool]
      exact hcells c

theorem isNone_of_ne_none {α : Type} {x : Option α} (h : x ≠ none) : x.isNone = false :=
  Option.isNone_eq_false_iff.2 (Option.isSome_iff_ne_none.2 h)

/-! ## The group edit final step (R36, R37, R185) -/

section
variable {s u : State} {task : Task} {held : Bool}

theorem groupEditFinalBody_noSuchGroup (h : s.groups[argGroup task.arg] = none) :
    groupEditFinalBody task held s = s.finish task held .noSuchGroup [] := by
  simp only [groupEditFinalBody, h, Option.isNone_none, if_true]

variable (hgroup : s.groups[argGroup task.arg] ≠ none)
include hgroup

theorem groupEditFinalBody_conflict {other : ContenderOwner}
    (hcheck : conflictCheck (s.editUnderTest (argGroup task.arg) task)
      (s.conflictSet (s.belongsTo (argGroup task.arg))) s = (u, .conflict other)) :
    groupEditFinalBody task held s = u.returnReservation.finish task held .conflict (u.conflictResult other) := by
  have hdefined : s.groups[argGroup task.arg].isNone = false := isNone_of_ne_none hgroup
  simp only [groupEditFinalBody, hdefined, hcheck]
  rfl

theorem groupEditFinalBody_unreadable
    (hcheck : conflictCheck (s.editUnderTest (argGroup task.arg) task)
      (s.conflictSet (s.belongsTo (argGroup task.arg))) s = (u, .unreadable)) :
    groupEditFinalBody task held s = u.returnReservation.finish task held .entryDamaged [] := by
  have hdefined : s.groups[argGroup task.arg].isNone = false := isNone_of_ne_none hgroup
  simp only [groupEditFinalBody, hdefined, hcheck]
  rfl

theorem groupEditFinalBody_clear {group : Group} (hu : u.groups[argGroup task.arg] = some group)
    (hcheck : conflictCheck (s.editUnderTest (argGroup task.arg) task)
      (s.conflictSet (s.belongsTo (argGroup task.arg))) s = (u, .clear)) :
    groupEditFinalBody task held s = (u.editGroup (argGroup task.arg) task group).finish task held .ok [] := by
  have hdefined : s.groups[argGroup task.arg].isNone = false := isNone_of_ne_none hgroup
  simp only [groupEditFinalBody, hdefined, hcheck, hu]
  rfl

end

section
variable (s : State) (g : GroupNo) {task : Task} (group : Group)

/-- The group record, the bin and the pool of a group whose repeat pattern is replaced. -/
def State.replacing (s : State) (g : GroupNo) (task : Task) (group : Group) : State :=
  (s.setGroup g (some { group with
    settings := task.settings, repeatPattern := some (s.newRepeat task), repeatDamaged := false })).releaseRepeat
    g group.repeatPattern

theorem State.replacing_frame : s.replacing g task group = { s with
    groups := s.groups.set g (some { group with
      settings := task.settings, repeatPattern := some (s.newRepeat task), repeatDamaged := false })
    bins := (s.replacing g task group).bins
    mail := { s.mail with releases := s.mail.releases ++ group.repeatPattern.toList.map Pattern.chain } } :=
  State.releaseRepeat_frame _ _ _

theorem State.editGroup_replacing (h : repeatChoice (task.word 0) = 1) : s.editGroup g task group = { s with
    groups := s.groups.set g (some { group with
      settings := task.settings, repeatPattern := some (s.newRepeat task), repeatDamaged := false })
    bins := (((s.replacing g task group).setPool s.pool.ownReservation).joinBin (task.word 6).toNat (.ofGroup g)).bins
    pool := s.pool.ownReservation
    mail := { s.mail with
      path := s.mail.path ++ [.groupChanged g]
      releases := s.mail.releases ++ group.repeatPattern.toList.map Pattern.chain } } := by
  have hpool : (s.replacing g task group).pool = s.pool := by rw [State.replacing_frame]
  have hedit : s.editGroup g task group =
      (State.joinBin ((s.replacing g task group).setPool (s.replacing g task group).pool.ownReservation)
        (task.word 6).toNat (.ofGroup g)).sendNotice (.groupChanged g) := s.editGroup_replace g group h
  obtain ⟨bins, hbins⟩ := ((s.replacing g task group).setPool s.pool.ownReservation).joinBin_frame (task.word 6).toNat
    (.ofGroup g)
  rw [hedit, hpool, hbins, State.replacing_frame]
  rfl

theorem State.editGroup_removing (h0 : repeatChoice (task.word 0) ≠ 0) (h1 : repeatChoice (task.word 0) ≠ 1) :
    s.editGroup g task group = { s with
      groups := s.groups.set g (some { group with
        settings := task.settings, repeatPattern := none, repeatDamaged := false })
      bins := ((s.setGroup g (some { group with
        settings := task.settings, repeatPattern := none, repeatDamaged := false })).releaseRepeat
          g group.repeatPattern).bins
      mail := { s.mail with
        path := s.mail.path ++ [.groupChanged g]
        releases := s.mail.releases ++ group.repeatPattern.toList.map Pattern.chain } } := by
  rw [s.editGroup_remove g group h0 h1, State.releaseRepeat_frame]
  rfl

theorem State.editGroup_keeping (h : repeatChoice (task.word 0) = 0) : s.editGroup g task group = { s with
    groups := s.groups.set g (some { group with settings := task.settings })
    mail := { s.mail with path := s.mail.path ++ [.groupChanged g] } } := s.editGroup_keep g group h

/-- The new repeat pattern joins its bin behind the old one's leaving. -/
theorem State.editGroup_replacing_binList (h : repeatChoice (task.word 0) = 1) (n : Nat) :
    (s.editGroup g task group).binList n =
      if n = (task.word 6).toNat ∧ (binOf (task.word 6).toNat).isSome = true then
        (if group.repeatPattern.map Pattern.runCount = some n then
          (s.binList n).filter (fun r => decide (r ≠ .ofGroup g)) else s.binList n) ++ [.ofGroup g]
      else if group.repeatPattern.map Pattern.runCount = some n then
          (s.binList n).filter (fun r => decide (r ≠ .ofGroup g)) else s.binList n := by
  have hreplaced : ((s.replacing g task group).setPool s.pool.ownReservation).binList n =
      if group.repeatPattern.map Pattern.runCount = some n then
        (s.binList n).filter (fun r => decide (r ≠ .ofGroup g)) else s.binList n :=
    State.binList_releaseRepeat _ g group.repeatPattern n
  rw [State.editGroup_replacing s g group h, ← hreplaced]
  exact State.binList_joinBin ((s.replacing g task group).setPool s.pool.ownReservation) (task.word 6).toNat n (.ofGroup g)

/-- The old repeat pattern leaves its bin. -/
theorem State.editGroup_removing_binList (h0 : repeatChoice (task.word 0) ≠ 0) (h1 : repeatChoice (task.word 0) ≠ 1)
    (n : Nat) : (s.editGroup g task group).binList n = if group.repeatPattern.map Pattern.runCount = some n then
      (s.binList n).filter (fun r => decide (r ≠ .ofGroup g)) else s.binList n := by
  rw [State.editGroup_removing s g group h0 h1]
  exact State.binList_releaseRepeat (s.setGroup g _) g group.repeatPattern n

theorem State.editGroup_frame : s.editGroup g task group = { s with
    groups := (s.editGroup g task group).groups
    bins := (s.editGroup g task group).bins
    pool := (s.editGroup g task group).pool
    mail := { s.mail with
      path := s.mail.path ++ [.groupChanged g]
      releases := s.mail.releases ++
        if repeatChoice (task.word 0) = 0 then [] else group.repeatPattern.toList.map Pattern.chain } } := by
  by_cases h0 : repeatChoice (task.word 0) = 0
  · rw [if_pos h0, List.append_nil, State.editGroup_keeping s g group h0]
  · rw [if_neg h0]
    by_cases h1 : repeatChoice (task.word 0) = 1
    · rw [State.editGroup_replacing s g group h1]
    · rw [State.editGroup_removing s g group h0 h1]

end

/-- Settles O45: a group edit changes the group whole, or not at all. -/
theorem groupEditChangesTheGroupWhole : Obligations.GroupEditChangesTheGroupWhole := by
  intro s u task held verdict hs g served choice
  have hexec : exec .groupEditFinalStep s = .next (groupEditFinalBody task held served) :=
    congrArg Host.Outcome.next (State.hostStep_of_atStep hs _)
  refine ⟨fun hg => hexec.trans (congrArg _ (groupEditFinalBody_noSuchGroup hg)), fun hg hcheck => ⟨fun other hv => ?_,
    fun hv => ?_, fun group hv hu => ⟨u.editGroup g task group, ?_, u.editGroup_frame g group, fun h => ?_, fun h => ?_,
      fun h => ?_⟩⟩⟩
  · subst hv
    exact hexec.trans (congrArg _ (groupEditFinalBody_conflict (s := served) hg hcheck))
  · subst hv
    exact hexec.trans (congrArg _ (groupEditFinalBody_unreadable (s := served) hg hcheck))
  · subst hv
    exact hexec.trans (congrArg _ (groupEditFinalBody_clear (s := served) hg hu hcheck))
  · rw [u.editGroup_keeping g group h]
    exact ⟨rfl, rfl, rfl⟩
  · have hall := u.editGroup_replacing g group h
    refine ⟨by rw [hall]; rfl, by rw [hall], fun hbin n => ?_⟩
    rw [u.editGroup_replacing_binList g group h]
    by_cases hn : n = (task.word 6).toNat
    · rw [if_pos ⟨hn, hbin⟩, if_pos hn]
    · rw [if_neg fun hboth => hn hboth.1, if_neg hn, List.append_nil]
  · have h0 : repeatChoice (task.word 0) ≠ 0 := fun h0 => absurd (h0.symm.trans h) (by decide)
    have h1 : repeatChoice (task.word 0) ≠ 1 := fun h1 => absurd (h1.symm.trans h) (by decide)
    have hall := u.editGroup_removing g group h0 h1
    exact ⟨by rw [hall], by rw [hall], u.editGroup_removing_binList g group h0 h1⟩

end Sys2Proof.Machine
end

section
/-! SUPPORT. The entry edit, the reads of the table, and the handle check (R31, R43, R44, R125, R136, R182, R186, R188,
R190, R191). -/

namespace Sys2Proof.Machine

/-! ## The entry edit (R31, R188) -/

theorem editTolerance_eq (task : Task) (e : Installed) : editTolerance task e =
    if (task.word 1).getLsbD 1 then Fin.ofNat 8 ((task.word 1).toNat / 256) else e.tolerance := by
  have hfield : Fin.ofNat 8 (bitField (task.word 1) 8 3) = Fin.ofNat 8 ((task.word 1).toNat / 256) := by
    refine ofNat_mod_self 8 _ _ ?_
    rw [bitField, Nat.shiftRight_eq_div_pow]
    exact Nat.mod_mod _ _
  rw [editTolerance, hfield]

/-- Some other slot holds the key value. -/
theorem State.keyHeld_some_iff (s : State) (g : GroupNo) (key : Word) (slot : SlotNo) : s.keyHeld g key (some slot) = true ↔
    ∃ other : SlotNo, other ≠ slot ∧ s.entries[other].occupant.holdsKey g key = true := by
  rw [← not_iff_not, Bool.not_eq_true, State.keyHeld_eq_false]
  simp

theorem State.currentWord_installedAt {s : State} {w : Word} {h : Handle} {e : Installed}
    (hw : s.currentWord w = some (h, e)) : s.installedAt h.slot = some e := by
  have hcurrent := (State.currentWord_eq_some.1 hw).2
  unfold State.currentEntry at hcurrent
  split at hcurrent
  · exact hcurrent
  · cases hcurrent

section
variable {s u : State} {task : Task} {held : Bool} {h : Handle} {e : Installed}

theorem entryEditBody_none (hw : s.currentWord (task.word 0) = none) :
    entryEditBody task held s = s.finish task held .noSuchEntry [] := by
  simp only [entryEditBody, hw]

variable (hw : s.currentWord (task.word 0) = some (h, e))
include hw

theorem entryEditBody_damaged (hstatus : e.status = .damaged) :
    entryEditBody task held s = s.finish task held .entryDamaged [] := by
  simp only [entryEditBody, hw, hstatus, if_true]

variable (hstatus : e.status ≠ .damaged)
include hstatus

theorem entryEditBody_duplicate
    (hkey : editKey task e ≠ e.key ∧ s.keyHeld e.group (editKey task e) (some h.slot) = true) :
    entryEditBody task held s = s.finish task held .duplicateKey [] := by
  simp only [entryEditBody, hw, if_neg hstatus]
  exact if_pos hkey

variable (hkey : ¬(editKey task e ≠ e.key ∧ s.keyHeld e.group (editKey task e) (some h.slot) = true))
include hkey

theorem entryEditBody_conflict {other : ContenderOwner}
    (hcheck : s.editCheck h.slot e (editTolerance task e) = (u, .conflict other)) :
    entryEditBody task held s = u.finish task held .conflict (u.conflictResult other) := by
  simp only [entryEditBody, hw, if_neg hstatus, if_neg hkey, hcheck]

theorem entryEditBody_clear (hcheck : s.editCheck h.slot e (editTolerance task e) = (u, .clear)) :
    entryEditBody task held s = u.writeEdit task held h.slot := by
  simp only [entryEditBody, hw, if_neg hstatus, if_neg hkey, hcheck]

end

section
variable {s : State} {task : Task} {held : Bool} {slot : SlotNo} {e : Installed}

theorem State.writeEdit_damaged (he : s.installedAt slot = some e) (hstatus : e.status = .damaged) :
    s.writeEdit task held slot = s.finish task held .entryDamaged [] := by
  simp only [State.writeEdit, he, hstatus, if_true]

theorem State.writeEdit_written (he : s.installedAt slot = some e) (hstatus : e.status ≠ .damaged) :
    s.writeEdit task held slot =
      (s.setInstalled slot { e with key := editKey task e, tolerance := editTolerance task e }).finish task held .ok [] := by
  simp only [State.writeEdit, he, if_neg hstatus]

theorem State.editCheck_same {class_ : Fin 8} (h : class_ = e.tolerance) : s.editCheck slot e class_ = (s, .clear) :=
  if_pos h

theorem State.editCheck_changed {class_ : Fin 8} (h : class_ ≠ e.tolerance) : s.editCheck slot e class_ =
    conflictCheck (s.framesUnder slot class_) (s.conflictSet (ofSlot slot)) s := if_neg h

end

/-- Settles O46: the entry edit tests in order, and writes the key value and the class. -/
theorem entryEditTestsThenWrites : Obligations.EntryEditTestsThenWrites := by
  intro s task held hs served w
  have hexec : exec .entryEditStep s = .next (entryEditBody task held served) :=
    congrArg Host.Outcome.next (State.hostStep_of_atStep hs _)
  refine ⟨fun hw => hexec.trans (congrArg _ (entryEditBody_none (s := served) hw)), fun h e hw hstatus =>
    hexec.trans (congrArg _ (entryEditBody_damaged (s := served) hw hstatus)), ?_⟩
  intro h e key class_ hw hstatus hkeyeq hclass duplicate written
  obtain rfl : key = editKey task e := hkeyeq
  obtain rfl : class_ = editTolerance task e := hclass.trans (editTolerance_eq task e).symm
  have hduplicate : (editKey task e ≠ e.key ∧ served.keyHeld e.group (editKey task e) (some h.slot) = true) ↔ duplicate :=
    and_congr_right fun _ => State.keyHeld_some_iff ..
  have hwc : served.currentWord (task.word 0) = some (h, e) := hw
  refine ⟨fun hd => hexec.trans (congrArg _ (entryEditBody_duplicate hwc hstatus (hduplicate.2 hd))),
    fun hd hsame => ?_, fun u verdict hd hchanged hcheck => ?_⟩
  · have hclear := entryEditBody_clear (held := held) hwc hstatus (hduplicate.not.2 hd) (State.editCheck_same hsame)
    exact hexec.trans (congrArg _ (hclear.trans (State.writeEdit_written (State.currentWord_installedAt hwc) hstatus)))
  · rw [← State.editCheck_changed (s := served) hchanged] at hcheck
    refine ⟨fun other hv => ?_, fun e' hv he' hdamaged => ?_, fun hv he => ?_⟩
    · subst hv
      exact hexec.trans (congrArg _ (entryEditBody_conflict hwc hstatus (hduplicate.not.2 hd) hcheck))
    · subst hv
      have hclear := entryEditBody_clear (held := held) hwc hstatus (hduplicate.not.2 hd) hcheck
      exact hexec.trans (congrArg _ (hclear.trans (State.writeEdit_damaged he' hdamaged)))
    · subst hv
      have hclear := entryEditBody_clear (held := held) hwc hstatus (hduplicate.not.2 hd) hcheck
      exact hexec.trans (congrArg _ (hclear.trans (State.writeEdit_written he hstatus)))

/-! ## ENTRY READ and GROUP READ (R43, R186, R190) -/

theorem State.readPattern_succ (s : State) (ref : PatternRef) (chain : List CellNo) (n : Nat) :
    s.readPattern ref chain (n + 1) = State.readTableRun ref chain (s.readPattern ref chain n) (n + 1) := by
  rw [State.readPattern, List.range_succ, List.map_append, List.foldl_append]
  rfl

section
variable {ref : PatternRef} {chain : List CellNo} {acc : State × List Word} {k : Nat}

theorem State.readTableRun_value {d : Nat} (h : acc.1.pool.readRun chain k = .value d) :
    State.readTableRun ref chain acc k = (acc.1, acc.2 ++ [wordOf d]) := by
  simp only [State.readTableRun, h]

theorem State.readTableRun_unreadable {c : CellNo} (h : acc.1.pool.readRun chain k = .unreadable c) :
    State.readTableRun ref chain acc k = ((acc.1.recordFault c).damagePattern ref, acc.2 ++ [0]) := by
  simp only [State.readTableRun, h]

end

theorem patternReads : Clause.patternReads := by
  intro s ref chain
  refine ⟨rfl, fun n => ?_⟩
  intro u words
  refine ⟨fun d hread => ?_, fun c hread => ?_⟩
  · exact (s.readPattern_succ ref chain n).trans (State.readTableRun_value hread)
  · exact (s.readPattern_succ ref chain n).trans (State.readTableRun_unreadable hread)

/-- A pattern whose runs are all readable is read without a change. -/
theorem State.readPattern_readable {s : State} {chain : List CellNo} {values : List Nat}
    (h : ∀ k, (hk : k < values.length) → s.pool.readRun chain (k + 1) = .value values[k]) (ref : PatternRef) {n : Nat}
    (hn : n ≤ values.length) : s.readPattern ref chain n = (s, (values.take n).map (BitVec.ofNat 16)) := by
  induction n with
  | zero => rfl
  | succ n ih =>
    have hread := ih (Nat.le_of_succ_le hn)
    rw [State.readPattern_succ, hread, State.readTableRun_value (h n hn), List.take_succ_eq_append_getElem hn,
      List.map_append]
    rfl

theorem State.readPattern_all {s : State} {chain : List CellNo} {values : List Nat}
    (h : ∀ k, (hk : k < values.length) → s.pool.readRun chain (k + 1) = .value values[k]) (ref : PatternRef) :
    s.readPattern ref chain values.length = (s, values.map (BitVec.ofNat 16)) := by
  rw [State.readPattern_readable h ref le_rfl, List.take_length]

section
variable {s u : State} {task : Task} {held : Bool} {words : List Word}

theorem entryReadBody_none (hw : s.currentWord (task.word 0) = none) :
    entryReadBody task held s = s.finish task held .noSuchEntry [] := by
  simp only [entryReadBody, hw]

theorem entryReadBody_read {h : Handle} {e after : Installed} (hw : s.currentWord (task.word 0) = some (h, e))
    (hread : s.readFrames h.slot e = (u, words)) (hafter : u.installedAt h.slot = some after) :
    entryReadBody task held s = u.finish task held (if after.status = .damaged then .entryDamaged else .ok)
      (entryHeader after h.gen :: e.key :: wordOf e.runCount :: words) := by
  simp only [entryReadBody, hw, hread, hafter, Option.getD_some]

theorem groupReadBody_none (hg : s.groups[argGroup task.arg] = none) :
    groupReadBody task held s = s.finish task held .noSuchGroup [] := by
  simp only [groupReadBody, hg]

theorem groupReadBody_read {group after : Group} (hg : s.groups[argGroup task.arg] = some group)
    (hread : s.readRepeat (argGroup task.arg) group.repeatPattern = (u, words))
    (hafter : u.groups[argGroup task.arg] = some after) : groupReadBody task held s =
      u.finish task held .ok (groupHeader after :: settingsWords group.settings group.repeatPattern.isSome ++ words) := by
  simp only [groupReadBody, hg, hread, hafter, Option.getD_some]

end

/-- The reads of an entry: the main pattern, then the alternate. -/
theorem State.readFrames_none (s : State) (slot : SlotNo) {e : Installed} (h : e.alternate = none) :
    s.readFrames slot e = s.readPattern (.frame slot .main) e.main e.runCount := by
  simp only [State.readFrames, h]

theorem State.readFrames_some (s : State) (slot : SlotNo) {e : Installed} {chain : List CellNo} (h : e.alternate = some chain) :
    s.readFrames slot e =
      (((s.readPattern (.frame slot .main) e.main e.runCount).1.readPattern (.frame slot .alternate) chain e.runCount).1,
        (s.readPattern (.frame slot .main) e.main e.runCount).2 ++
          ((s.readPattern (.frame slot .main) e.main e.runCount).1.readPattern (.frame slot .alternate) chain e.runCount).2) := by
  simp only [State.readFrames, h]

theorem State.readRepeat_some (s : State) (g : GroupNo) (p : Pattern) : s.readRepeat g (some p) =
    ((s.readPattern (.ofGroup g) p.chain p.runCount).1,
      wordOf p.runCount :: (s.readPattern (.ofGroup g) p.chain p.runCount).2) := rfl

theorem readableReads : Clause.readableReads := by
  intro s task held served runs
  refine ⟨fun hs => ?_, fun hs => ?_⟩
  · have hexec : exec .entryReadStep s = .next (entryReadBody task held served) :=
      congrArg Host.Outcome.next (State.hostStep_of_atStep hs _)
    refine ⟨fun hw => hexec.trans (congrArg _ (entryReadBody_none (s := served) hw)), ?_⟩
    intro h e mains alternates hw hlength hmains halternates
    have hwc : served.currentWord (task.word 0) = some (h, e) := hw
    have hmain : ∀ ref, served.readPattern ref e.main e.runCount = (served, mains.map (BitVec.ofNat 16)) := fun ref => by
      rw [← hlength]
      exact State.readPattern_all (s := served) hmains ref
    have hread : served.readFrames h.slot e = (served, (mains ++ alternates).map (BitVec.ofNat 16)) := by
      cases halt : e.alternate with
      | none =>
        rw [halt] at halternates
        obtain rfl : alternates = [] := halternates
        rw [State.readFrames_none _ _ halt, hmain, List.append_nil]
      | some chain =>
        rw [halt] at halternates
        obtain ⟨hlen, hruns⟩ : alternates.length = e.runCount ∧ runs chain alternates := halternates
        have hsecond := State.readPattern_all (s := served) hruns (.frame h.slot .alternate)
        rw [State.readFrames_some _ _ halt, hmain, ← hlen, hsecond, List.map_append]
    exact hexec.trans (congrArg _ (entryReadBody_read hwc hread (State.currentWord_installedAt hwc)))
  · intro g
    have hexec : exec .groupReadStep s = .next (groupReadBody task held served) :=
      congrArg Host.Outcome.next (State.hostStep_of_atStep hs _)
    refine ⟨fun hg => hexec.trans (congrArg _ (groupReadBody_none (s := served) hg)), fun group hg hnone => ?_,
      fun group n chain values hg hp hlength hruns => ?_⟩
    · have hread : served.readRepeat g group.repeatPattern = (served, []) := by rw [hnone]; rfl
      refine hexec.trans (congrArg _ ((groupReadBody_read (s := served) hg hread hg).trans ?_))
      rw [groupHeader, hnone]
      rfl
    · have hread : served.readRepeat g group.repeatPattern =
          (served, wordOf n :: values.map (BitVec.ofNat 16)) := by
        rw [hp, State.readRepeat_some, ← hlength]
        have hpattern := State.readPattern_all (s := served) hruns (.ofGroup g)
        rw [hpattern]
      refine hexec.trans (congrArg _ ((groupReadBody_read (s := served) hg hread hg).trans ?_))
      rw [groupHeader, hp]
      rfl

/-- Marks of damage leave the settings of an entry. -/
theorem State.Marked.installedAt {s t : State} (h : s.Marked t) {slot : SlotNo} {e : Installed}
    (he : s.installedAt slot = some e) : ∃ after, t.installedAt slot = some after ∧
      after = { e with
        status := after.status, mainDamaged := after.mainDamaged, alternateDamaged := after.alternateDamaged } := by
  have hocc := State.installedAt_eq_some.1 he
  rcases h.entry slot with hsame | ⟨e', m, a, he', hmarked⟩
  · exact ⟨e, State.installedAt_eq_some.2 (by rw [hsame]; exact hocc), rfl⟩
  · cases hocc.symm.trans he'
    exact ⟨_, State.installedAt_eq_some.2 (by rw [hmarked]), rfl⟩

/-- The header after marks of damage shows the other fields as they were. -/
theorem entryHeader_marked {e after : Installed} (gen : Fin 16) (h : after = { e with
    status := after.status, mainDamaged := after.mainDamaged, alternateDamaged := after.alternateDamaged }) :
    entryHeader after gen = BitVec.ofNat 16 (after.status.field * 2 ^ 14 + (if e.alternate.isSome then 2 ^ 13 else 0)
      + (if after.mainDamaged then 2 ^ 12 else 0) + (if after.alternateDamaged then 2 ^ 11 else 0)
      + e.tolerance.val * 2 ^ 8 + e.group.val * 2 ^ 4 + gen.val) := by
  have halternate : after.alternate = e.alternate := by rw [h]
  have htolerance : after.tolerance = e.tolerance := by rw [h]
  have hgroup : after.group = e.group := by rw [h]
  rw [entryHeader, halternate, htolerance, hgroup]
  rfl

theorem faultedReads : Clause.faultedReads := by
  intro s task held served
  refine ⟨fun hs h e hw => ?_, fun hs => ?_⟩
  · intro first whole
    have hwc : served.currentWord (task.word 0) = some (h, e) := hw
    have hread : served.readFrames h.slot e = whole := by
      cases halt : e.alternate with
      | none =>
        rw [State.readFrames_none _ _ halt]
        simp only [whole, halt]
        rfl
      | some chain =>
        rw [State.readFrames_some _ _ halt]
        simp only [whole, halt]
        rfl
    have hmarked : served.Marked whole.1 := hread ▸ served.readFrames_marked h.slot e
    obtain ⟨after, hafter, hkept⟩ := hmarked.installedAt (State.currentWord_installedAt hwc)
    refine ⟨after, hafter, ?_⟩
    rw [← entryHeader_marked h.gen hkept]
    exact (congrArg Host.Outcome.next (State.hostStep_of_atStep hs _)).trans
      (congrArg _ (entryReadBody_read hwc hread hafter))
  · intro g group n chain hg hp whole
    have hread : served.readRepeat g group.repeatPattern = (whole.1, wordOf n :: whole.2) := by
      rw [hp, State.readRepeat_some]
    have hmarked : served.Marked whole.1 := served.readPattern_marked (.ofGroup g) chain n
    have hafter : ∃ after, whole.1.groups[g] = some after ∧ after.repeatPattern = group.repeatPattern ∧
        after.entryCount = group.entryCount := by
      rcases hmarked.group g with hsame | ⟨x, hx, hmark⟩
      · exact ⟨group, hsame.trans hg, rfl, rfl⟩
      · cases hg.symm.trans hx
        exact ⟨_, hmark, rfl, rfl⟩
    obtain ⟨after, hafter, hpattern, hcount⟩ := hafter
    refine ⟨after, hafter, (congrArg Host.Outcome.next (State.hostStep_of_atStep hs _)).trans (congrArg _
      ((groupReadBody_read (s := served) hg hread hafter).trans ?_))⟩
    rw [groupHeader, hpattern, hcount, hp]
    rfl

/-- Settles O48: the reads of the table return what is stored, and mark a faulted run. -/
theorem readStepsReturnWhatIsStored : Obligations.ReadStepsReturnWhatIsStored :=
  ⟨readableReads, patternReads, faultedReads⟩

/-! ## ENTRY FIND, ENTRY LIST and TABLE STATUS (R44, R182, R191) -/

theorem toList_eq_map_finRange {α : Type} {n : Nat} (v : Vector α n) : v.toList = (List.finRange n).map fun i => v[i] := by
  refine List.ext_getElem (by simp) fun i h1 h2 => ?_
  simp

/-- The count of the elements of a vector that fulfil a property is that of their places. -/
theorem countP_toList {α : Type} {n : Nat} (v : Vector α n) (p : α → Bool) :
    v.toList.countP p = (List.finRange n).countP fun i => p v[i] := by
  rw [toList_eq_map_finRange, List.countP_map]
  rfl

section
variable {s : State} {g : GroupNo} {key : Word} {slot : SlotNo} {e : Installed}

/-- A slot is found exactly by its entry's group and key value. -/
theorem State.findKey_eq (s : State) (g : GroupNo) (key : Word) : s.findKey g key =
    (List.finRange 128).find? fun slot => match s.installedAt slot with
      | some e => decide (e.group = g ∧ e.key = key)
      | none => false := by
  rw [State.findKey, State.slotsOfGroup, List.find?_filter]
  congr 1
  funext slot
  cases s.installedAt slot <;> simp

theorem State.findKey_some (he : s.installedAt slot = some e) (hg : e.group = g) (hk : e.key = key)
    (hone : ∀ other e', s.installedAt other = some e' → e'.group = g → e'.key = key → other = slot) :
    s.findKey g key = some slot := by
  rw [State.findKey_eq, find?_finRange_eq_some]
  refine ⟨by simp [he, hg, hk], fun other hlt => ?_⟩
  cases hother : s.installedAt other with
  | none => rfl
  | some e' => exact decide_eq_false fun hboth => hlt.ne (hone other e' hother hboth.1 hboth.2)

theorem State.findKey_none (h : ∀ slot e, s.installedAt slot = some e → ¬(e.group = g ∧ e.key = key)) :
    s.findKey g key = none := by
  rw [State.findKey_eq, find?_finRange_eq_none]
  intro slot
  cases hslot : s.installedAt slot with
  | none => rfl
  | some e => exact decide_eq_false (h slot e hslot)

/-- The slots of a group, in order. -/
theorem State.slotsOfGroup_sorted (s : State) (g : GroupNo) : (s.slotsOfGroup g).Pairwise (· < ·) :=
  (List.pairwise_lt_finRange 128).filter _

theorem State.mem_slotsOfGroup : slot ∈ s.slotsOfGroup g ↔ ∃ e, s.installedAt slot = some e ∧ e.group = g := by
  rw [State.slotsOfGroup, List.mem_filter]
  cases s.installedAt slot <;> simp

end

/-- Two sorted lists of the same numbers are the same. -/
theorem eq_of_sorted {n : Nat} {a b : List (Fin n)} (ha : a.Pairwise (· < ·)) (hb : b.Pairwise (· < ·))
    (h : ∀ i, i ∈ a ↔ i ∈ b) : a = b :=
  ((List.perm_ext_iff_of_nodup (ha.imp fun hlt => hlt.ne) (hb.imp fun hlt => hlt.ne)).2 h).eq_of_pairwise
    (fun _ _ _ _ hxy hyx => absurd hxy hyx.asymm) ha hb

section
variable {s : State} {task : Task} {held : Bool}

theorem entryFindBody_noSuchGroup (hg : s.groups[argGroup task.arg] = none) :
    entryFindBody task held s = s.finish task held .noSuchGroup [] := by
  simp only [entryFindBody, hg, Option.isNone_none, if_true]

theorem entryFindBody_some {slot : SlotNo} (hg : s.groups[argGroup task.arg] ≠ none)
    (h : s.findKey (argGroup task.arg) (task.word 0) = some slot) :
    entryFindBody task held s = s.finish task held .ok [(s.handleOf slot).toWord] := by
  simp only [entryFindBody, isNone_of_ne_none hg, h]
  rfl

theorem entryFindBody_none (hg : s.groups[argGroup task.arg] ≠ none)
    (h : s.findKey (argGroup task.arg) (task.word 0) = none) :
    entryFindBody task held s = s.finish task held .noSuchEntry [0xFFFF] := by
  simp only [entryFindBody, isNone_of_ne_none hg, h]
  rfl

theorem entryListBody_noSuchGroup (hg : s.groups[argGroup task.arg] = none) :
    entryListBody task held s = s.finish task held .noSuchGroup [] := by
  simp only [entryListBody, hg, Option.isNone_none, if_true]

theorem entryListBody_list (hg : s.groups[argGroup task.arg] ≠ none) : entryListBody task held s =
    s.finish task held .ok (wordOf (s.slotsOfGroup (argGroup task.arg)).length ::
      (s.slotsOfGroup (argGroup task.arg)).map fun slot => (s.handleOf slot).toWord) := by
  simp only [entryListBody, isNone_of_ne_none hg, List.length_map]
  rfl

end

theorem Pool.count_eq (p : Pool) (k : CellCondition) :
    p.count k = (List.finRange 768).countP fun c : CellNo => decide (p.cells[c].condition = k) := by
  rw [Pool.count, countP_toList]
  refine List.countP_congr fun c _ => ?_
  rw [beq_iff_eq, decide_eq_true_iff]

theorem State.countStatus_eq (s : State) (status : EntryStatus) : s.countStatus status =
    (List.finRange 128).countP fun slot : SlotNo => match s.entries[slot].occupant with
      | .installed e => decide (e.status = status)
      | _ => false := by
  rw [State.countStatus, countP_toList]
  refine List.countP_congr fun slot _ => ?_
  cases s.entries[slot].occupant <;> rfl

theorem State.countFreeEntries_eq (s : State) : s.countFreeEntries =
    (List.finRange 128).countP fun slot : SlotNo => decide (s.entries[slot].occupant = .free) :=
  countP_toList s.entries fun e => decide (e.occupant = .free)

theorem State.countRepeatDamaged_eq (s : State) : s.countRepeatDamaged =
    (List.finRange 16).countP fun g : GroupNo => match s.groups[g] with
      | some group => group.repeatDamaged
      | none => false :=
  countP_toList s.groups fun g => match g with
    | some group => group.repeatDamaged
    | none => false

/-- Settles O49: ENTRY FIND, ENTRY LIST and TABLE STATUS answer from the table. -/
theorem findListAndStatusChangeNoRecord : Obligations.FindListAndStatusChangeNoRecord := by
  intro s task held g served handle
  refine ⟨fun hs => ?_, fun hs => ?_, fun hs => ?_⟩
  · have hexec : exec .entryFindStep s = .next (entryFindBody task held served) :=
      congrArg Host.Outcome.next (State.hostStep_of_atStep hs _)
    exact ⟨fun hg => hexec.trans (congrArg _ (entryFindBody_noSuchGroup (s := served) hg)),
      fun slot e hg he hgroup hkey hone => hexec.trans (congrArg _ (entryFindBody_some (s := served) hg
        (State.findKey_some (s := served) he hgroup hkey hone))),
      fun hg hnone => hexec.trans (congrArg _ (entryFindBody_none (s := served) hg
        (State.findKey_none (s := served) hnone)))⟩
  · have hexec : exec .entryListStep s = .next (entryListBody task held served) :=
      congrArg Host.Outcome.next (State.hostStep_of_atStep hs _)
    refine ⟨fun hg => hexec.trans (congrArg _ (entryListBody_noSuchGroup (s := served) hg)),
      fun slots hg hsorted hmem => hexec.trans (congrArg _ ((entryListBody_list (s := served) hg).trans ?_))⟩
    have hslots : served.slotsOfGroup g = slots := eq_of_sorted (served.slotsOfGroup_sorted g) hsorted fun slot =>
      (State.mem_slotsOfGroup (s := served)).trans (hmem slot).symm
    rw [hslots]
    rfl
  · intro cells entries inState
    refine (congrArg Host.Outcome.next (State.hostStep_of_atStep hs _)).trans (congrArg (fun words =>
      Host.Outcome.next (State.finish { served with
        port := { s.port with attention := { s.port.attention with table := false } } } task held .ok words)) ?_)
    simp only [State.tableStatusWords, Pool.count_eq, State.countStatus_eq, State.countFreeEntries_eq,
      State.countRepeatDamaged_eq] <;> rfl

/-! ## The handle check (R125, R136, R195, R198) -/

section
variable {s : State} {task : Task} {held later : Bool}

theorem handleCheckBody_fails {outcome : HostOutcome} (h : s.handleFailure task = some outcome) :
    handleCheckBody later task held s = s.finish task held outcome [] := by
  simp only [handleCheckBody, h]

theorem handleCheckBody_passes (h : s.handleFailure task = none) :
    handleCheckBody later task held s = if later then s else handleRequest task held s := by
  simp only [handleCheckBody, h]

/-- RELAY SET wants both handles current. -/
theorem State.handleFailure_ofRelaySet (s : State) (h : task.command = .relaySet) : s.handleFailure task =
    if s.currentWord (task.word 0) = none ∨ s.currentWord (task.word 1) = none then some .noSuchEntry else none := by
  simp only [State.handleFailure, h]
  cases s.currentWord (task.word 0) <;> cases s.currentWord (task.word 1) <;> rfl

/-- SEND and HOLD START want the handle current and the entry not DAMAGED. -/
theorem State.handleFailure_offer (s : State) (h : task.command = .send ∨ task.command = .holdStart) :
    s.handleFailure task = match s.currentWord (task.word 0) with
      | none => some .noSuchEntry
      | some (_, e) => if e.status = .damaged then some .entryDamaged else none := by
  rcases h with h | h <;> simp only [State.handleFailure, h] <;> rfl

end

/-- Settles O50: the handle check refuses the command, or lets its request through. -/
theorem handleChecksGuardTheRequests : Obligations.HandleChecksGuardTheRequests := by
  intro s task held later hs served fails passes
  have hexec : exec (.handleCheck later) s = .next (handleCheckBody later task held served) :=
    congrArg Host.Outcome.next (State.hostStep_of_atStep hs _)
  have hrequests : ∀ {i : Instr} {c : HostCommand} {work : Task → Bool → State → State},
      requestOf i = some (c, .request, work) → task.command = c → handleRequest task held served = work task held served →
      served.handleFailure task = none → passes i := fun {i c work} hi hc hwork hpass => by
    have hpasses := handleCheckBody_passes (later := later) (held := held) hpass
    refine ⟨fun hlater => ?_, fun hnow => ?_⟩
    · rw [hexec, hpasses, if_pos hlater]
    · rw [hexec, hpasses, if_neg (by rw [hnow]; simp), hwork]
      exact (exec_atRequest (s := served) hi ⟨hs.2.2, hc, rfl⟩).symm
  refine ⟨fun hc => ⟨fun hnone => hexec.trans (congrArg _ (handleCheckBody_fails ?_)), fun hsource htarget =>
    hrequests (c := .relaySet) rfl hc ?_ ?_⟩, fun request hrequest => ?_⟩
  · exact (served.handleFailure_ofRelaySet hc).trans (if_pos hnone)
  · simp only [handleRequest, hc]
  · exact (served.handleFailure_ofRelaySet hc).trans (if_neg fun h => h.elim hsource htarget)
  · have hoffer := served.handleFailure_offer (hrequest.imp And.left And.left)
    refine ⟨fun hnone => hexec.trans (congrArg _ (handleCheckBody_fails ?_)), fun h e he hdamaged =>
      hexec.trans (congrArg _ (handleCheckBody_fails ?_)), fun h e he hsound => ?_⟩
    · rw [hoffer, show served.currentWord (task.word 0) = none from hnone]
    · rw [hoffer, show served.currentWord (task.word 0) = some (h, e) from he]
      exact if_pos hdamaged
    · have hpass : served.handleFailure task = none := by
        rw [hoffer, show served.currentWord (task.word 0) = some (h, e) from he]
        exact if_neg hsound
      rcases hrequest with ⟨hc, rfl⟩ | ⟨hc, rfl⟩
      · exact hrequests (c := .send) rfl hc (by simp only [handleRequest, hc]) hpass
      · exact hrequests (c := .holdStart) rfl hc (by simp only [handleRequest, hc]) hpass

end Sys2Proof.Machine
end

section
/-! SUPPORT. The host port: COMMAND, TRANSFER and CONTROL writes, TRANSFER reads, and the transfer timer (R164, R165, R169
to R175). -/

namespace Sys2Proof.Machine

/-! ## The end of a write frame (R159, R178) -/

/-- The state at the end of a frame, MISO showing `miso`. -/
def State.frameOver (s : State) (miso : Word) : State := { s with port := { s.port with spi := .none, miso := miso } }

/-- A frame that no reset has made void has its effect. -/
theorem State.writeFrame_stands {s : State} {address : BitVec 8} {w : Word} (h : s.FrameStands address w) :
    ∃ miso, ∀ effect : State → State, s.writeFrame address w effect = effect (s.frameOver miso) := by
  unfold State.writeFrame State.frameEnd
  cases hspi : s.port.spi with
  | none => exact ⟨s.captureWord address, fun effect => rfl⟩
  | frame f =>
    cases hfits : f.fits address w with
    | false =>
      refine ⟨s.captureWord address, fun effect => ?_⟩
      simp only [hfits, Bool.false_eq_true, if_false]
      rfl
    | true =>
      have hvoid : f.void = false := h f hspi hfits
      by_cases hclocks : 8 ≤ f.clocks
      · refine ⟨s.port.miso, fun effect => ?_⟩
        simp only [hfits, hvoid, if_true, Bool.false_eq_true, if_false, hclocks]
        rfl
      · refine ⟨s.captureWord address, fun effect => ?_⟩
        simp only [hfits, hvoid, if_true, Bool.false_eq_true, if_false, hclocks]
        rfl

/-! ## COMMAND writes (R164, R169, R171, R176, R179) -/

theorem commandOfCode_code (c : HostCommand) : commandOfCode c.code = some c := by
  cases c <;> rfl

theorem commandOfCode_none {code : BitVec 8} (h : ∀ c : HostCommand, c.code ≠ code) : commandOfCode code = none :=
  List.find?_eq_none.2 fun c _ => by simpa using h c

theorem exec_writeRow (c : HostCommand) (arg : BitVec 8) (s : State) :
    exec (c.writeRow arg) s = .next (s.commandWrite c.code arg) := by
  cases c <;> rfl

section
variable {s : State} {code arg : BitVec 8}

/-- A COMMAND write is taken when READY is 1 and BUSY 0. -/
theorem State.commandWrite_taken (hready : s.port.ready = true) (hbusy : s.port.engine.busy = false)
    (hframe : s.FrameStands (addressByte false 0) (code ++ arg)) :
    ∃ miso, s.commandWrite code arg = (s.frameOver miso).takeCommand code arg := by
  obtain ⟨miso, hmiso⟩ := State.writeFrame_stands hframe
  have hfree : (s.port.ready && !s.port.engine.busy) = true := by rw [hready, hbusy]; rfl
  exact ⟨miso, (hmiso _).trans (if_pos hfree)⟩

/-- A COMMAND write is refused when READY is 0 or BUSY 1. -/
theorem State.commandWrite_collides (h : s.port.ready = false ∨ s.port.engine.busy = true)
    (hframe : s.FrameStands (addressByte false 0) (code ++ arg)) :
    ∃ miso, s.commandWrite code arg = (s.frameOver miso).collide := by
  obtain ⟨miso, hmiso⟩ := State.writeFrame_stands hframe
  have hblocked : ¬(s.port.ready && !s.port.engine.busy) = true := by
    rcases h with h | h <;> simp [h]
  exact ⟨miso, (hmiso _).trans (if_neg hblocked)⟩

/-- DONE and FAULT are cleared when a command is taken. -/
def State.flagsCleared (s : State) : State := s.setPort { s.port with done := false, fault := false }

theorem State.takeCommand_unknown (h : commandOfCode code = none) :
    s.takeCommand code arg = s.flagsCleared.endCode code false .badCommand := by
  simp only [State.takeCommand, h]
  rfl

theorem State.takeCommand_known (s : State) (c : HostCommand) (arg : BitVec 8) : s.takeCommand c.code arg =
    if argAccepted c arg then
      if hasParameters c then s.flagsCleared.requestWord { command := c, arg := arg, words := [] }
      else s.flagsCleared.enterExecute { command := c, arg := arg, words := [] }
    else s.flagsCleared.endCode c.code false .badParameter := by
  simp only [State.takeCommand, commandOfCode_code]
  rfl

end

theorem State.enterExecute_eq (s : State) (task : Task) : s.enterExecute task = { s with
    port := { s.port with engine := .execute task false }
    claims := { s.claims with host := match executeStep task.command with
      | some h => some h
      | none => s.claims.host } } := by
  unfold State.enterExecute
  cases executeStep task.command <;> rfl

theorem commandWrites : Clause.commandWrites := by
  intro c arg s hready hbusy hframe
  obtain ⟨miso, hmiso⟩ := State.commandWrite_taken hready hbusy hframe
  have hexec : exec (c.writeRow arg) s = .next ((s.frameOver miso).takeCommand c.code arg) :=
    (exec_writeRow c arg s).trans (congrArg _ hmiso)
  rw [State.takeCommand_known, State.enterExecute_eq] at hexec
  cases hargument : argAccepted c arg with
  | false =>
    rw [hargument] at hexec
    exact ⟨_, hexec, rfl, fun _ => ⟨rfl, rfl⟩, nofun⟩
  | true =>
    cases hparameters : hasParameters c with
    | true =>
      rw [hargument, hparameters] at hexec
      exact ⟨_, hexec, rfl, nofun, fun _ => ⟨rfl, fun _ => ⟨rfl, rfl⟩, nofun⟩⟩
    | false =>
      rw [hargument, hparameters] at hexec
      exact ⟨_, hexec, rfl, nofun, fun _ => ⟨rfl, nofun, fun _ => ⟨rfl, rfl⟩⟩⟩

theorem commandTable : Clause.commandTable := by
  intro c
  cases c <;> decide

theorem immediateArguments : Clause.immediateArguments := by
  intro c arg
  cases c <;> simp [argAccepted]

/-- Settles O19: a COMMAND write of each of the 28 commands is taken. -/
theorem commandWriteIsTaken : Obligations.CommandWriteIsTaken := ⟨commandWrites, commandTable, immediateArguments⟩

theorem unknownCodes : Clause.unknownCodes := by
  intro code arg s hunknown hready hbusy hframe
  obtain ⟨miso, hmiso⟩ := State.commandWrite_taken hready hbusy hframe
  have hexec : exec (.badCommand code arg) s = .next ((s.frameOver miso).takeCommand code arg) := congrArg _ hmiso
  rw [State.takeCommand_unknown (commandOfCode_none hunknown)] at hexec
  exact ⟨_, hexec, rfl, rfl⟩

theorem commandCollisions : Clause.commandCollisions := by
  intro i s code arg hi hblocked hframe
  have hexec : exec i s = .next (s.commandWrite code arg) := by
    rcases hi with ⟨c, rfl, rfl⟩ | rfl
    · exact exec_writeRow c arg s
    · rfl
  obtain ⟨miso, hmiso⟩ := State.commandWrite_collides hblocked hframe
  exact ⟨_, hexec.trans (congrArg _ hmiso), rfl, rfl⟩

/-- Settles O20: a COMMAND write that is not taken as a command. -/
theorem commandWriteRefusals : Obligations.CommandWriteRefusals := ⟨unknownCodes, commandCollisions⟩

/-! ## The end of a command (R29, R171, R172, R174, R175) -/

/-- Settles O26: the last step ends the command, or offers its first result word. -/
theorem lastStepEndsTheCommand : Obligations.LastStepEndsTheCommand := by
  intro s task held outcome results
  refine ⟨fun h => ?_, fun w ws hresults hheld => ?_⟩
  · cases results with
    | nil => rfl
    | cons w ws =>
      have hheld : held = true := h.resolve_left nofun
      rw [State.finish, if_pos hheld]
      rfl
  · rw [hresults, hheld]
    rfl

/-- A command that ends with any other outcome than OK sets FAULT. -/
theorem State.endTask_failed (s : State) (task : Task) (cut : Bool) {outcome : HostOutcome} (h : outcome ≠ .ok) :
    s.endTask task cut outcome = s.setPort { s.port with
      completion := { code := task.command.code, cut := cut, outcome := outcome }
      engine := .idle, done := true, fault := true } := by
  unfold State.endTask State.endCode
  rw [decide_eq_true h, Bool.or_true]

theorem State.endOrCleanUp_free {s : State} (h : s.pool.reservation = []) (task : Task) (outcome : HostOutcome) :
    s.endOrCleanUp task outcome = s.endTask task false outcome := by
  rw [State.endOrCleanUp, h]
  rfl

theorem State.endOrCleanUp_reserved {s : State} (h : s.pool.reservation ≠ []) (task : Task) (outcome : HostOutcome) :
    s.endOrCleanUp task outcome = s.enterCleanup task outcome :=
  if_neg fun hempty => h (List.isEmpty_iff.1 hempty)

theorem exec_transferTimeout (t : Time) (s : State) :
    exec (.transferTimeout t) s = .next (s.advanceTo t).transferExpiry := rfl

section
variable {s : State} {task : Task} {since : Time}

theorem State.transferExpiry_word (h : s.port.engine = .parameter task (.word since)) : s.transferExpiry =
    if since + 50000 ≤ s.timebase then s.endOrCleanUp task .xferTimeout else s := by
  simp only [State.transferExpiry, h]
  rfl

theorem State.transferExpiry_result {outcome : HostOutcome} {v : Word} {rest : List Word}
    (h : s.port.engine = .result task outcome v rest since) : s.transferExpiry =
    if since + 50000 ≤ s.timebase then s.endTask task true outcome else s := by
  simp only [State.transferExpiry, h]
  rfl

/-- Nothing expires before the time, and while no word is requested. -/
theorem State.transferExpiry_none
    (hword : ∀ task since, s.port.engine = .parameter task (.word since) → s.timebase < since + 50000)
    (hresult : ∀ task outcome v rest since, s.port.engine = .result task outcome v rest since →
      s.timebase < since + 50000) : s.transferExpiry = s := by
  cases hengine : s.port.engine with
  | parameter task wait =>
    cases wait with
    | word since => rw [State.transferExpiry_word hengine, if_neg (Nat.not_le.2 (hword task since hengine))]
    | step => simp only [State.transferExpiry, hengine]
  | result task outcome v rest since =>
    rw [State.transferExpiry_result hengine, if_neg (Nat.not_le.2 (hresult task outcome v rest since hengine))]
  | testing | idle | execute | cleanup => simp only [State.transferExpiry, hengine]

end

/-- Settles O25: the transfer timer expires 50 ms after the request, and not before. -/
theorem transferTimerExpires : Obligations.TransferTimerExpires := by
  intro t s
  refine ⟨fun task since hengine hdue => ?_, fun task outcome v rest since hengine hdue => ?_, fun hword hresult =>
    congrArg Host.Outcome.next (State.transferExpiry_none (s := s.advanceTo t) hword hresult)⟩
  · have hexpiry : (s.advanceTo t).transferExpiry = (s.advanceTo t).endOrCleanUp task .xferTimeout :=
      (State.transferExpiry_word (s := s.advanceTo t) hengine).trans (if_pos hdue)
    have hexec : exec (.transferTimeout t) s = _ := congrArg Host.Outcome.next hexpiry
    by_cases hfree : s.pool.reservation = []
    · rw [State.endOrCleanUp_free (s := s.advanceTo t) hfree, State.endTask_failed _ _ _ (by simp)] at hexec
      exact ⟨_, hexec, rfl, fun _ => ⟨rfl, rfl⟩, fun hreserved => absurd hfree hreserved⟩
    · rw [State.endOrCleanUp_reserved (s := s.advanceTo t) hfree] at hexec
      exact ⟨_, hexec, rfl, fun h => absurd h hfree, fun _ => ⟨rfl, rfl⟩⟩
  · exact congrArg Host.Outcome.next ((State.transferExpiry_result (s := s.advanceTo t) hengine).trans (if_pos hdue))

/-! ## TRANSFER reads (R164, R172, R173) -/

theorem State.transferRead_of {s u : State} {w : Word} {offered : Bool}
    (h : s.frameEnd (addressByte true 1) 0 = (some (w, offered), u)) :
    s.transferRead = if offered then u.takeResult else u.collide := by
  cases offered <;> simp only [State.transferRead, h] <;> rfl

section
variable {s : State} {f : SpiShift}

theorem exec_transferRead_offered (h : s.Captured (addressByte true 1) f) (hoffered : f.offered = true) :
    exec .transferRead s = .next (s.setSpi .none).takeResult := by
  refine congrArg Host.Outcome.next ((State.transferRead_of (State.frameEnd_of_captured 0 rfl h)).trans ?_)
  exact if_pos hoffered

theorem exec_transferRead_empty (h : s.Captured (addressByte true 1) f) (hoffered : f.offered = false) :
    exec .transferRead s = .next (s.setSpi .none).collide := by
  refine congrArg Host.Outcome.next ((State.transferRead_of (State.frameEnd_of_captured 0 rfl h)).trans ?_)
  exact if_neg (by rw [hoffered]; simp)

end

theorem State.takeResult_noOffer {s : State} (h : s.port.engine.xdir = false) : s.takeResult = s := by
  unfold State.takeResult
  split
  · rename_i hengine
    rw [hengine] at h
    cases h
  · rename_i hengine
    rw [hengine] at h
    cases h
  all_goals rfl

theorem transferReads : Clause.transferReads := by
  intro f s hcaptured hoffered
  have hexec := exec_transferRead_offered hcaptured hoffered
  refine ⟨fun task outcome v since hengine => hexec.trans (congrArg _ ?_), fun task outcome v x xs since hengine =>
    hexec.trans (congrArg _ ?_), fun hnone => hexec.trans (congrArg _ (State.takeResult_noOffer (s := s.setSpi .none) hnone))⟩
  · have hspi : (s.setSpi .none).port.engine = .result task outcome v [] since := hengine
    simp only [State.takeResult, hspi]
    rfl
  · have hspi : (s.setSpi .none).port.engine = .result task outcome v (x :: xs) since := hengine
    simp only [State.takeResult, hspi]
    rfl

/-- A TRANSFER write with no word awaited. -/
theorem State.transferWrite_collides {s : State} {w : Word} (h : ∀ task since, s.port.engine ≠ .parameter task (.word since))
    (hframe : s.FrameStands (addressByte false 1) w) : ∃ miso, s.transferWrite w = (s.frameOver miso).collide := by
  obtain ⟨miso, hmiso⟩ := State.writeFrame_stands hframe
  refine ⟨miso, (hmiso _).trans ?_⟩
  split
  · exact absurd ‹_› (h _ _)
  all_goals rfl

theorem transferCollisions : Clause.transferCollisions := by
  intro s
  refine ⟨fun w hnone hframe => ?_, fun f hcaptured hoffered => exec_transferRead_empty hcaptured hoffered⟩
  obtain ⟨miso, hmiso⟩ := State.transferWrite_collides hnone hframe
  exact ⟨_, congrArg Host.Outcome.next hmiso, rfl⟩

/-- Settles O22: TRANSFER reads, and the TRANSFER accesses that collide. -/
theorem transferReadsAndCollisions : Obligations.TransferReadsAndCollisions := ⟨transferReads, transferCollisions⟩

/-! ## CONTROL writes (R165, R175) -/

theorem State.controlWrite_stands {s : State} {w : Word} (h : s.FrameStands (addressByte false 2) w) :
    ∃ miso, s.controlWrite w = if w.getLsbD 15 then
        State.abortCommand ((s.frameOver miso).setPort { (s.frameOver miso).port with enables := w.extractLsb' 0 4 })
      else (s.frameOver miso).setPort { (s.frameOver miso).port with enables := w.extractLsb' 0 4 } := by
  obtain ⟨miso, hmiso⟩ := State.writeFrame_stands h
  exact ⟨miso, hmiso _⟩

/-- What ABORT does, by the state of the engine. -/
def State.Aborted (s t : State) : Prop :=
  match s.port.engine with
  | .testing | .idle | .cleanup _ _ => t = s
  | .parameter task (.word _) =>
    (s.pool.reservation = [] → t = s.setPort { s.port with
      engine := .idle, done := true, fault := true
      completion := { code := task.command.code, cut := false, outcome := .aborted } }) ∧
    (s.pool.reservation ≠ [] → t = { s with
      port := { s.port with engine := .cleanup task .aborted }, claims := { s.claims with host := some .cleanUp } })
  | .parameter task (.step _) => t = s.setPort { s.port with engine := .parameter task (.step true) }
  | .execute task _ => t = s.setPort { s.port with engine := .execute task true }
  | .result task outcome _ _ _ => t = s.setPort { s.port with
      engine := .idle, done := true, fault := s.port.fault || decide (outcome ≠ .ok)
      completion := { code := task.command.code, cut := true, outcome := outcome } }

theorem State.abortCommand_aborted (s : State) : s.Aborted s.abortCommand := by
  unfold State.Aborted
  cases hengine : s.port.engine with
  | parameter task wait =>
    cases wait with
    | word since =>
      have habort : s.abortCommand = s.endOrCleanUp task .aborted := by simp only [State.abortCommand, hengine]
      refine ⟨fun hfree => ?_, fun hreserved => ?_⟩
      · rw [habort, State.endOrCleanUp_free hfree, State.endTask_failed _ _ _ (by simp)]
      · rw [habort, State.endOrCleanUp_reserved hreserved]
        rfl
    | step => simp only [State.abortCommand, hengine] <;> rfl
  | testing | idle | execute | result | cleanup => simp only [State.abortCommand, hengine] <;> rfl

/-- Settles O23: a CONTROL write sets the enables, and aborts by the state of the engine. -/
theorem controlWriteSetsEnablesAndAborts : Obligations.ControlWriteSetsEnablesAndAborts := by
  intro w s hframe i hi
  have hexec : exec i s = .next (s.controlWrite w) := by rcases hi with rfl | rfl <;> rfl
  obtain ⟨miso, hmiso⟩ := State.controlWrite_stands hframe
  cases habort : w.getLsbD 15 with
  | false =>
    rw [habort] at hmiso
    exact ⟨_, hexec.trans (congrArg _ hmiso), rfl, rfl, fun _ => rfl, nofun⟩
  | true =>
    rw [habort, if_pos rfl] at hmiso
    generalize hu : (s.frameOver miso).setPort { (s.frameOver miso).port with enables := w.extractLsb' 0 4 } = u at hmiso
    have haborted := u.abortCommand_aborted
    have hengine : u.port.engine = s.port.engine := by rw [← hu]; rfl
    unfold State.Aborted at haborted
    rw [hengine] at haborted
    refine ⟨_, hexec.trans (congrArg _ hmiso), ?_⟩
    cases he : s.port.engine with
    | parameter task wait =>
      rw [he] at haborted
      cases wait with
      | word since =>
        by_cases hfree : s.pool.reservation = []
        · have ht : u.abortCommand = _ := haborted.1 (by rw [← hu]; exact hfree)
          subst hu
          rw [ht]
          refine ⟨rfl, rfl, nofun, fun _ => ⟨rfl, rfl, ?_⟩⟩
          show if s.pool.reservation = [] then _ else _
          rw [if_pos hfree]
          exact ⟨rfl, rfl, rfl, rfl, rfl⟩
        · have ht : u.abortCommand = _ := haborted.2 (by rw [← hu]; exact hfree)
          subst hu
          rw [ht]
          refine ⟨rfl, rfl, nofun, fun _ => ⟨rfl, rfl, ?_⟩⟩
          show if s.pool.reservation = [] then _ else _
          rw [if_neg hfree]
          exact ⟨rfl, rfl, rfl, rfl, rfl⟩
      | step =>
        have ht : u.abortCommand = _ := haborted
        subst hu
        rw [ht]
        exact ⟨rfl, rfl, nofun, fun _ => ⟨rfl, rfl, rfl, rfl, rfl, rfl, rfl⟩⟩
    | execute | result =>
      rw [he] at haborted
      have ht : u.abortCommand = _ := haborted
      subst hu
      rw [ht]
      exact ⟨rfl, rfl, nofun, fun _ => ⟨rfl, rfl, rfl, rfl, rfl, rfl, rfl⟩⟩
    | testing | idle | cleanup =>
      rw [he] at haborted
      have ht : u.abortCommand = u := haborted
      subst hu
      rw [ht]
      exact ⟨rfl, rfl, nofun, fun _ => ⟨rfl, rfl, rfl⟩⟩

end Sys2Proof.Machine
end

section
/-! SUPPORT. The fields of result words (R192, R195 to R197), the status commands, and the commands of the relay map
(R79, R125, R126, R156). -/

namespace Sys2Proof.Machine

/-! ## Fields of words -/

theorem decide_eq_one_of_toNat {n : Nat} {b : Bool} (h : n = b.toNat) : decide (n = 1) = b := by
  subst h
  cases b <;> rfl

/-- A bit of a result word is the flag that stands there. -/
theorem getLsbD_wordOf_eq {n k : Nat} {b : Bool} (hk : k < 16) (h : n / 2 ^ k % 2 = b.toNat) :
    (wordOf n).getLsbD k = b := by
  rw [getLsbD_wordOf n hk, decide_eq_one_of_toNat h]

/-- A field of a result word is the bit vector that stands there. -/
theorem extractLsb'_wordOf_eq {n lo len : Nat} {x : BitVec len} (hlen : lo + len ≤ 16)
    (h : n / 2 ^ lo % 2 ^ len = x.toNat) : (wordOf n).extractLsb' lo len = x :=
  BitVec.eq_of_toNat_eq ((toNat_extractLsb'_wordOf n hlen).trans h)

/-- A field of a word as a bit vector. -/
theorem ofNat_bitField (w : Word) (lo len : Nat) : BitVec.ofNat len (bitField w lo len) = w.extractLsb' lo len := by
  refine BitVec.eq_of_toNat_eq ?_
  rw [BitVec.toNat_ofNat, BitVec.extractLsb'_toNat, bitField, Nat.mod_mod]

theorem bitField_eq_div (w : Word) (lo len : Nat) : bitField w lo len = w.toNat / 2 ^ lo % 2 ^ len := by
  rw [bitField, Nat.shiftRight_eq_div_pow]

/-- The upper field of a word is what is left of it. -/
theorem bitField_top (w : Word) {lo len : Nat} (h : lo + len = 16) : bitField w lo len = w.toNat / 2 ^ lo := by
  rw [bitField_eq_div]
  refine Nat.mod_eq_of_lt (Nat.div_lt_of_lt_mul ?_)
  rw [← Nat.pow_add, h]
  exact w.isLt

theorem getLsbD_eq_decide (w : Word) (k : Nat) : w.getLsbD k = decide (w.toNat / 2 ^ k % 2 = 1) := by
  rw [← BitVec.testBit_toNat, Nat.testBit_eq_decide_div_mod_eq]

/-! ## INPUT STATUS and OUTPUT STATUS (R79, R156, R192, R197) -/

theorem statusReads : Clause.statusReads := by
  intro s task held
  exact ⟨fun hs => exec_atRequest (work := inputStatusWork) (i := .inputStatus .request) rfl hs,
    fun hs => exec_atRequest (work := outputStatusWork) (i := .outputStatus .request) rfl hs⟩

theorem Assembler.field_lt (x : Assembler) : x.field < 8 := by
  cases x <;> simp [Assembler.field]

theorem inputStatusFields : Clause.inputStatusFields := by
  intro x w
  have hfield := x.assembler.field_lt
  have hflag := fun b : Bool => Bool.toNat_le b
  have h0 := hflag x.sticky.overrun
  have h1 := hflag x.sticky.overlength
  have h2 := hflag x.sticky.stuck
  have h3 := hflag x.sticky.blankedDrop
  have h4 := hflag x.sticky.unmatched
  have h5 := hflag x.sticky.orphanRepeat
  have h6 := hflag x.sticky.pressRefused
  have hw : w = wordOf (x.sticky.overrun.toNat * 2 ^ 0 + x.sticky.overlength.toNat * 2 ^ 1 + x.sticky.stuck.toNat * 2 ^ 2
      + x.sticky.blankedDrop.toNat * 2 ^ 3 + x.sticky.unmatched.toNat * 2 ^ 4 + x.sticky.orphanRepeat.toNat * 2 ^ 5
      + x.sticky.pressRefused.toNat * 2 ^ 6 + x.assembler.field * 2 ^ 8) := by
    simp only [← bitAt_eq]
    rfl
  rw [hw]
  refine ⟨getLsbD_wordOf_eq (by decide) ?_, getLsbD_wordOf_eq (by decide) ?_, getLsbD_wordOf_eq (by decide) ?_,
    getLsbD_wordOf_eq (by decide) ?_, getLsbD_wordOf_eq (by decide) ?_, getLsbD_wordOf_eq (by decide) ?_,
    getLsbD_wordOf_eq (by decide) ?_, getLsbD_wordOf_eq (by decide) ?_, extractLsb'_wordOf_eq (by decide) ?_,
    ((toNat_extractLsb'_wordOf _ (by decide)).trans ?_ : _ = x.assembler.field).trans (by cases x.assembler <;> rfl)⟩
  case refine_8 => simp only [Bool.toNat_false]; omega
  case refine_9 => simp only [BitVec.toNat_ofNat]; omega
  all_goals omega


theorem OutputState.field_lt (x : OutputState) : x.field < 8 := by
  cases x <;> simp [OutputState.field]

theorem ItemOutcome.field_lt (x : ItemOutcome) : x.field < 8 := by
  cases x <;> simp [ItemOutcome.field]

/-- The words of the ACTIVE item, if there is one. -/
def Output.activeWords (x : Output) : Option (List Word) :=
  match x.queue with
  | item :: _ => item.active.map (activeItemWords item)
  | [] => none

theorem Output.activeWords_isSome {x : Output} : x.activeWords.isSome = true ↔
    ∃ item a rest, x.queue = item :: rest ∧ item.active = some a := by
  unfold Output.activeWords
  cases hq : x.queue with
  | nil => simp
  | cons item rest => simp [Option.isSome_iff_exists]

theorem Output.activeWords_eq {x : Output} {item : Item} {a : ActiveItem} {rest : List Item}
    (hq : x.queue = item :: rest) (ha : item.active = some a) : x.activeWords = some (activeItemWords item a) := by
  simp only [Output.activeWords, hq, ha, Option.map_some]

/-- The first word of OUTPUT STATUS. -/
theorem outputWord_fields (x : Output) (hlength : x.queue.length ≤ 8) (active : Bool) :
    let w := wordOf (bitAt x.hostDone 0 + bitAt x.relayRefused 1 + bitAt x.damageSeen 2 + x.state.field * 2 ^ 4
      + x.queue.length * 2 ^ 8 + bitAt active 12)
    w.getLsbD 0 = x.hostDone ∧ w.getLsbD 1 = x.relayRefused ∧ w.getLsbD 2 = x.damageSeen ∧ w.getLsbD 3 = false ∧
      (w.extractLsb' 4 3).toNat = x.state.field ∧ w.getLsbD 7 = false ∧ (w.extractLsb' 8 4).toNat = x.queue.length ∧
      w.getLsbD 12 = active ∧ w.extractLsb' 13 3 = 0#3 := by
  have hfield := x.state.field_lt
  have h0 := Bool.toNat_le x.hostDone
  have h1 := Bool.toNat_le x.relayRefused
  have h2 := Bool.toNat_le x.damageSeen
  have h3 := Bool.toNat_le active
  intro w
  have hw : w = wordOf (x.hostDone.toNat * 2 ^ 0 + x.relayRefused.toNat * 2 ^ 1 + x.damageSeen.toNat * 2 ^ 2
      + x.state.field * 2 ^ 4 + x.queue.length * 2 ^ 8 + active.toNat * 2 ^ 12) := by
    simp only [← bitAt_eq]
    rfl
  rw [hw]
  refine ⟨getLsbD_wordOf_eq (by decide) ?_, getLsbD_wordOf_eq (by decide) ?_, getLsbD_wordOf_eq (by decide) ?_,
    getLsbD_wordOf_eq (by decide) ?_, (toNat_extractLsb'_wordOf _ (by decide)).trans ?_, getLsbD_wordOf_eq (by decide) ?_,
    (toNat_extractLsb'_wordOf _ (by decide)).trans ?_, getLsbD_wordOf_eq (by decide) ?_,
    extractLsb'_wordOf_eq (by decide) ?_⟩
  case refine_4 => simp only [Bool.toNat_false]; omega
  case refine_6 => simp only [Bool.toNat_false]; omega
  case refine_9 => simp only [BitVec.toNat_ofNat]; omega
  all_goals omega

/-- The completion record. -/
theorem completionWord_fields (c : Completion) :
    let v := completionWord (some c)
    v.extractLsb' 0 8 = c.tag ∧ v.getLsbD 8 = c.hold ∧ v.extractLsb' 9 3 = 0#3 ∧
      (v.extractLsb' 12 3).toNat = c.outcome.field ∧ v.getLsbD 15 = false := by
  have hfield := c.outcome.field_lt
  have htag := c.tag.isLt
  have h0 := Bool.toNat_le c.hold
  intro v
  have hv : v = wordOf (c.tag.toNat + c.hold.toNat * 2 ^ 8 + c.outcome.field * 2 ^ 12) := by
    simp only [← bitAt_eq]
    rfl
  rw [hv]
  refine ⟨extractLsb'_wordOf_eq (by decide) ?_, getLsbD_wordOf_eq (by decide) ?_, extractLsb'_wordOf_eq (by decide) ?_,
    (toNat_extractLsb'_wordOf _ (by decide)).trans ?_, getLsbD_wordOf_eq (by decide) ?_⟩
  case refine_3 => simp only [BitVec.toNat_ofNat]; omega
  case refine_5 => simp only [Bool.toNat_false]; omega
  all_goals omega

/-- The first word of an ACTIVE item. -/
theorem itemWord_fields (relayed hold ended : Bool) {variant count pending : Nat} (hvariant : variant < 2)
    (hcount : count < 16) (hpending : pending < 8) :
    let p := wordOf (bitAt relayed 15 + bitAt hold 14 + variant * 2 ^ 13 + bitAt ended 12 + count * 2 ^ 8 + pending)
    p.getLsbD 15 = relayed ∧ p.getLsbD 14 = hold ∧ p.getLsbD 13 = decide (variant = 1) ∧ p.getLsbD 12 = ended ∧
      (p.extractLsb' 8 4).toNat = count ∧ p.extractLsb' 3 5 = 0#5 ∧ (p.extractLsb' 0 3).toNat = pending := by
  have h0 := Bool.toNat_le relayed
  have h1 := Bool.toNat_le hold
  have h2 := Bool.toNat_le ended
  intro p
  have hp : p = wordOf (relayed.toNat * 2 ^ 15 + hold.toNat * 2 ^ 14 + variant * 2 ^ 13 + ended.toNat * 2 ^ 12
      + count * 2 ^ 8 + pending) := by
    simp only [← bitAt_eq]
    rfl
  rw [hp]
  refine ⟨getLsbD_wordOf_eq (by decide) ?_, getLsbD_wordOf_eq (by decide) ?_, ?_, getLsbD_wordOf_eq (by decide) ?_,
    (toNat_extractLsb'_wordOf _ (by decide)).trans ?_, extractLsb'_wordOf_eq (by decide) ?_,
    (toNat_extractLsb'_wordOf _ (by decide)).trans ?_⟩
  case refine_3 =>
    rw [getLsbD_wordOf _ (by decide)]
    congr 1
    have hvalue : (relayed.toNat * 2 ^ 15 + hold.toNat * 2 ^ 14 + variant * 2 ^ 13 + ended.toNat * 2 ^ 12
      + count * 2 ^ 8 + pending) / 2 ^ 13 % 2 = variant := by omega
    rw [hvalue]
  case refine_6 => simp only [BitVec.toNat_ofNat]; omega
  all_goals omega

theorem outputStatusWords_eq (x : Output) : outputStatusWords x =
    wordOf (bitAt x.hostDone 0 + bitAt x.relayRefused 1 + bitAt x.damageSeen 2 + x.state.field * 2 ^ 4
      + x.queue.length * 2 ^ 8 + bitAt x.activeWords.isSome 12) ::
    completionWord x.completion :: x.activeWords.getD [] := rfl

/-- Whether an item is one that a relay record placed. -/
def Item.relayed (item : Item) : Bool :=
  match item.origin with
  | .host _ => false
  | .relay _ => true

/-- The name of an item in OUTPUT STATUS: the tag of the host, or the press. -/
def Item.nameField (item : Item) : Nat :=
  match item.origin with
  | .host tag => tag.toNat
  | .relay p => p.record.val * 2 ^ 8 + p.sequence.toNat

/-- The pending end of an item in OUTPUT STATUS. -/
def Item.pendingField (item : Item) : Nat :=
  match item.endPending with
  | none => 0
  | some outcome => outcome.field

theorem activeItemWords_eq (item : Item) (a : ActiveItem) : activeItemWords item a =
    [wordOf (bitAt item.relayed 15 + bitAt item.form.isHold 14 + a.variant.field * 2 ^ 13 + bitAt item.holdEnded 12
      + item.form.countField * 2 ^ 8 + item.pendingField), wordOf item.nameField, item.handle.toWord,
      wordOf a.framesSent] := rfl

theorem Item.relayed_iff (item : Item) : item.relayed = true ↔ item.fromHost = false := by
  unfold Item.relayed Item.fromHost
  cases item.origin <;> simp

theorem Item.pendingField_lt (item : Item) : item.pendingField < 8 := by
  unfold Item.pendingField
  cases item.endPending with
  | none => decide
  | some outcome => exact outcome.field_lt

theorem Item.nameField_le (item : Item) : item.nameField ≤ 65535 := by
  unfold Item.nameField
  cases item.origin with
  | host tag =>
    have htag := tag.isLt
    simp only
    omega
  | relay p =>
    have hrecord := p.record.isLt
    have hsequence := p.sequence.isLt
    simp only
    omega

theorem Variant.field_eq_one (v : Variant) : v.field = 1 ↔ v = .alternate := by
  cases v <;> simp [Variant.field]

theorem ItemForm.countField_lt {form : ItemForm} (h : ∀ c, form = .send c → c ≤ 15) : form.countField < 16 := by
  cases form with
  | send c => exact Nat.lt_succ_of_le (h c rfl)
  | hold => decide

theorem outputStatusFields : Clause.outputStatusFields := by
  intro x hlength outcomeCode isActive
  have hcode : ∀ outcome, outcome.field = outcomeCode outcome := fun outcome => by cases outcome <;> rfl
  obtain ⟨hdone, hrefused, hseen, hthree, hstate, hseven, hqueue, hactive, hhigh⟩ :=
    outputWord_fields x hlength x.activeWords.isSome
  refine ⟨_, _, _, outputStatusWords_eq x, hdone, hrefused, hseen, hthree, hstate.trans (by cases x.state <;> rfl), hseven,
    hqueue, ?_, hhigh, fun hnone => by rw [hnone]; rfl, fun c hc => ?_, fun hnot => ?_, fun item a rest hq ha hcount => ?_⟩
  · rw [hactive]
    exact Output.activeWords_isSome
  · obtain ⟨htag, hhold, hzero, houtcome, htop⟩ := completionWord_fields c
    rw [hc]
    exact ⟨htag, hhold, hzero, houtcome.trans (hcode c.outcome), htop⟩
  · have hnone : x.activeWords = none := by
      rw [← Option.not_isSome_iff_eq_none, Output.activeWords_isSome]
      exact hnot
    rw [hnone]
    rfl
  · obtain ⟨hrelayed, hhold, hvariant, hended, hcountField, hzero, hpending⟩ :=
      itemWord_fields item.relayed item.form.isHold item.holdEnded a.variant.field_lt (ItemForm.countField_lt hcount)
        item.pendingField_lt
    refine ⟨_, _, _, by rw [Output.activeWords_eq hq ha, activeItemWords_eq]; rfl, ?_, ?_, ?_, hended,
      hcountField.trans (by cases item.form <;> rfl), hzero, hpending.trans ?_, fun tag horigin => ?_,
      fun press horigin => ?_, fun hframes => toNat_wordOf hframes⟩
    · rw [hrelayed]
      exact item.relayed_iff
    · rw [hhold]
      exact ItemForm.isHold_iff
    · rw [hvariant, decide_eq_true_iff]
      exact a.variant.field_eq_one
    · unfold Item.pendingField
      cases item.endPending with
      | none => rfl
      | some outcome => exact hcode outcome
    · rw [toNat_wordOf item.nameField_le]
      simp only [Item.nameField, horigin]
    · rw [toNat_wordOf item.nameField_le]
      simp only [Item.nameField, horigin, Nat.reducePow]

/-- Settles O28: the status commands show their unit and clear its sticky bits. -/
theorem statusReadsClearTheStickyBits : Obligations.StatusReadsClearTheStickyBits :=
  ⟨statusReads, inputStatusFields, outputStatusFields⟩

/-! ## RELAY SET, RELAY CLEAR and RELAY READ (R125, R126, R195, R196) -/

theorem relayRequestsWait : Clause.relayRequestsWait := by
  intro s hretires
  have hempty : ¬s.mail.retires.isEmpty = true := fun h => hretires (List.isEmpty_iff.1 h)
  have hwait : ∀ (c : HostCommand) (work : Task → Bool → State → State), s.blockRequest c (afterRetires work) = s :=
    fun c work => by
      unfold State.blockRequest
      split
      · split
        · exact if_neg hempty
        · rfl
      all_goals rfl
  exact ⟨congrArg _ (hwait .relaySet _), congrArg _ (hwait .relayClear _), congrArg _ (hwait .relayRead _)⟩

/-- With no notice of a retire waiting, the relay unit takes the request. -/
theorem exec_relayRequest {s : State} {i : Instr} {c : HostCommand} {work : Task → Bool → State → State} {task : Task}
    {held : Bool} (hi : requestOf i = some (c, .request, afterRetires work)) (hs : s.AtRequest c task held)
    (hretires : s.mail.retires = []) : exec i s = .next (work task held s) :=
  (exec_atRequest hi hs).trans (congrArg _ (if_pos (List.isEmpty_iff.2 hretires)))

theorem relayRecordOf_eq (source target : Handle) (w : Word) : relayRecordOf source target w = {
    stale := false, source := source, inputMask := w.extractLsb' 0 4, outputMask := w.extractLsb' 4 2
    target := target, mode := if w.getLsbD 8 then .follow else .once (w.toNat / 4096), lastOutcome := .none } := by
  have hcount : bitField w 12 4 = w.toNat / 4096 := bitField_top w rfl
  rw [relayRecordOf, relayInputMask, relayOutputMask, relayMode, ofNat_bitField, ofNat_bitField, hcount]

section
variable {s : State} {r : RelayRecord} {n : RelayNo}

theorem State.relayWrite_over {q : RelayRecord} (hfound : s.relayOfSource r.source = some (n, q)) :
    s.relayWrite r = (s.setRelay n (some r), some n) := by
  simp only [State.relayWrite, hfound]

theorem State.relayWrite_new (hnone : s.relayOfSource r.source = none) (hempty : s.lowestEmptyRelay = some n) :
    s.relayWrite r = (s.setRelay n (some r), some n) := by
  simp only [State.relayWrite, hnone, hempty]

theorem State.relayWrite_full (hnone : s.relayOfSource r.source = none) (hfull : s.lowestEmptyRelay = none) :
    s.relayWrite r = (s, none) := by
  simp only [State.relayWrite, hnone, hfull]

theorem State.lowestEmptyRelay_some (hempty : s.relays[n] = none) (hlowest : ∀ m : RelayNo, m < n → s.relays[m] ≠ none) :
    s.lowestEmptyRelay = some n :=
  find?_finRange_eq_some.2 ⟨Option.isNone_iff_eq_none.2 hempty, fun m hm => isNone_of_ne_none (hlowest m hm)⟩

theorem State.lowestEmptyRelay_none (h : ∀ n : RelayNo, s.relays[n] ≠ none) : s.lowestEmptyRelay = none :=
  find?_finRange_eq_none.2 fun n => isNone_of_ne_none (h n)

end

section
variable {s t : State} {task : Task} {held : Bool} {source target : Handle}
  (hsource : Handle.ofWord (task.word 0) = some source) (htarget : Handle.ofWord (task.word 1) = some target)
include hsource htarget

theorem relaySetWork_written {n : RelayNo}
    (hwrite : s.relayWrite (relayRecordOf source target (task.word 2)) = (t, some n)) :
    relaySetWork task held s = t.finish task held .ok [wordOf n.val] := by
  simp only [relaySetWork, hsource, htarget, hwrite]

theorem relaySetWork_full (hwrite : s.relayWrite (relayRecordOf source target (task.word 2)) = (t, none)) :
    relaySetWork task held s = t.finish task held .relayFull [] := by
  simp only [relaySetWork, hsource, htarget, hwrite]

end

theorem relaySets : Clause.relaySets := by
  intro s task held source target hs hretires hsource htarget w written
  have hexec : exec (.relaySet .request) s = .next (relaySetWork task held s) :=
    exec_relayRequest (work := relaySetWork) rfl hs hretires
  have hwritten : relayRecordOf source target w = written := relayRecordOf_eq source target w
  have hset : ∀ n : RelayNo, s.relayWrite written = (s.setRelay n (some written), some n) →
      exec (.relaySet .request) s = .next (State.finish { s with relays := s.relays.set n (some written) } task held .ok
        [BitVec.ofNat 16 n.val]) := fun n hn =>
    hexec.trans (congrArg _ (relaySetWork_written hsource htarget ((congrArg s.relayWrite hwritten).trans hn)))
  refine ⟨fun n r hr hsrc honly => hset n (State.relayWrite_over (r := written) (State.relayOfSource_eq_some hr hsrc honly)),
    fun hother => ⟨fun n hempty hlowest => hset n (State.relayWrite_new (r := written)
      (State.relayOfSource_eq_none hother) (State.lowestEmptyRelay_some hempty hlowest)), fun hfull => ?_⟩⟩
  have hfullWrite := State.relayWrite_full (r := written) (State.relayOfSource_eq_none hother)
    (State.lowestEmptyRelay_none hfull)
  exact hexec.trans (congrArg _ (relaySetWork_full hsource htarget ((congrArg s.relayWrite hwritten).trans hfullWrite)))

theorem relayReadWork_eq {s : State} {task : Task} {held : Bool} {n : RelayNo} (h : (task.word 0).toNat = n.val) :
    relayReadWork task held s = s.finish task held .ok (relayWords s.relays[n]) := by
  have hnumber : (Fin.ofNat 64 (task.word 0).toNat : RelayNo) = n := by
    rw [h]
    exact Fin.ext (Nat.mod_eq_of_lt n.isLt)
  exact congrArg (fun k : RelayNo => s.finish task held .ok (relayWords s.relays[k])) hnumber

theorem relayClearsAndReads : Clause.relayClearsAndReads := by
  intro s task held hretires
  refine ⟨fun hs => ⟨fun n r hr hsource honly => ?_, fun hnone => ?_⟩, fun hs n hn => ⟨fun hempty => ?_, fun r hr => ?_⟩⟩
  · refine (exec_relayRequest (work := relayClearWork) rfl hs hretires).trans (congrArg _ ?_)
    have hfound : (Handle.ofWord (task.word 0)).bind s.relayOfSource = some (n, r) := by
      rw [hsource, Option.bind_some]
      exact State.relayOfSource_eq_some hr rfl honly
    simp only [relayClearWork, hfound]
    rfl
  · refine (exec_relayRequest (work := relayClearWork) rfl hs hretires).trans (congrArg _ ?_)
    have hfound : (Handle.ofWord (task.word 0)).bind s.relayOfSource = none := by
      cases hword : Handle.ofWord (task.word 0) with
      | none => rfl
      | some h =>
        rw [Option.bind_some]
        exact State.relayOfSource_eq_none fun m q hq hsame => hnone m q hq (hword.trans (congrArg some hsame.symm))
    simp only [relayClearWork, hfound]
  · refine (exec_relayRequest (work := relayReadWork) rfl hs hretires).trans (congrArg _ ?_)
    rw [relayReadWork_eq hn, hempty]
    rfl
  · refine (exec_relayRequest (work := relayReadWork) rfl hs hretires).trans (congrArg _ ?_)
    rw [relayReadWork_eq hn, hr, Nat.mul_comm 16]
    rfl

/-- The relay word as a number. -/
theorem RelayRecord.word_eq (r : RelayRecord) :
    r.word = wordOf (r.inputMask.toNat + r.outputMask.toNat * 2 ^ 4 + r.mode.field) := rfl

theorem relayWord : Clause.relayWord := by
  refine ⟨fun r hcount => ?_, fun r w hinputs houtputs hmode => ?_⟩
  · have hinputs := r.inputMask.isLt
    have houtputs := r.outputMask.isLt
    rw [r.word_eq]
    cases hmode : r.mode with
    | once count =>
      have hc := hcount count hmode
      have hfield : (RelayMode.once count).field = count * 2 ^ 12 := rfl
      rw [hfield]
      refine ⟨extractLsb'_wordOf_eq (by decide) ?_, extractLsb'_wordOf_eq (by decide) ?_,
        extractLsb'_wordOf_eq (by decide) ?_, getLsbD_wordOf_eq (by decide) ?_, extractLsb'_wordOf_eq (by decide) ?_,
        (toNat_extractLsb'_wordOf _ (by decide)).trans ?_⟩
      case refine_4 => simp; omega
      case refine_3 | refine_5 => simp only [BitVec.toNat_ofNat]; omega
      case refine_6 =>
        show _ = count
        omega
      all_goals omega
    | follow =>
      have hfield : RelayMode.follow.field = 2 ^ 8 := rfl
      rw [hfield]
      refine ⟨extractLsb'_wordOf_eq (by decide) ?_, extractLsb'_wordOf_eq (by decide) ?_,
        extractLsb'_wordOf_eq (by decide) ?_, getLsbD_wordOf_eq (by decide) ?_, extractLsb'_wordOf_eq (by decide) ?_,
        (toNat_extractLsb'_wordOf _ (by decide)).trans ?_⟩
      case refine_4 => simp; omega
      case refine_3 | refine_5 => simp only [BitVec.toNat_ofNat]; omega
      case refine_6 =>
        show _ = 0
        omega
      all_goals omega
  · have hw := w.isLt
    rw [r.word_eq, hinputs, houtputs, hmode, BitVec.extractLsb'_toNat, BitVec.extractLsb'_toNat,
      Nat.shiftRight_eq_div_pow, Nat.shiftRight_eq_div_pow]
    refine BitVec.eq_of_getLsbD_eq fun i hi => ?_
    rw [getLsbD_wordOf _ hi, BitVec.getLsbD_and, getLsbD_eq_decide w i]
    cases hfollow : w.getLsbD 8 with
    | true =>
      have hbit : w.toNat / 2 ^ 8 % 2 = 1 := of_decide_eq_true ((getLsbD_eq_decide w 8).symm.trans hfollow)
      rw [if_pos rfl, if_pos rfl, show RelayMode.follow.field = 256 from rfl]
      rw [Bool.eq_iff_iff]
      interval_cases i <;> simp <;> omega
    | false =>
      rw [if_neg (by simp), if_neg (by simp), show (RelayMode.once (w.toNat / 4096)).field = w.toNat / 4096 * 4096 from rfl]
      rw [Bool.eq_iff_iff]
      interval_cases i <;> simp <;> omega

/-- Settles O30: the commands of the relay map act on one record, behind the notices of retires. -/
theorem relayMapCommandsActOnOneRecord : Obligations.RelayMapCommandsActOnOneRecord :=
  ⟨relaySets, relayClearsAndReads, relayRequestsWait, relayWord⟩

end Sys2Proof.Machine
end

section
/-! SUPPORT. The fields of the status, handle, settings and configuration words, and their codes (R161 to R168, R180,
R183, R192, R197). -/

namespace Sys2Proof.Machine

/-! ## The status words (R161, R162, R165 to R167) -/

theorem wordOf_eq_zero_iff {n : Nat} (h : n ≤ 65535) : wordOf n = 0 ↔ n = 0 := by
  rw [BitVec.toNat_eq, toNat_wordOf h]
  rfl

/-- The ATTENTION word as a sum of its bits. -/
theorem Attention.word_eq (a : Attention) : a.word = wordOf (a.input[0].toNat * 2 ^ 0 + a.input[1].toNat * 2 ^ 1
    + a.input[2].toNat * 2 ^ 2 + a.input[3].toNat * 2 ^ 3 + a.output[0].toNat * 2 ^ 4 + a.output[1].toNat * 2 ^ 5
    + a.table.toNat * 2 ^ 6) := by
  simp only [← bitAt_eq]
  rfl

theorem Attention.any_eq (a : Attention) : a.any = decide (a.word ≠ 0) := by
  have h0 := Bool.toNat_le a.input[0]
  have h1 := Bool.toNat_le a.input[1]
  have h2 := Bool.toNat_le a.input[2]
  have h3 := Bool.toNat_le a.input[3]
  have h4 := Bool.toNat_le a.output[0]
  have h5 := Bool.toNat_le a.output[1]
  have h6 := Bool.toNat_le a.table
  have hzero : a.word = 0 ↔ a.any = false := by
    rw [a.word_eq, wordOf_eq_zero_iff (by omega)]
    simp [Attention.any]
  rw [Bool.eq_iff_iff, decide_eq_true_iff, Ne, hzero, Bool.not_eq_false]

theorem attentionFields (a : Attention) :
    (∀ i : InputId, a.word.getLsbD i.val = a.input[i]) ∧ (∀ o : OutputId, a.word.getLsbD (4 + o.val) = a.output[o]) ∧
      a.word.getLsbD 6 = a.table ∧ a.word.extractLsb' 7 9 = 0#9 := by
  have h0 := Bool.toNat_le a.input[0]
  have h1 := Bool.toNat_le a.input[1]
  have h2 := Bool.toNat_le a.input[2]
  have h3 := Bool.toNat_le a.input[3]
  have h4 := Bool.toNat_le a.output[0]
  have h5 := Bool.toNat_le a.output[1]
  have h6 := Bool.toNat_le a.table
  rw [a.word_eq]
  refine ⟨fun i => ?_, fun o => ?_, getLsbD_wordOf_eq (by decide) ?_, extractLsb'_wordOf_eq (by decide) ?_⟩
  · refine getLsbD_wordOf_eq (by omega) ?_
    match i with
    | 0 => change _ / 2 ^ 0 % 2 = a.input[0].toNat; omega
    | 1 => change _ / 2 ^ 1 % 2 = a.input[1].toNat; omega
    | 2 => change _ / 2 ^ 2 % 2 = a.input[2].toNat; omega
    | 3 => change _ / 2 ^ 3 % 2 = a.input[3].toNat; omega
  · refine getLsbD_wordOf_eq (by omega) ?_
    match o with
    | 0 => change _ / 2 ^ 4 % 2 = a.output[0].toNat; omega
    | 1 => change _ / 2 ^ 5 % 2 = a.output[1].toNat; omega
  · omega
  · simp only [BitVec.toNat_ofNat]
    omega

theorem State.flagsFields (s : State) :
    s.flagsWord.getLsbD 15 = s.port.ready ∧ s.flagsWord.getLsbD 14 = s.port.engine.busy ∧
      s.flagsWord.getLsbD 13 = s.port.engine.xreq ∧ s.flagsWord.getLsbD 12 = s.port.engine.xdir ∧
      s.flagsWord.getLsbD 11 = s.port.done ∧ s.flagsWord.getLsbD 10 = s.port.fault ∧
      s.flagsWord.getLsbD 9 = s.port.collide ∧ s.flagsWord.getLsbD 8 = !s.tracker.reportList.isEmpty ∧
      s.flagsWord.getLsbD 7 = decide (s.port.attention.word ≠ 0) ∧ s.flagsWord.extractLsb' 0 7 = 0#7 := by
  rw [← s.port.attention.any_eq]
  change _ ∧ _ ∧ _ ∧ _ ∧ _ ∧ _ ∧ _ ∧ _ = s.reportFlag ∧ _
  have h0 := Bool.toNat_le s.port.ready
  have h1 := Bool.toNat_le s.port.engine.busy
  have h2 := Bool.toNat_le s.port.engine.xreq
  have h3 := Bool.toNat_le s.port.engine.xdir
  have h4 := Bool.toNat_le s.port.done
  have h5 := Bool.toNat_le s.port.fault
  have h6 := Bool.toNat_le s.port.collide
  have h7 := Bool.toNat_le s.reportFlag
  have h8 := Bool.toNat_le s.port.attention.any
  simp only [State.flagsWord, bitAt_eq]
  refine ⟨getLsbD_wordOf_eq (by decide) ?_, getLsbD_wordOf_eq (by decide) ?_, getLsbD_wordOf_eq (by decide) ?_,
    getLsbD_wordOf_eq (by decide) ?_, getLsbD_wordOf_eq (by decide) ?_, getLsbD_wordOf_eq (by decide) ?_,
    getLsbD_wordOf_eq (by decide) ?_, getLsbD_wordOf_eq (by decide) ?_, getLsbD_wordOf_eq (by decide) ?_,
    extractLsb'_wordOf_eq (by decide) ?_⟩
  case refine_10 => simp only [BitVec.toNat_ofNat]; omega
  all_goals omega

theorem HostOutcome.code_lt (o : HostOutcome) : o.code < 64 := by
  cases o <;> decide

theorem HostCompletion.fields (c : HostCompletion) :
    c.word.extractLsb' 8 8 = c.code ∧ c.word.getLsbD 7 = c.cut ∧ c.word.getLsbD 6 = false ∧
      (c.word.extractLsb' 0 6).toNat = c.outcome.code := by
  have hcode := c.code.isLt
  have houtcome := c.outcome.code_lt
  have hcut := Bool.toNat_le c.cut
  simp only [HostCompletion.word, bitAt_eq]
  refine ⟨extractLsb'_wordOf_eq (by decide) ?_, getLsbD_wordOf_eq (by decide) ?_, getLsbD_wordOf_eq (by decide) ?_,
    (toNat_extractLsb'_wordOf _ (by decide)).trans ?_⟩
  case refine_3 => simp only [Bool.toNat_false]; omega
  all_goals omega

theorem statusWords : Clause.statusWords := by
  intro s
  have henables := s.port.enables.isLt
  refine ⟨s.flagsFields, attentionFields _, s.port.completion.fields, extractLsb'_wordOf_eq (by decide) ?_,
    extractLsb'_wordOf_eq (by decide) ?_⟩
  · omega
  · simp only [BitVec.toNat_ofNat]
    omega

theorem engineStates : Clause.engineStates :=
  ⟨rfl, rfl, fun _ _ _ _ _ _ => ⟨rfl, rfl, rfl, rfl, rfl⟩⟩

theorem interruptLine : Clause.interruptLine := by
  intro s
  have hreport : s.reportFlag = true ↔ s.tracker.reportList ≠ [] := by
    cases h : s.tracker.reportList <;> simp [State.reportFlag, h]
  simp only [State.intLow, Bool.or_eq_true, Bool.and_eq_true, hreport, s.port.attention.any_eq, decide_eq_true_eq,
    or_assoc]

/-! ## Handle words (R17, R180) -/

/-- The word of a handle names that handle and no other word does. -/
theorem Handle.ofWord_eq_some {w : Word} {h : Handle} :
    Handle.ofWord w = some h ↔ w.toNat = h.gen.val * 256 + h.slot.val := by
  have hw := w.isLt
  have hgen := h.gen.isLt
  have hslot := h.slot.isLt
  unfold Handle.ofWord
  simp only [bitField_eq_div]
  split
  · rename_i hzero
    rw [Option.some.injEq]
    constructor
    · rintro rfl
      simp only [Fin.val_ofNat]
      omega
    · intro heq
      obtain ⟨slot, gen⟩ := h
      simp only at heq hgen hslot
      refine congrArg₂ Handle.mk (Fin.ext ?_) (Fin.ext ?_) <;> simp only [Fin.val_ofNat] <;> omega
  · rename_i hzero
    refine ⟨fun h => (nomatch h), fun heq => absurd ?_ hzero⟩
    omega

theorem handleWords : Clause.handleWords := by
  intro s w h e
  rw [State.currentWord_eq_some, Handle.ofWord_eq_some]
  refine and_congr_right fun _ => ?_
  unfold State.currentEntry
  split
  · rename_i hgen
    rw [State.installedAt_eq_some]
    exact ⟨fun hocc => ⟨hgen.2, congrArg₂ Entry.mk hgen.1 hocc⟩, fun ⟨_, he⟩ => by rw [he]⟩
  · rename_i hgen
    exact ⟨fun h => (nomatch h), fun ⟨hzero, he⟩ => absurd ⟨by rw [he], hzero⟩ hgen⟩

/-! ## Settings and configuration words (R183, R186, R192, R197) -/

theorem settingsRead (task : Task) :
    let field := fun (k lo len : Nat) => (task.word k).toNat / 2 ^ lo % 2 ^ len
    let g := task.settings
    g.inputMask.toNat = field 0 0 4 ∧ g.repeatTolerance.val = field 0 8 3 ∧ repeatChoice (task.word 0) = field 0 12 2 ∧
    (field 0 4 2 = 1 → g.duty = .quarter) ∧ (field 0 4 2 = 2 → g.duty = .third) ∧ (field 0 4 2 = 3 → g.duty = .half) ∧
    g.receiveNominal = field 1 0 8 ∧ g.receiveWindow = field 1 8 4 ∧ g.transmitCarrier = field 2 0 8 ∧
    g.releaseGap = (task.word 3).toNat ∧ g.repeatPeriod = (task.word 4).toNat ∧ g.pressLimit = (task.word 5).toNat := by
  intro field g
  have hduty : g.duty = (dutyOfField (field 0 4 2)).getD .quarter := by
    simp only [g, Task.settings, bitField_eq_div, field]
  refine ⟨?_, ?_, bitField_eq_div _ _ _, fun h => ?_, fun h => ?_, fun h => ?_, bitField_eq_div _ _ _,
    bitField_eq_div _ _ _, bitField_eq_div _ _ _, rfl, rfl, rfl⟩
  · simp only [g, Task.settings, bitField_eq_div, field, BitVec.toNat_ofNat, Nat.mod_mod]
  · simp only [g, Task.settings, bitField_eq_div, field, Fin.val_ofNat]
    exact Nat.mod_mod _ _
  all_goals rw [hduty, h]; rfl

theorem Duty.field_lt (d : Duty) : d.field < 4 := by
  cases d <;> decide

theorem settingsShown (g : GroupSettings) (present : Bool) (hnominal : g.receiveNominal < 256)
    (hwindow : g.receiveWindow < 16) (hcarrier : g.transmitCarrier < 256) (hgap : g.releaseGap < 65536)
    (hperiod : g.repeatPeriod < 65536) (hlimit : g.pressLimit < 65536) :
    (settingsWords g present).map BitVec.toNat =
      [g.inputMask.toNat + 16 * g.duty.field + 256 * g.repeatTolerance.val + (if present then 4096 else 0),
       g.receiveNominal + 256 * g.receiveWindow, g.transmitCarrier, g.releaseGap, g.repeatPeriod, g.pressLimit] := by
  have hmask := g.inputMask.isLt
  have hduty := g.duty.field_lt
  have htolerance := g.repeatTolerance.isLt
  have hfirst : g.inputMask.toNat + g.duty.field * 2 ^ 4 + g.repeatTolerance.val * 2 ^ 8 + bitAt present 12
      = g.inputMask.toNat + 16 * g.duty.field + 256 * g.repeatTolerance.val + (if present then 4096 else 0) := by
    change _ + (if present then 4096 else 0) = _
    omega
  have hsecond : g.receiveNominal + g.receiveWindow * 2 ^ 8 = g.receiveNominal + 256 * g.receiveWindow := by omega
  have hpresent : (if present then 4096 else 0) ≤ 4096 := by split <;> decide
  simp only [settingsWords, List.map_cons, List.map_nil]
  rw [hfirst, hsecond, toNat_wordOf (by omega), toNat_wordOf (by omega), toNat_wordOf (by omega), toNat_wordOf (by omega),
    toNat_wordOf (by omega), toNat_wordOf (by omega)]

theorem settingsFields : Clause.settingsFields := by
  refine ⟨settingsRead, fun g present h1 h2 h3 h4 h5 h6 => ?_⟩
  intro duty
  have hduty : duty = g.duty.field := by
    cases hg : g.duty <;> simp only [duty, hg] <;> rfl
  rw [hduty]
  exact settingsShown g present h1 h2 h3 h4 h5 h6

/-- The polarity bit of a configuration word. -/
theorem polarityOf_eq (w : Word) :
    polarityOf w = if w.toNat / 2 ^ 4 % 2 ^ 1 = 1 then .activeHigh else .activeLow := by
  simp only [polarityOf, getLsbD_eq_decide, decide_eq_true_eq, Nat.pow_one]

theorem configurationFields : Clause.configurationFields := by
  intro task field x y
  have hx : x.kind = match field 0 0 2 with
      | 1 => .carrier
      | 2 => .envelope
      | _ => .off := by
    simp only [x, field, Task.inputConfig, bitField_eq_div] <;> rfl
  have hy : y.kind = match field 0 0 2 with
      | 1 => .modulated
      | 2 => .envelope
      | _ => .off := by
    simp only [y, field, Task.outputConfig, bitField_eq_div] <;> rfl
  refine ⟨fun h => ?_, fun h => ?_, fun h => ?_, polarityOf_eq _, rfl, ?_, rfl, rfl, rfl, rfl⟩
  case refine_4 => simp only [x, field, Task.inputConfig, bitField_eq_div, BitVec.toNat_ofNat, Nat.mod_mod]
  all_goals
    rw [hx, hy, h]
    exact ⟨rfl, rfl⟩

/-! ## Codes (R176, R190, R193, R196) -/

theorem fieldCodes : Clause.fieldCodes := by
  refine ⟨by decide, fun p => ⟨fun _ _ _ h => ?_, fun _ _ h => ?_⟩, by decide, by decide, by decide, rfl, rfl⟩ <;>
    simp only [Press.causeField, h]

end Sys2Proof.Machine

namespace Sys2Proof.Machine

/-- Settles O17: each field of a word is the quotient and remainder of the sum that spells the word. -/
theorem wordsShowTheirFields : Obligations.WordsShowTheirFields :=
  ⟨statusWords, engineStates, handleWords, interruptLine, settingsFields, configurationFields, fieldCodes⟩

end Sys2Proof.Machine
end

section
/-! SUPPORT. The rotation of the claims, and the steps that change nothing before their time (R22, R23, R94, R171). -/

namespace Sys2Proof.Machine

/-! ## The rotation (R23) -/

theorem Position.rank_lt (p : Position) : p.rank < 7 := by
  cases p <;> simp only [Position.rank] <;> omega

theorem Position.ofRank_rank (p : Position) : Position.ofRank p.rank = p := by
  cases p with
  | input i => match i with
    | 0 | 1 | 2 | 3 => rfl
  | output o => match o with
    | 0 | 1 => rfl
  | host => rfl

theorem Position.rank_ofRank {n : Nat} (h : n < 7) : (Position.ofRank n).rank = n := by
  unfold Position.ofRank
  split
  · exact Nat.mod_eq_of_lt ‹_›
  · split
    · simp only [Position.rank, Fin.val_ofNat]
      omega
    · simp only [Position.rank]
      omega

/-- How many positions of the rotation stand before a position. -/
def Claims.distance (c : Claims) (p : Position) : Nat := (p.rank + 6 - c.last.rank) % 7

/-- The position at a place of the rotation. -/
def Claims.place (c : Claims) (d : Nat) : Position := Position.ofRank ((c.last.rank + 1 + d) % 7)

theorem Claims.distance_lt (c : Claims) (p : Position) : c.distance p < 7 := Nat.mod_lt _ (by decide)

theorem Claims.place_distance (c : Claims) (p : Position) : c.place (c.distance p) = p := by
  have hp := p.rank_lt
  have hlast := c.last.rank_lt
  have hrank : (c.last.rank + 1 + c.distance p) % 7 = p.rank := by
    simp only [Claims.distance]
    omega
  rw [Claims.place, hrank, Position.ofRank_rank]

theorem Claims.distance_place (c : Claims) {d : Nat} (h : d < 7) : c.distance (c.place d) = d := by
  have hlast := c.last.rank_lt
  rw [Claims.distance, Claims.place, Position.rank_ofRank (Nat.mod_lt _ (by decide))]
  omega

/-- The claim served next is the waiting one with the least distance. -/
theorem Claims.nextServed_eq_some {c : Claims} {p : Position} :
    c.nextServed = some p ↔ c.waiting p = true ∧ ∀ q, c.waiting q = true → c.distance p ≤ c.distance q := by
  have hrotation : c.rotation = (List.range 7).map c.place := rfl
  rw [Claims.nextServed, hrotation, List.find?_eq_some_iff_getElem]
  refine and_congr_right fun _ => ⟨fun ⟨d, hd, hplace, hbefore⟩ q hq => ?_, fun hleast => ?_⟩
  · have hseven : d < 7 := by simpa using hd
    have hp : c.place d = p := by simpa using hplace
    subst hp
    rw [c.distance_place hseven]
    by_contra hlt
    have hwaits := hbefore (c.distance q) (by omega)
    simp only [List.getElem_map, List.getElem_range, c.place_distance, hq] at hwaits
    exact absurd hwaits (by decide)
  · refine ⟨c.distance p, by simpa using c.distance_lt p, by simpa using c.place_distance p, fun d hd => ?_⟩
    have hseven : d < 7 := hd.trans (c.distance_lt p)
    simp only [List.getElem_map, List.getElem_range, Bool.not_eq_true']
    by_contra hwaits
    have hle := hleast (c.place d) (by simpa using hwaits)
    rw [c.distance_place hseven] at hle
    omega

theorem rotation : Clause.rotation :=
  ⟨fun _ _ => Claims.nextServed_eq_some, fun _ => rfl, fun _ => rfl, rfl⟩

theorem State.turnOf_iff {s : State} {p : Position} :
    s.turnOf p = true ↔ s.claims.nextServed = some p ∧ s.mail.releases = [] := by
  rw [State.turnOf, Bool.and_eq_true, decide_eq_true_iff, List.isEmpty_iff]

theorem turns : Clause.turns :=
  fun _ => ⟨fun _ => rfl, fun _ => rfl, rfl, fun _ => State.turnOf_iff⟩

/-- A position that has its turn has a waiting claim. -/
theorem State.waiting_of_turnOf {s : State} {p : Position} (h : s.turnOf p = true) : s.claims.waiting p = true :=
  (Claims.nextServed_eq_some.1 (State.turnOf_iff.1 h).1).1

/-! ## Claims that wait for their turn (R22, R23) -/

/-- A table step of the host without its claim, or out of its turn. -/
theorem State.hostStep_waits {s : State} {h : HostStep} (hwaits : s.claims.host ≠ some h ∨ s.turnOf .host = false)
    (body : Task → Bool → State → State) : s.hostStep h body = s := by
  refine if_neg fun ⟨hclaim, hturn⟩ => ?_
  rcases hwaits with hno | hno
  · exact hno hclaim
  · rw [hturn] at hno
    cases hno

theorem exec_tableStep_waits {s : State} {i : Instr} {h : HostStep} {body : Task → Bool → State → State}
    (hi : tableStepOf i = some (h, body)) (hwaits : s.claims.host ≠ some h ∨ s.turnOf .host = false) :
    exec i s = .next s :=
  (exec_of_tableStep hi s).trans (congrArg _ (State.hostStep_waits hwaits body))

theorem exec_parameterPhaseCleanUp_waits {s : State}
    (hwaits : s.claims.host ≠ some .cleanUp ∨ s.turnOf .host = false) : exec .parameterPhaseCleanUp s = .next s := by
  refine congrArg Host.Outcome.next (if_neg fun ⟨hclaim, hturn⟩ => ?_)
  rcases hwaits with hno | hno
  · exact hno hclaim
  · rw [hturn] at hno
    cases hno

theorem exec_lookup_waits {s : State} {i : InputId} (h : s.turnOf (.input i) = false) :
    exec (.lookup i) s = .next s := by
  change execLookup i s = _
  rw [execLookup, h]

theorem exec_damageNotice_absent {s : State} {o : OutputId} (h : ∀ d, s.claims.output[o] ≠ some (.damage d)) :
    exec (.damageNotice o) s = .next s := by
  change execDamageNotice o s = _
  unfold execDamageNotice
  split
  · exact absurd ‹_› (h _)
  · rfl

theorem claimsWaitForTheirTurn : Clause.claimsWaitForTheirTurn := by
  intro s
  refine ⟨fun i hwaits => exec_lookup_waits ?_, fun o hwaits => ?_, fun i h hmem hwaits => ?_⟩
  · rcases hwaits with hclaim | hturn
    · by_contra hturn
      have hwaiting := State.waiting_of_turnOf (Bool.not_eq_false _ ▸ hturn)
      rw [Claims.waiting, hclaim] at hwaiting
      cases hwaiting
    · exact hturn
  · rcases hwaits with hclaim | hturn
    · exact exec_damageNotice_absent hclaim
    · refine congrArg Host.Outcome.next ?_
      rw [State.outputReady, hturn] <;> rfl
  · by_cases hcleanUp : i = .parameterPhaseCleanUp
    · subst hcleanUp
      obtain rfl : h = .cleanUp := by simpa using hmem
      exact exec_parameterPhaseCleanUp_waits hwaits
    · obtain ⟨body, hbody⟩ : ∃ body, tableStepOf i = some (h, body) := by
        simp only [List.mem_cons, Prod.mk.injEq, List.not_mem_nil, or_false] at hmem
        rcases hmem with ⟨rfl, rfl⟩ | ⟨rfl, rfl⟩ | ⟨rfl, rfl⟩ | ⟨rfl, rfl⟩ | ⟨rfl, rfl⟩ | ⟨rfl, rfl⟩ | ⟨rfl, rfl⟩ |
          ⟨rfl, rfl⟩ | ⟨rfl, rfl⟩ | ⟨rfl, rfl⟩ | ⟨rfl, rfl⟩ | ⟨rfl, rfl⟩ | ⟨rfl, rfl⟩ | ⟨rfl, rfl⟩ | ⟨rfl, rfl⟩ |
          ⟨rfl, rfl⟩ | ⟨rfl, rfl⟩ | ⟨rfl, rfl⟩ | ⟨rfl, rfl⟩
        case inr.inl => exact absurd rfl hcleanUp
        all_goals exact ⟨_, rfl⟩
      exact exec_tableStep_waits hbody hwaits

/-! ## Messages and requests that are absent (R94, R171) -/

/-- A notice that is not at the head of the ordered path is not taken. -/
theorem State.takeNotice_absent {s : State} {want : Notice → Option (State → State)}
    (h : ∀ n, s.mail.path.head? = some n → want n = none) : s.takeNotice want = s := by
  unfold State.takeNotice
  split
  · rfl
  · rename_i n rest hpath
    rw [h n (by rw [hpath, List.head?_cons])]

theorem State.hostCommand_absent {s : State} {c : HostCommand} {work : Task → Bool → State → State}
    (h : ∀ task held, ¬s.AtRequest c task held) : s.hostCommand c .request work = s := by
  change s.blockRequest c work = s
  rcases s.blockRequest_cases c work with he | ⟨task, held, he, hengine, hcommand, hclaim⟩
  · exact he
  · exact absurd ⟨hengine, hcommand, hclaim⟩ (h task held)

theorem exec_request_absent {s : State} {i : Instr} {c : HostCommand} {work : Task → Bool → State → State}
    (hi : requestOf i = some (c, .request, work)) (h : ∀ task held, ¬s.AtRequest c task held) : exec i s = .next s :=
  (exec_of_request hi s).trans (congrArg _ (State.hostCommand_absent h))

theorem absentMessages : Clause.absentMessages := by
  intro s
  refine ⟨fun h => ?_, fun h => ?_, fun h => ?_, fun h => ?_, fun h => ?_, fun h => ?_, fun h => ?_, fun h => ?_,
    fun h => ?_, fun h => ?_, fun o => ⟨fun h => ?_, fun h => ?_, fun h => ?_⟩, fun i bit h => ?_, fun i c hmem h => ?_⟩
  case refine_1 =>
    refine congrArg Host.Outcome.next (State.takeNotice_absent fun n hn => ?_)
    cases n with
    | result x => exact absurd hn (h x)
    | _ => rfl
  case refine_2 =>
    refine congrArg Host.Outcome.next (State.takeNotice_absent fun n hn => ?_)
    cases n with
    | entryRetired x => exact absurd hn (h x)
    | _ => rfl
  case refine_3 =>
    refine congrArg Host.Outcome.next (State.takeNotice_absent fun n hn => ?_)
    cases n with
    | entrySuspended x => exact absurd hn (h x)
    | _ => rfl
  case refine_4 =>
    refine congrArg Host.Outcome.next (State.takeNotice_absent fun n hn => ?_)
    cases n with
    | entryDamaged x => exact absurd hn (h x)
    | _ => rfl
  case refine_5 =>
    refine congrArg Host.Outcome.next (State.takeNotice_absent fun n hn => ?_)
    cases n with
    | groupChanged x => exact absurd hn (h x)
    | _ => rfl
  case refine_6 => exact congrArg Host.Outcome.next (by rw [h])
  case refine_7 => exact congrArg Host.Outcome.next (by rw [h])
  case refine_8 => exact congrArg Host.Outcome.next (by rw [h])
  case refine_9 => exact congrArg Host.Outcome.next (by rw [h])
  case refine_10 => exact congrArg Host.Outcome.next (by rw [h])
  case refine_11 => exact congrArg Host.Outcome.next (by rw [h])
  case refine_12 => exact congrArg Host.Outcome.next (by rw [h])
  case refine_13 => exact congrArg Host.Outcome.next (by rw [h])
  case refine_14 => exact congrArg Host.Outcome.next (if_neg fun hin => h (List.contains_iff_mem.1 hin))
  case refine_15 =>
    obtain ⟨work, hwork⟩ : ∃ work, requestOf i = some (c, .request, work) := by
      simp only [List.mem_cons, Prod.mk.injEq, List.not_mem_nil, or_false] at hmem
      rcases hmem with ⟨rfl, rfl⟩ | ⟨rfl, rfl⟩ | ⟨rfl, rfl⟩ | ⟨rfl, rfl⟩ | ⟨rfl, rfl⟩ | ⟨rfl, rfl⟩ | ⟨rfl, rfl⟩ |
        ⟨rfl, rfl⟩ | ⟨rfl, rfl⟩ | ⟨rfl, rfl⟩ | ⟨rfl, rfl⟩ | ⟨rfl, rfl⟩ | ⟨rfl, rfl⟩ | ⟨rfl, rfl⟩
      all_goals exact ⟨_, rfl⟩
    exact exec_request_absent hwork h

end Sys2Proof.Machine

namespace Sys2Proof.Machine

/-- Settles O16: the claim served next is the waiting one of least distance; every step that finds no claim, message or
request of its own is the state itself. -/
theorem rotationServesTheNextWaiting : Obligations.RotationServesTheNextWaiting :=
  ⟨rotation, turns, claimsWaitForTheirTurn, absentMessages⟩

end Sys2Proof.Machine
end

section
/-! SUPPORT. The frames of the host rows (R159 to R161, R169, R176). -/

namespace Sys2Proof.Machine

/-! ## COMMAND words (R169) -/

theorem extractLsb'_append_high (code arg : BitVec 8) : (code ++ arg : Word).extractLsb' 8 8 = code := by
  rw [BitVec.extractLsb'_append_eq_of_le (by decide)]
  simp

theorem extractLsb'_append_low (code arg : BitVec 8) : (code ++ arg : Word).extractLsb' 0 8 = arg := by
  rw [BitVec.extractLsb'_append_eq_of_add_le (by decide)]
  simp

theorem append_extractLsb' (w : Word) : (w.extractLsb' 8 8 ++ w.extractLsb' 0 8 : Word) = w := by
  have hw := w.isLt
  refine BitVec.eq_of_toNat_eq ?_
  rw [BitVec.toNat_append, BitVec.extractLsb'_toNat, BitVec.extractLsb'_toNat, Nat.shiftLeft_eq, Nat.shiftRight_eq_div_pow,
    Nat.shiftRight_zero, ← Nat.shiftLeft_eq, ← Nat.shiftLeft_add_eq_or_of_lt (by omega), Nat.shiftLeft_eq]
  omega

theorem decodeCommandWord_commandWord (c : HostCommand) (arg : BitVec 8) :
    decodeCommandWord (commandWord c arg) = c.writeRow arg := by
  simp only [decodeCommandWord, commandWord, extractLsb'_append_high, extractLsb'_append_low, commandOfCode_code]

theorem decodeCommandWord_append {code : BitVec 8} (h : commandOfCode code = none) (arg : BitVec 8) :
    decodeCommandWord (code ++ arg) = .badCommand code arg := by
  simp only [decodeCommandWord, extractLsb'_append_high, extractLsb'_append_low, h]

/-- A row of a COMMAND write is that of a command, or that of a code without one. -/
theorem commandWordOf_eq_some {i : Instr} {w : Word} (h : commandWordOf i = some w) :
    (∃ c arg, i = HostCommand.writeRow c arg ∧ w = commandWord c arg) ∨
      ∃ code arg, i = .badCommand code arg ∧ w = code ++ arg := by
  unfold commandWordOf at h
  split at h
  case h_1 code arg => exact .inr ⟨code, arg, rfl, (Option.some.inj h).symm⟩
  case h_30 => cases h
  all_goals exact .inl ⟨_, _, rfl, (Option.some.inj h).symm⟩

theorem encodeFrame_writeRow (c : HostCommand) (arg : BitVec 8) :
    encodeFrame (c.writeRow arg) = some (addressByte false 0, commandWord c arg) := by
  cases c <;> rfl

theorem wellFormed_writeRow (c : HostCommand) (arg : BitVec 8) : WellFormed (c.writeRow arg) = true := by
  cases c <;> rfl

theorem decodeFrame_command (w : Word) : decodeFrame (addressByte false 0) w = some (decodeCommandWord w) := rfl

/-! ## Address bytes (R159) -/

/-- An address byte with bits 6 to 3 clear is the one of its read bit and its location. -/
theorem addressByte_of_spare {address : BitVec 8} (hspare : address.extractLsb' 3 4 = 0#4) :
    address = addressByte (address.getLsbD 7) (address.extractLsb' 0 3) := by
  revert address
  decide

/-- A write frame of a location other than COMMAND, TRANSFER and CONTROL is that of an ignored write. -/
theorem decodeFrame_ignored {location : BitVec 3} (hcommand : location ≠ 0) (htransfer : location ≠ 1)
    (hcontrol : location ≠ 2) (w : Word) :
    decodeFrame (addressByte false location) w = some (.ignoredLocationWrite location.toFin w) ∧ 3 ≤ location.toNat := by
  have hcases : location = 3 ∨ location = 4 ∨ location = 5 ∨ location = 6 ∨ location = 7 := by
    clear w
    revert location
    decide
  rcases hcases with rfl | rfl | rfl | rfl | rfl <;> exact ⟨rfl, by decide⟩

/-- A read frame of a location other than FLAGS and TRANSFER is no row. -/
theorem decodeFrame_otherRead {location : BitVec 3} (hflags : location ≠ 0) (htransfer : location ≠ 1) {w : Word} :
    decodeFrame (addressByte true location) w = none := by
  have hcases : location = 2 ∨ location = 3 ∨ location = 4 ∨ location = 5 ∨ location = 6 ∨ location = 7 := by
    clear w
    revert location
    decide
  rcases hcases with rfl | rfl | rfl | rfl | rfl | rfl <;> rfl

/-- The frame of a well-formed host row is decoded to the row. -/
theorem decodeFrame_encodeFrame {i : Instr} {address : BitVec 8} {w : Word} (hi : WellFormed i = true)
    (h : encodeFrame i = some (address, w)) : decodeFrame address w = some i := by
  unfold encodeFrame at h
  split at h
  case h_1 | h_2 | h_3 =>
    obtain ⟨rfl, rfl⟩ := Prod.mk.inj (Option.some.inj h)
    rfl
  case h_4 v =>
    obtain ⟨rfl, rfl⟩ := Prod.mk.inj (Option.some.inj h)
    exact congrArg some (if_pos hi)
  case h_5 v =>
    obtain ⟨rfl, rfl⟩ := Prod.mk.inj (Option.some.inj h)
    exact congrArg some (if_neg (by simpa [WellFormed] using hi))
  case h_6 location v =>
    obtain ⟨rfl, rfl⟩ := Prod.mk.inj (Option.some.inj h)
    match location with
    | 0 | 1 | 2 => cases hi
    | 3 | 4 | 5 | 6 | 7 => rfl
  case h_7 =>
    obtain ⟨v, hv, hframe⟩ := Option.map_eq_some_iff.1 h
    obtain ⟨rfl, rfl⟩ := Prod.mk.inj hframe
    rw [decodeFrame_command]
    rcases commandWordOf_eq_some hv with ⟨c, arg, rfl, rfl⟩ | ⟨code, arg, rfl, rfl⟩
    · rw [decodeCommandWord_commandWord]
    · rw [decodeCommandWord_append (Option.isNone_iff_eq_none.1 hi)]

/-- A COMMAND word is that of the row it spells, which is well-formed. -/
theorem encodeFrame_decodeCommandWord (w : Word) :
    encodeFrame (decodeCommandWord w) = some (addressByte false 0, w) ∧ WellFormed (decodeCommandWord w) = true := by
  have hw := append_extractLsb' w
  unfold decodeCommandWord
  simp only
  split
  · rename_i c hc
    have hcode : c.code = w.extractLsb' 8 8 := by simpa using List.find?_some hc
    rw [encodeFrame_writeRow, commandWord, hcode, hw]
    exact ⟨rfl, wellFormed_writeRow _ _⟩
  · rename_i hc
    refine ⟨?_, Option.isNone_iff_eq_none.2 hc⟩
    change some (addressByte false 0, (w.extractLsb' 8 8 ++ w.extractLsb' 0 8 : Word)) = _
    rw [hw]

/-- The rows that a frame can spell, each with its address byte. -/
theorem decodeFrame_cases {address : BitVec 8} {w : Word} {i : Instr} (h : decodeFrame address w = some i) :
    (address = addressByte true 0 ∧ i = .flagsRead) ∨ (address = addressByte true 1 ∧ i = .transferRead) ∨
      (address = addressByte false 0 ∧ i = decodeCommandWord w) ∨ (address = addressByte false 1 ∧ i = .transferWrite w) ∨
      (address = addressByte false 2 ∧ i = if w.getLsbD 15 then .abort w else .interruptEnableWrite w) ∨
      ∃ location : BitVec 3, 3 ≤ location.toNat ∧ address = addressByte false location ∧
        i = .ignoredLocationWrite location.toFin w := by
  have hspare : address.extractLsb' 3 4 = 0#4 := by
    by_contra hne
    rw [decodeFrame, if_pos hne] at h
    cases h
  have haddress := addressByte_of_spare hspare
  generalize address.extractLsb' 0 3 = location at haddress
  cases hread : address.getLsbD 7 with
  | true =>
    rw [hread] at haddress
    subst haddress
    by_cases hflags : location = 0
    · subst hflags
      exact .inl ⟨rfl, (Option.some.inj h).symm⟩
    by_cases htransfer : location = 1
    · subst htransfer
      exact .inr (.inl ⟨rfl, (Option.some.inj h).symm⟩)
    · rw [decodeFrame_otherRead hflags htransfer] at h
      cases h
  | false =>
    rw [hread] at haddress
    subst haddress
    by_cases hcommand : location = 0
    · subst hcommand
      exact .inr (.inr (.inl ⟨rfl, (Option.some.inj h).symm⟩))
    by_cases htransfer : location = 1
    · subst htransfer
      exact .inr (.inr (.inr (.inl ⟨rfl, (Option.some.inj h).symm⟩)))
    by_cases hcontrol : location = 2
    · subst hcontrol
      exact .inr (.inr (.inr (.inr (.inl ⟨rfl, (Option.some.inj h).symm⟩))))
    · obtain ⟨hignored, hthree⟩ := decodeFrame_ignored hcommand htransfer hcontrol w
      exact .inr (.inr (.inr (.inr (.inr ⟨location, hthree, rfl, Option.some.inj (h.symm.trans hignored)⟩))))

/-- A write frame that spells a row is the frame of that row. -/
theorem encodeFrame_decodeFrame {address : BitVec 8} {w : Word} {i : Instr} (h : decodeFrame address w = some i)
    (hwrite : address.getLsbD 7 = false) : encodeFrame i = some (address, w) ∧ WellFormed i = true := by
  rcases decodeFrame_cases h with ⟨rfl, -⟩ | ⟨rfl, -⟩ | ⟨rfl, rfl⟩ | ⟨rfl, rfl⟩ | ⟨rfl, rfl⟩ | ⟨location, hthree, rfl, rfl⟩
  · exact absurd hwrite (by decide)
  · exact absurd hwrite (by decide)
  · exact encodeFrame_decodeCommandWord w
  · exact ⟨rfl, rfl⟩
  · by_cases habort : w.getLsbD 15 = true
    · rw [if_pos habort]
      exact ⟨rfl, habort⟩
    · rw [if_neg habort]
      exact ⟨rfl, by simpa [WellFormed] using habort⟩
  · exact ⟨by simp [encodeFrame], by simpa [WellFormed] using hthree⟩

end Sys2Proof.Machine

namespace Sys2Proof.Machine

/-- Settles O15: case by case over the rows; the COMMAND word splits into its code and argument and is put together
again. -/
theorem framesSpellTheirCommands : Obligations.FramesSpellTheirCommands :=
  ⟨fun _ _ _ hi h => decodeFrame_encodeFrame hi h, fun _ _ _ h hwrite => encodeFrame_decodeFrame h hwrite⟩

end Sys2Proof.Machine
end

section
/-! SUPPORT. CAPTURE with the clocks and the SELECT of its frame, uncaptured reads, and ignored writes (R159 to R161,
R173, R178). -/

namespace Sys2Proof.Machine

/-! ## The capture of a read (R160, R161, R173) -/

theorem addressByte_isRead (read : Bool) (location : BitVec 3) : isRead (addressByte read location) = read := by
  revert read location
  decide

theorem addressByte_location (read : Bool) (location : BitVec 3) :
    (addressByte read location).extractLsb' 0 3 = location := by
  revert read location
  decide

theorem addressByte_inj {read : Bool} {l m : BitVec 3} : addressByte read l = addressByte read m ↔ l = m := by
  refine ⟨fun h => ?_, fun h => h ▸ rfl⟩
  rw [← addressByte_location read l, h, addressByte_location]

theorem State.captureWord_read (s : State) (location : BitVec 3) :
    s.captureWord (addressByte true location) = s.readLocation location.toNat := by
  rw [State.captureWord, addressByte_isRead, addressByte_location, if_pos rfl]

theorem State.captureWord_write (s : State) (location : BitVec 3) : s.captureWord (addressByte false location) = 0 := by
  rw [State.captureWord, addressByte_isRead]
  exact if_neg Bool.false_ne_true

theorem Engine.offered_isSome (e : Engine) : e.offered.isSome = e.xdir := by
  cases e <;> rfl

theorem State.captureOffer_read (s : State) (location : BitVec 3) :
    s.captureOffer (addressByte true location) = (decide (location = 1) && s.port.engine.xdir) := by
  rw [State.captureOffer, Engine.offered_isSome]
  congr 1
  exact decide_eq_decide.2 addressByte_inj

theorem State.captureOffer_write (s : State) (location : BitVec 3) :
    s.captureOffer (addressByte false location) = false := by
  have hne : addressByte false location ≠ addressByte true 1 := by
    revert location
    decide
  rw [State.captureOffer, decide_eq_false hne, Bool.false_and]

/-- A capture with no frame in progress begins one that has had its address byte. -/
theorem exec_capture_fresh {s : State} (h : s.port.spi = .none) (address : BitVec 8) :
    exec (.capture (.addressByte address)) s = .next { s with port := { s.port with
      spi := .frame { clocks := 8, address := address, data := 0, word := s.captureWord address
                      offered := s.captureOffer address, void := false }
      miso := s.captureWord address } } := by
  change Host.Outcome.next (s.captureShift (s.port.spi.completed address)) = _
  rw [h] <;> rfl

theorem captures : Clause.captures := by
  intro location s hspi captured
  refine ⟨⟨_, exec_capture_fresh hspi _, ?_, ?_⟩, ?_⟩
  · rw [s.captureWord_read]
    have hoffered : s.port.engine.offered.getD 0 = match s.port.engine with
        | .result _ _ w _ _ => w
        | _ => 0 := by
      cases s.port.engine <;> rfl
    have hword : s.readLocation location.toNat = match location.toNat with
        | 0 => s.flagsWord
        | 1 => match s.port.engine with
          | .result _ _ w _ _ => w
          | _ => 0
        | 2 => s.controlWord
        | 3 => s.port.completion.word
        | 4 => s.port.attention.word
        | _ => 0 := by
      unfold State.readLocation
      rw [hoffered] <;> rfl
    rw [hword] <;> rfl
  · simp only [captured, s.captureOffer_read]
  · rw [exec_capture_fresh hspi, s.captureWord_write, s.captureOffer_write]

/-! ## Clocks (R159, R160) -/

/-- One more bit of a word, MSB first. -/
theorem shiftConcat_eq {n : Nat} (x : BitVec n) (b : Bool) :
    x.shiftConcat b = BitVec.ofNat n (2 * x.toNat + if b then 1 else 0) := by
  refine BitVec.eq_of_toNat_eq ?_
  rw [BitVec.toNat_shiftConcat, BitVec.toNat_ofNat, Nat.shiftLeft_eq]
  congr 1
  cases b <;> simp only [Bool.toNat_true, Bool.toNat_false, if_true, Bool.false_eq_true, if_false] <;> omega

section
variable {s : State} (hspi : s.port.spi = .none)
include hspi

theorem State.selectFalls_high : s.selectFalls = s.setSpi (.frame SpiShift.begun) := by
  rw [State.selectFalls, hspi]

theorem State.spiClock_high (mosi : Bool) : s.spiClock mosi = s := by
  rw [State.spiClock, hspi]

theorem State.selectRises_high : s.selectRises = s := by
  rw [State.selectRises, hspi]

end

theorem State.selectFalls_low {s : State} {f : SpiShift} (hspi : s.port.spi = .frame f) : s.selectFalls = s := by
  rw [State.selectFalls, hspi]

theorem frameClocks : Clause.frameClocks := by
  intro s mosi put
  refine ⟨fun hspi => ⟨?_, ?_, ?_⟩, fun f hspi => ?_⟩
  · exact congrArg Host.Outcome.next (State.selectFalls_high hspi)
  · exact congrArg Host.Outcome.next (State.spiClock_high hspi mosi)
  · rw [State.misoLevel, hspi]
  intro bit shifted
  have hshift : f.shift mosi = shifted := by
    simp only [SpiShift.shift, shiftConcat_eq, shifted, bit]
  have hclock : s.spiClock mosi = if f.clocks = 7 then s.captureShift shifted else s.setSpi (.frame shifted) := by
    simp only [State.spiClock, hspi, hshift]
  have hmiso : s.misoLevel = f.misoBit := by
    rw [State.misoLevel, hspi]
  refine ⟨congrArg Host.Outcome.next (State.selectFalls_low hspi), fun hplain => ?_, fun hseven hvoid => ?_,
    fun hout => ?_, fun hfrom hto => ?_⟩
  · refine congrArg Host.Outcome.next (hclock.trans ?_)
    split
    · have hvoid : shifted.void = true := hplain.resolve_left (not_not_intro ‹_›)
      exact if_pos hvoid
    · rfl
  · have hshifted : ¬shifted.void = true := by
      change ¬f.void = true
      rw [hvoid]
      decide
    refine congrArg Host.Outcome.next (hclock.trans ?_)
    rw [if_pos hseven]
    exact if_neg hshifted
  · exact hmiso.trans (if_neg (by omega))
  · exact hmiso.trans (if_pos ⟨hfrom, hto⟩)

/-! ## SELECT rises (R159, R160, R178) -/

/-- The end of a void write frame has no effect. -/
theorem State.writeFrame_void {s t : State} {address : BitVec 8} {w : Word} (h : s.frameEnd address w = (none, t))
    (effect : State → State) : s.writeFrame address w effect = t := by
  rw [State.writeFrame, h]

theorem exec_decodeCommandWord (w : Word) (s : State) :
    exec (decodeCommandWord w) s = .next (s.commandWrite (w.extractLsb' 8 8) (w.extractLsb' 0 8)) := by
  unfold decodeCommandWord
  simp only
  split
  · rename_i c hc
    have hcode : c.code = w.extractLsb' 8 8 := by simpa using List.find?_some hc
    rw [exec_writeRow, hcode]
  · rfl

/-- A row that the bits of a void frame spell does nothing but end it. -/
theorem exec_of_void {s : State} {f : SpiShift} {i : Instr} (hspi : s.port.spi = .frame f) (hclocks : f.clocks = 24)
    (hvoid : f.void = true) (hi : decodeFrame f.address f.data = some i) : exec i s = .next (s.setSpi .none) := by
  have hwrite : f.fits f.address f.data = true := by
    simp [SpiShift.fits, hclocks]
  have hread : ∀ {address}, f.address = address → isRead address = true → s.frameEnd address 0 = (none, s.setSpi .none) :=
    fun haddress hread =>
      State.frameEnd_of_void hspi (SpiShift.fits_of_read 0 hread haddress (by omega) (by omega)) hvoid
  have hend := State.frameEnd_of_void hspi hwrite hvoid
  rcases decodeFrame_cases hi with ⟨ha, rfl⟩ | ⟨ha, rfl⟩ | ⟨ha, rfl⟩ | ⟨ha, rfl⟩ | ⟨ha, rfl⟩ | ⟨location, -, ha, rfl⟩
  · exact exec_flagsRead_of_noWord (hread ha rfl)
  · refine congrArg Host.Outcome.next ?_
    rw [State.transferRead, hread ha rfl]
  · rw [ha] at hend
    rw [exec_decodeCommandWord, State.commandWrite, append_extractLsb', State.writeFrame_void hend]
  · rw [ha] at hend
    exact congrArg Host.Outcome.next (State.writeFrame_void hend _)
  · rw [ha] at hend
    split <;> exact congrArg Host.Outcome.next (State.writeFrame_void hend _)
  · rw [ha] at hend
    exact congrArg Host.Outcome.next ((congrArg (fun a => s.writeFrame a f.data id) (by simp)).trans
      (State.writeFrame_void hend _))

theorem frameEndings : Clause.frameEndings := by
  intro s ended
  refine ⟨fun hspi => ?_, fun f hspi => ⟨fun hno => ?_, fun i hclocks hi => ⟨?_, fun hvoid => exec_of_void hspi hclocks hvoid hi⟩⟩⟩
  · exact congrArg Host.Outcome.next (State.selectRises_high hspi)
  · refine congrArg Host.Outcome.next (?_ : s.selectRises = _)
    simp only [State.selectRises, hspi]
    split
    · rw [hno.resolve_left (not_not_intro ‹_›)] <;> rfl
    · rfl
  · rw [(exec_rowFrameEnd s hi).1]
    refine congrArg Host.Outcome.next (?_ : s.selectRises = _)
    simp only [State.selectRises, hspi, hclocks, hi, if_true]

/-! ## Uncaptured reads and ignored writes (R161, R163) -/

theorem uncapturedReads : Clause.uncapturedReads := by
  intro s hspi
  have hend : s.frameEnd (addressByte true 0) 0 =
      (some (s.flagsWord, s.captureOffer (addressByte true 0)), s.frameOver s.flagsWord) := by
    rw [State.frameEnd, hspi] <;> rfl
  obtain ⟨-, -, -, -, hdone, hfault, hcollide, -⟩ := s.flagsFields
  refine (exec_flagsRead_of_word hend).trans (congrArg Host.Outcome.next ?_)
  have hshown : ∀ (b : Bool) (k : Nat), s.flagsWord.getLsbD k = b → (b && !s.flagsWord.getLsbD k) = false :=
    fun b k h => by rw [h, Bool.and_not_self]
  simp only [State.clearReturned, State.frameOver, State.setPort, hshown _ _ hdone, hshown _ _ hfault,
    hshown _ _ hcollide, ← hspi]

/-- A write frame without an effect is over, whatever a reset has made of it. -/
theorem State.writeFrame_id (s : State) (address : BitVec 8) (w : Word) :
    ∃ miso, s.writeFrame address w id = s.frameOver miso := by
  by_cases hstands : s.FrameStands address w
  · obtain ⟨miso, hmiso⟩ := State.writeFrame_stands hstands
    exact ⟨miso, hmiso id⟩
  · obtain ⟨f, hspi, hfits, hvoid⟩ : ∃ f, s.port.spi = .frame f ∧ f.fits address w = true ∧ f.void = true := by
      simpa [State.FrameStands] using hstands
    exact ⟨s.port.miso, State.writeFrame_void (State.frameEnd_of_void hspi hfits hvoid) id⟩

theorem ignoredWrites : Clause.ignoredWrites := by
  intro location w s _
  obtain ⟨miso, hmiso⟩ := s.writeFrame_id (addressByte false (BitVec.ofNat 3 location.val)) w
  exact ⟨s.frameOver miso, congrArg _ hmiso, rfl⟩

end Sys2Proof.Machine

namespace Sys2Proof.Machine

/-- Settles O24: the capture, the clocks and the frame end, each by the cases of the frame in progress. -/
theorem readFramesAndIgnoredWrites : Obligations.ReadFramesAndIgnoredWrites :=
  ⟨captures, frameClocks, frameEndings, uncapturedReads, ignoredWrites⟩

end Sys2Proof.Machine
end

section
/-! SUPPORT. TRANSFER writes of an awaited word, the check of each word, and where a run word goes (R4, R51, R170, R173,
R183 to R199). -/

namespace Sys2Proof.Machine

/-! ## Where a run word goes (R48, R51) -/

/-- The cells of a pool in which run `k`, from 0, of the chain has been written. -/
theorem Pool.writeRun_eq {p : Pool} {chain : List CellNo} {k : Nat} {c : CellNo} (h : chain[k / 8]? = some c) (w : Word) :
    p.writeRun chain (k + 1) w = p.modifyCell c (fun cell =>
      { cell with runs := cell.runs.set (k % 8) ⟨w, parityOf w⟩ (Nat.mod_lt _ (by decide)) }) := by
  have hplace : runPlace chain (k + 1) = some (c, Fin.ofNat 8 k) := by
    simp only [runPlace, Nat.add_sub_cancel, h, Option.map_some]
  simp only [Pool.writeRun, hplace] <;> rfl

/-- A run word written into its place of a chain: one cell has a new run there, and no other run changes. -/
theorem State.writeRun_written {s t : State} {chain : List CellNo} {k : Nat} {c : CellNo} {w : Word}
    (ht : t = s.setPool (s.pool.writeRun chain (k + 1) w)) (h : chain[k / 8]? = some c) :
    ∃ p, t = { s with pool := p } ∧ p = { s.pool with cells := p.cells } ∧
      (∀ d : CellNo, d ≠ c → p.cells[d] = s.pool.cells[d]) ∧
      p.cells[c] = { s.pool.cells[c] with
        runs := s.pool.cells[c].runs.set (k % 8) ⟨w, parityOf w⟩ (Nat.mod_lt _ (by decide)) } := by
  rw [Pool.writeRun_eq h] at ht
  refine ⟨_, ht, rfl, fun d hd => ?_, ?_⟩
  · rw [Pool.modifyCell_cells, if_neg (Ne.symm hd)]
  · rw [Pool.modifyCell_cells, if_pos rfl]

theorem runWords : Clause.runWords := by
  intro s task w n j c hcommand hn hlength hj hplace
  have hindex : runIndex task = some j := by
    simp only [runIndex, hcommand, hlength, Nat.le_add_right, if_true, Nat.add_sub_cancel_left]
  have hstored : s.storeRun task w =
      s.setPool (s.pool.writeRun (s.runTarget task j).1 (s.runTarget task j).2 w) := by
    simp only [State.storeRun, hindex]
  obtain ⟨chain, htarget, hchain⟩ : ∃ chain, s.runTarget task j = (chain, (if j < n then j else j - n) + 1) ∧
      chain[(if j < n then j else j - n) / 8]? = some c := by
    simp only [State.runTarget, hcommand, hn]
    by_cases hmain : j < n
    · rw [if_pos hmain] at hplace
      refine ⟨(reservationParts n s.pool.reservation).1, by rw [if_pos hmain, if_pos hmain], ?_⟩
      rw [if_pos hmain, ← hplace]
      exact List.getElem?_take_of_lt (by rw [cellsFor]; omega)
    · rw [if_neg hmain] at hplace
      refine ⟨(reservationParts n s.pool.reservation).2, by rw [if_neg hmain, if_neg hmain], ?_⟩
      rw [if_neg hmain, ← hplace]
      exact List.getElem?_drop
  rw [htarget] at hstored
  exact State.writeRun_written hstored hchain

theorem repeatRunWords : Clause.repeatRunWords := by
  intro s task w j c hcommand hlength hplace
  have hstored : s.storeRun task w = s.setPool (s.pool.writeRun s.pool.reservation (j + 1) w) := by
    rcases hcommand with hcommand | hcommand <;>
      simp only [State.storeRun, runIndex, hcommand, hlength, Nat.le_add_right, if_true, Nat.add_sub_cancel_left,
        State.runTarget]
  exact State.writeRun_written hstored hplace

theorem otherWords : Clause.otherWords := by
  intro s task w hinstall hgroup
  have hindex : runIndex task = none := by
    unfold runIndex
    cases hcommand : task.command with
    | entryInstall => exact if_neg (Nat.not_le.2 (hinstall hcommand))
    | groupDefine => exact if_neg (Nat.not_le.2 (hgroup (.inl hcommand)))
    | groupEdit => exact if_neg (Nat.not_le.2 (hgroup (.inr hcommand)))
    | _ => rfl
  rw [State.storeRun, hindex]

/-! ## An awaited word is taken (R170, R173) -/

theorem State.storeRun_frameOver (s : State) (miso : Word) (task : Task) (w : Word) :
    (s.frameOver miso).storeRun task w = { s.frameOver miso with pool := (s.storeRun task w).pool } := by
  unfold State.storeRun
  cases runIndex task <;> rfl

theorem State.transferWrite_taken {s : State} {task : Task} {since : Time} {w : Word}
    (hengine : s.port.engine = .parameter task (.word since)) (hframe : s.FrameStands (addressByte false 1) w) :
    ∃ miso, s.transferWrite w = (s.frameOver miso).takeWord task w := by
  obtain ⟨miso, hmiso⟩ := State.writeFrame_stands hframe
  refine ⟨miso, (hmiso _).trans ?_⟩
  have hover : (s.frameOver miso).port.engine = .parameter task (.word since) := hengine
  simp only [hover]

section
variable {s : State} {task : Task} {w : Word}

theorem State.takeWord_refused {outcome : HostOutcome} (h : wordVerdict task w = .refused outcome) :
    s.takeWord task w = s.endOrCleanUp task outcome := by
  simp only [State.takeWord, h]

theorem State.takeWord_next (h : wordVerdict task w = .next) :
    s.takeWord task w = (s.storeRun task w).requestWord { task with words := task.words ++ [w] } := by
  simp only [State.takeWord, h]

theorem State.takeWord_step (h : wordVerdict task w = .step) :
    s.takeWord task w = s.enterStep { task with words := task.words ++ [w] } := by
  simp only [State.takeWord, h]

theorem State.takeWord_last (h : wordVerdict task w = .last) :
    s.takeWord task w = (s.storeRun task w).enterExecute { task with words := task.words ++ [w] } := by
  simp only [State.takeWord, h]

end

theorem transferWrites : Clause.transferWrites := by
  intro w s task since hengine hframe
  obtain ⟨miso, htaken⟩ := State.transferWrite_taken hengine hframe
  have hexec : exec (.transferWrite w) s = .next ((s.frameOver miso).takeWord task w) := congrArg _ htaken
  cases hverdict : wordVerdict task w with
  | refused outcome =>
    rw [State.takeWord_refused hverdict] at hexec
    by_cases hfree : s.pool.reservation = []
    · rw [State.endOrCleanUp_free (s := s.frameOver miso) hfree] at hexec
      refine ⟨_, hexec, rfl, fun o ho => ?_, nofun, nofun, nofun⟩
      obtain rfl := WordVerdict.refused.inj ho
      exact ⟨rfl, fun _ => ⟨rfl, rfl⟩, fun hreserved => absurd hfree hreserved⟩
    · rw [State.endOrCleanUp_reserved (s := s.frameOver miso) hfree] at hexec
      refine ⟨_, hexec, rfl, fun o ho => ?_, nofun, nofun, nofun⟩
      obtain rfl := WordVerdict.refused.inj ho
      exact ⟨rfl, fun h => absurd h hfree, fun _ => ⟨rfl, rfl⟩⟩
  | next =>
    rw [State.takeWord_next hverdict, State.storeRun_frameOver] at hexec
    exact ⟨_, hexec, rfl, nofun, nofun, fun _ => ⟨rfl, rfl, rfl⟩, nofun⟩
  | step =>
    rw [State.takeWord_step hverdict] at hexec
    exact ⟨_, hexec, rfl, nofun, fun _ => ⟨rfl, rfl, rfl⟩, nofun, nofun⟩
  | last =>
    rw [State.takeWord_last hverdict, State.storeRun_frameOver, State.enterExecute_eq] at hexec
    exact ⟨_, hexec, rfl, nofun, nofun, nofun, fun _ => ⟨rfl, rfl, rfl⟩⟩

/-! ## The check of each word (R4, R170, R183 to R199) -/

/-- A word that is accepted or refused BAD_PARAMETER. -/
theorem accept_taken {verdict v : WordVerdict} {ok : Bool} {P : Prop} (hverdict : verdict = accept ok v)
    (hok : ok = true ↔ P) : (P → verdict = v) ∧ (¬P → verdict = .refused .badParameter) :=
  ⟨fun hp => hverdict.trans (if_pos (hok.2 hp)), fun hp => hverdict.trans (if_neg (hok.not.2 hp))⟩

/-- A run word that is accepted or refused BAD_RUN. -/
theorem runVerdict_taken {verdict : WordVerdict} {w : Word} {k total : Nat} (hverdict : verdict = runVerdict w (k + 1) total) :
    (16 ≤ w.toNat ∧ w.toNat ≤ 60000 → verdict = if k + 1 < total then .next else .last) ∧
      (¬(16 ≤ w.toNat ∧ w.toNat ≤ 60000) → verdict = .refused .badRun) := by
  have haccepted : runAccepted w = true ↔ 16 ≤ w.toNat ∧ w.toNat ≤ 60000 := decide_eq_true_iff
  exact ⟨fun h => hverdict.trans (if_pos (haccepted.2 h)), fun h => hverdict.trans (if_neg (haccepted.not.2 h))⟩

theorem dutyOfField_isSome {n : Nat} (h : n < 4) : (dutyOfField n).isSome = true ↔ 1 ≤ n := by
  match n, h with
  | 0, _ | 1, _ | 2, _ | 3, _ => decide

/-- The check of the words of GROUP DEFINE and GROUP EDIT. -/
theorem groupWords (choices : Nat) (task : Task) (w : Word) {verdict : WordVerdict}
    (hverdict : verdict = groupWordVerdict choices task w) :
    let k := task.words.length
    let field := fun (lo len : Nat) => w.toNat / 2 ^ lo % 2 ^ len
    let taken := fun (ok : Prop) (v : WordVerdict) => (ok → verdict = v) ∧ (¬ok → verdict = .refused .badParameter)
    (k = 0 → taken (1 ≤ field 4 2 ∧ field 12 2 ≤ choices) .next) ∧
    (k = 1 → taken ((field 0 8 = 0 ∨ 40 ≤ field 0 8 ∧ field 0 8 ≤ 120) ∧ 1 ≤ field 8 4) .next) ∧
    (k = 2 → taken (40 ≤ field 0 8 ∧ field 0 8 ≤ 120) .next) ∧
    (k = 3 → taken (40 ≤ w.toNat ∧ w.toNat ≤ 1000) .next) ∧
    (k = 4 → taken (30 ≤ w.toNat ∧ w.toNat ≤ 300) .next) ∧
    (k = 5 → taken (w.toNat ≤ 120) (if (task.word 0).toNat / 2 ^ 12 % 4 = 1 then .next else .last)) ∧
    (k = 6 → verdict = .step) ∧
    (7 ≤ k → (16 ≤ w.toNat ∧ w.toNat ≤ 60000 → verdict = if k + 1 < 7 + (task.word 6).toNat then .next else .last) ∧
      (¬(16 ≤ w.toNat ∧ w.toNat ≤ 60000) → verdict = .refused .badRun)) := by
  intro k field taken
  have hsettings : k < 5 → verdict = accept (settingsWordAccepted choices k w) .next := fun hk =>
    hverdict.trans (if_pos hk)
  refine ⟨fun hk => accept_taken (hsettings (by omega)) ?_, fun hk => accept_taken (hsettings (by omega)) ?_,
    fun hk => accept_taken (hsettings (by omega)) ?_, fun hk => accept_taken (hsettings (by omega)) ?_,
    fun hk => accept_taken (hsettings (by omega)) ?_, fun hk => ?_, fun hk => ?_, fun hk => ?_⟩
  · rw [hk]
    simp only [settingsWordAccepted, Bool.and_eq_true, decide_eq_true_iff, repeatChoice, bitField_eq_div]
    rw [dutyOfField_isSome (n := w.toNat / 2 ^ 4 % 2 ^ 2) (Nat.mod_lt _ (by decide))]
  · rw [hk]
    simp only [settingsWordAccepted, decide_eq_true_iff, bitField_eq_div, field]
  · rw [hk]
    simp only [settingsWordAccepted, decide_eq_true_iff, bitField_eq_div, field]
  · rw [hk]
    exact decide_eq_true_iff
  · rw [hk]
    exact decide_eq_true_iff
  · refine accept_taken (ok := settingsWordAccepted choices k w) ?_ (by rw [hk]; exact decide_eq_true_iff)
    have hfive : verdict = accept (settingsWordAccepted choices k w) (if repeatChoice (task.word 0) = 1 then .next else .last) :=
      hverdict.trans ((if_neg (by omega)).trans (if_pos hk))
    rw [hfive, repeatChoice, bitField_eq_div] <;> rfl
  · exact hverdict.trans ((if_neg (by omega)).trans ((if_neg (by omega)).trans (if_pos hk)))
  · exact runVerdict_taken (hverdict.trans ((if_neg (by omega)).trans ((if_neg (by omega)).trans (if_neg (by omega)))))

/-- The check of the words of ENTRY INSTALL. -/
theorem installWords (task : Task) (w : Word) (hcommand : task.command = .entryInstall) :
    let k := task.words.length
    let verdict := wordVerdict task w
    (k < 2 → verdict = .next) ∧ (k = 2 → verdict = .step) ∧
      (3 ≤ k → (16 ≤ w.toNat ∧ w.toNat ≤ 60000 → verdict =
          if k + 1 < 3 + (if (task.word 0).getLsbD 8 then 2 else 1) * (task.word 2).toNat then .next else .last) ∧
        (¬(16 ≤ w.toNat ∧ w.toNat ≤ 60000) → verdict = .refused .badRun)) := by
  intro k verdict
  have hverdict : verdict = if k < 2 then .next else if k = 2 then .step else runVerdict w (k + 1) task.installTotal := by
    simp only [verdict, wordVerdict, hcommand, k]
  have htotal : task.installTotal = 3 + (if (task.word 0).getLsbD 8 then 2 else 1) * (task.word 2).toNat := by
    by_cases halternate : (task.word 0).getLsbD 8 = true
    · simp only [Task.installTotal, installAlternate, halternate, if_true]
    · simp only [Task.installTotal, installAlternate, halternate, Bool.false_eq_true, if_false, Nat.one_mul]
  rw [htotal] at hverdict
  refine ⟨fun hk => hverdict.trans (if_pos hk), fun hk => hverdict.trans ((if_neg (by omega)).trans (if_pos hk)),
    fun hk => runVerdict_taken (hverdict.trans ((if_neg (by omega)).trans (if_neg (by omega))))⟩

theorem relayWordAccepted_iff (w : Word) : relayWordAccepted w = true ↔
    w.toNat / 2 ^ 0 % 2 ^ 4 ≠ 0 ∧ w.toNat / 2 ^ 4 % 2 ^ 2 ≠ 0 ∧
      (w.toNat / 2 ^ 8 % 2 ^ 1 = 0 → w.toNat / 2 ^ 12 % 2 ^ 4 ≠ 0) := by
  have hinput : relayInputMask w ≠ 0 ↔ w.toNat / 2 ^ 0 % 2 ^ 4 ≠ 0 := by
    rw [relayInputMask, bitField_eq_div, Ne, BitVec.toNat_eq, BitVec.toNat_ofNat, Nat.mod_mod]
    rfl
  have houtput : relayOutputMask w ≠ 0 ↔ w.toNat / 2 ^ 4 % 2 ^ 2 ≠ 0 := by
    rw [relayOutputMask, bitField_eq_div, Ne, BitVec.toNat_eq, BitVec.toNat_ofNat, Nat.mod_mod]
    rfl
  simp only [relayWordAccepted, Bool.and_eq_true, Bool.or_eq_true, decide_eq_true_iff, hinput, houtput, getLsbD_eq_decide,
    bitField_eq_div, and_assoc]
  omega

theorem groupAndEntryWords : Clause.groupAndEntryWords := by
  intro task w k verdict field taken run
  refine ⟨fun choices hchoices => groupWords choices task w ?_, fun hcommand => installWords task w hcommand,
    fun hcommand => ?_, fun hcommand => ?_, fun hcommand => ?_, fun hcommand => accept_taken (ok := decide (w.toNat ≤ 63)) ?_
      decide_eq_true_iff⟩
  · rcases hchoices with ⟨hcommand, rfl⟩ | ⟨hcommand, rfl⟩ <;> simp only [verdict, wordVerdict, hcommand]
  · have hverdict : verdict = if k < 2 then .next else .last := by
      simp only [verdict, wordVerdict, hcommand, k]
    exact ⟨fun hk => hverdict.trans (if_pos hk), fun hk => hverdict.trans (if_neg (by omega))⟩
  · simp only [List.mem_cons, List.not_mem_nil, or_false] at hcommand
    rcases hcommand with hc | hc | hc | hc | hc | hc | hc | hc <;> simp only [verdict, wordVerdict, hc]
  · have hverdict : verdict = if k < 2 then .next else accept (relayWordAccepted w) .last := by
      simp only [verdict, wordVerdict, hcommand, k]
    exact ⟨fun hk => hverdict.trans (if_pos hk),
      fun hk => accept_taken (hverdict.trans (if_neg (by omega))) (relayWordAccepted_iff w)⟩
  · simp only [verdict, wordVerdict, hcommand]

theorem inputAndOutputWords : Clause.inputAndOutputWords := by
  intro task w k verdict taken
  have hkind : decide (bitField w 0 2 ≤ 2) = true ↔ w.toNat % 4 ≤ 2 := by
    rw [decide_eq_true_iff, bitField_eq_div, Nat.pow_zero, Nat.div_one] <;> rfl
  refine ⟨fun hcommand => ?_, fun hcommand => ?_, fun hcommand => ?_, fun hcommand => ?_, rfl, rfl, rfl⟩
  · have hverdict : verdict = accept (inputWordAccepted k w) (if k < 2 then .next else .last) := by
      simp only [verdict, wordVerdict, hcommand, k]
    refine ⟨fun hk => ?_, fun hk => ?_, fun hk => ?_⟩ <;> rw [hk] at hverdict
    · exact accept_taken hverdict hkind
    · exact accept_taken hverdict decide_eq_true_iff
    · exact accept_taken hverdict decide_eq_true_iff
  · have hverdict : verdict = accept (outputWordAccepted k w) (if k < 2 then .next else .last) := by
      simp only [verdict, wordVerdict, hcommand, k]
    refine ⟨fun hk => ?_, fun hk => ?_, fun hk => ?_⟩ <;> rw [hk] at hverdict
    · exact accept_taken hverdict hkind
    · exact accept_taken hverdict decide_eq_true_iff
    · exact accept_taken hverdict decide_eq_true_iff
  · have hverdict : verdict = if k = 0 then .next else accept (decide (1 ≤ sendCount w)) .last := by
      simp only [verdict, wordVerdict, hcommand, k]
    refine ⟨fun hk => hverdict.trans (if_pos hk), fun hk => accept_taken (hverdict.trans (if_neg (by omega))) ?_⟩
    rw [decide_eq_true_iff, sendCount, bitField_eq_div, Nat.pow_zero, Nat.div_one] <;> rfl
  · have hverdict : verdict = if k = 0 then .next else .last := by
      simp only [verdict, wordVerdict, hcommand, k]
    exact ⟨fun hk => hverdict.trans (if_pos hk), fun hk => hverdict.trans (if_neg (by omega))⟩

end Sys2Proof.Machine

namespace Sys2Proof.Machine

/-- Settles O21: the cases of the verdict of the word, the verdict of each word by its index, and the one cell and place a
run word goes to. -/
theorem transferWriteTakesTheWord : Obligations.TransferWriteTakesTheWord :=
  ⟨transferWrites, groupAndEntryWords, inputAndOutputWords, runWords, repeatRunWords, otherWords⟩

end Sys2Proof.Machine
end

section
/-! SUPPORT. How a run is read, and how a candidate is compared with a burst run by run (R7, R12, R48, R51, R57). -/

namespace Sys2Proof.Machine

/-! ## The read of one run (R48, R57) -/

section
variable {p : Pool} {chain : List CellNo} {k : Nat}

theorem Pool.readRun_at {c : CellNo} (h : chain[k / 8]? = some c) :
    let run := p.cells[c].runs[k % 8]'(Nat.mod_lt _ (by decide))
    p.readRun chain (k + 1) =
      if p.cells[c].fault || (parityOf run.value != run.parity) then .unreadable c else .value run.value.toNat := by
  have hplace : runPlace chain (k + 1) = some (c, Fin.ofNat 8 k) := by
    simp only [runPlace, Nat.add_sub_cancel, h, Option.map_some]
  simp only [Pool.readRun, hplace] <;> rfl

theorem Pool.readRun_beyond (h : chain[k / 8]? = none) : p.readRun chain (k + 1) = .absent := by
  have hplace : runPlace chain (k + 1) = none := by
    simp only [runPlace, Nat.add_sub_cancel, h, Option.map_none]
  simp only [Pool.readRun, hplace]

theorem Pool.readRun_readable {c : CellNo} (h : chain[k / 8]? = some c) :
    let run := p.cells[c].runs[k % 8]'(Nat.mod_lt _ (by decide))
    let readable := p.cells[c].fault = false ∧ run.parity = parityOf run.value
    (readable → p.readRun chain (k + 1) = .value run.value.toNat) ∧
      (¬readable → p.readRun chain (k + 1) = .unreadable c) := by
  intro run readable
  have hbad : (p.cells[c].fault || (parityOf run.value != run.parity)) = true ↔ ¬readable := by
    rw [Bool.or_eq_true, bne_iff_ne, not_and_or, Bool.not_eq_false, ne_comm]
  rw [Pool.readRun_at h]
  exact ⟨fun hreadable => if_neg (hbad.not.2 (not_not_intro hreadable)), fun hnot => if_pos (hbad.2 hnot)⟩

end

/-! ## Parity (R48) -/

theorem foldl_xor_not (f : Nat → Bool) (l : List Nat) (a : Bool) :
    l.foldl (fun acc j => acc ^^ f j) (!a) = !l.foldl (fun acc j => acc ^^ f j) a := by
  induction l generalizing a with
  | nil => rfl
  | cons j l ih => rw [List.foldl_cons, List.foldl_cons, Bool.not_xor, ih]

/-- The exclusive or of the bits at a list of places, when the bit of one place is turned over. -/
theorem foldl_xor_flip {f g : Nat → Bool} {k : Nat} (hg : ∀ j, g j = (f j ^^ decide (j = k))) (l : List Nat)
    (hl : l.Nodup) (a : Bool) :
    l.foldl (fun acc j => acc ^^ g j) a = (l.foldl (fun acc j => acc ^^ f j) a ^^ decide (k ∈ l)) := by
  induction l generalizing a with
  | nil => simp
  | cons j l ih =>
    obtain ⟨hj, hl⟩ := List.nodup_cons.1 hl
    rw [List.foldl_cons, List.foldl_cons, ih hl]
    by_cases hk : j = k
    · subst hk
      have hflip : (a ^^ g j) = !(a ^^ f j) := by
        rw [hg, decide_eq_true rfl, Bool.xor_true, Bool.xor_not]
      rw [hflip, foldl_xor_not, decide_eq_false hj, decide_eq_true (List.mem_cons_self ..), Bool.xor_true, Bool.xor_false]
    · have hkeep : g j = f j := by
        rw [hg, decide_eq_false hk, Bool.xor_false]
      rw [hkeep, decide_eq_decide.2 (show k ∈ l ↔ k ∈ j :: l by simp [Ne.symm hk])]

theorem parityOf_flip (w : Word) (k : Fin 16) : parityOf (w ^^^ BitVec.twoPow 16 k.val) = !parityOf w := by
  have hbit : ∀ j, (w ^^^ BitVec.twoPow 16 k.val).getLsbD j = (w.getLsbD j ^^ decide (j = k.val)) := fun j => by
    have hlt := k.isLt
    rw [BitVec.getLsbD_xor, BitVec.getLsbD_twoPow]
    by_cases hj : k.val = j
    · simp only [hj, decide_true, Bool.and_true]
      rw [decide_eq_true (hj ▸ hlt)]
    · simp only [hj, Ne.symm hj, decide_false, Bool.and_false]
  have hin : k.val ∈ List.range 16 := List.mem_range.2 k.isLt
  rw [parityOf, foldl_xor_flip hbit _ List.nodup_range, decide_eq_true hin, Bool.xor_true]
  rfl

theorem runReads : Clause.runReads :=
  ⟨fun _ _ _ => ⟨fun _ h => Pool.readRun_readable h, Pool.readRun_beyond⟩, parityOf_flip⟩

/-! ## A candidate compared run by run (R7, R88) -/

/-- Run `k`, from 0, of a burst lies in the window of the run that stands there in the candidate. -/
def RunInside (pool : Pool) (c : Contender) (k b : Nat) : Prop :=
  ∃ d, pool.readRun c.chain (k + 1) = .value d ∧ inWindow c.tolerance d b = true

section
variable {pool : Pool} {c : Contender} {k b : Nat} {rest : List (Nat × Nat)}

theorem compareCandidate_inside (h : RunInside pool c k b) :
    compareCandidate pool c ((b, k + 1) :: rest) = compareCandidate pool c rest := by
  obtain ⟨d, hread, hwindow⟩ := h
  rw [compareCandidate, hread]
  exact if_pos hwindow

theorem compareCandidate_fault {cell : CellNo} (h : pool.readRun c.chain (k + 1) = .unreadable cell) :
    compareCandidate pool c ((b, k + 1) :: rest) = .fault cell := by
  rw [compareCandidate, h]

theorem compareCandidate_apart (hinside : ¬RunInside pool c k b)
    (hfault : ∀ cell, pool.readRun c.chain (k + 1) ≠ .unreadable cell) :
    compareCandidate pool c ((b, k + 1) :: rest) = .apart := by
  rw [compareCandidate]
  cases hread : pool.readRun c.chain (k + 1) with
  | value d => exact if_neg fun hwindow => hinside ⟨d, hread, hwindow⟩
  | unreadable cell => exact absurd hread (hfault cell)
  | absent => rfl

end

theorem compareCandidate_matched (pool : Pool) (c : Contender) (runs : List Nat) (n : Nat) :
    compareCandidate pool c (runs.zipIdx (n + 1)) = .matched ↔
      ∀ k (h : k < runs.length), RunInside pool c (n + k) runs[k] := by
  induction runs generalizing n with
  | nil => exact ⟨fun _ _ h => absurd h (Nat.not_lt_zero _), fun _ => rfl⟩
  | cons b runs ih =>
    rw [List.zipIdx_cons]
    by_cases hinside : RunInside pool c n b
    · rw [compareCandidate_inside hinside, ih (n + 1)]
      refine ⟨fun h k hk => ?_, fun h k hk => ?_⟩
      · cases k with
        | zero => exact hinside
        | succ k => exact (Nat.add_right_comm n 1 k ▸ h k (Nat.lt_of_succ_lt_succ hk) :)
      · exact (Nat.add_right_comm n 1 k ▸ h (k + 1) (Nat.succ_lt_succ hk) :)
    · refine ⟨fun h => absurd h ?_, fun h => absurd (h 0 (Nat.succ_pos _)) hinside⟩
      cases hread : pool.readRun c.chain (n + 1) with
      | unreadable cell => simp [compareCandidate_fault hread]
      | _ => simp [compareCandidate_apart hinside (by simp [hread])]

theorem compareCandidate_faulted (pool : Pool) (c : Contender) (runs : List Nat) (n : Nat) (cell : CellNo) :
    compareCandidate pool c (runs.zipIdx (n + 1)) = .fault cell ↔
      ∃ k, k < runs.length ∧ pool.readRun c.chain (n + k + 1) = .unreadable cell ∧
        ∀ j (h : j < runs.length), j < k → RunInside pool c (n + j) runs[j] := by
  induction runs generalizing n with
  | nil => exact ⟨fun h => (nomatch h), fun ⟨_, h, _⟩ => absurd h (Nat.not_lt_zero _)⟩
  | cons b runs ih =>
    rw [List.zipIdx_cons]
    by_cases hinside : RunInside pool c n b
    · rw [compareCandidate_inside hinside, ih (n + 1)]
      constructor
      · rintro ⟨k, hk, hread, hbefore⟩
        refine ⟨k + 1, Nat.succ_lt_succ hk, by rw [← hread]; congr 1; omega, fun j hj hjk => ?_⟩
        cases j with
        | zero => exact hinside
        | succ j => exact (Nat.add_right_comm n 1 j ▸ hbefore j (Nat.lt_of_succ_lt_succ hj) (Nat.lt_of_succ_lt_succ hjk) :)
      · rintro ⟨k, hk, hread, hbefore⟩
        cases k with
        | zero =>
          obtain ⟨d, hvalue, -⟩ := hinside
          exact absurd (hvalue.symm.trans hread) (by simp)
        | succ k =>
          refine ⟨k, Nat.lt_of_succ_lt_succ hk, by rw [← hread]; congr 1; omega, fun j hj hjk => ?_⟩
          exact (Nat.add_right_comm n 1 j ▸ hbefore (j + 1) (Nat.succ_lt_succ hj) (Nat.succ_lt_succ hjk) :)
    · constructor
      · intro h
        cases hread : pool.readRun c.chain (n + 1) with
        | unreadable found =>
          rw [compareCandidate_fault hread] at h
          obtain rfl := CandidateVerdict.fault.inj h
          exact ⟨0, Nat.succ_pos _, hread, fun j _ hj => absurd hj (Nat.not_lt_zero _)⟩
        | _ =>
          rw [compareCandidate_apart hinside (by simp [hread])] at h
          cases h
      · rintro ⟨k, hk, hread, hbefore⟩
        cases k with
        | zero => exact compareCandidate_fault hread
        | succ k => exact absurd (hbefore 0 (Nat.succ_pos _) (Nat.succ_pos _)) hinside

/-- The slack of a tolerance class, by its percentage. -/
theorem slack_eq (c : Fin 8) (d : Nat) : slack c d = max (d * ([6, 9, 12, 15, 18, 21, 25, 30] : List Nat)[c] / 100) 40 := by
  match c with
  | 0 | 1 | 2 | 3 | 4 | 5 | 6 | 7 => rfl

theorem candidateComparison : Clause.candidateComparison := by
  intro pool c runs inside
  have hinside : ∀ k b, inside k b ↔ RunInside pool c k b := fun k b => by
    simp only [inside, RunInside, inWindow, windowLow, windowHigh, slack_eq, decide_eq_true_iff]
  have hmatched := compareCandidate_matched pool c runs 0
  have hfaulted := compareCandidate_faulted pool c runs 0
  simp only [Nat.zero_add] at hmatched hfaulted
  simp only [hinside]
  exact ⟨hmatched, hfaulted⟩

/-! ## A stored run reads back (R48, R51) -/

/-- The run of one place of one cell written anew, and every other run as it was. -/
theorem Pool.readRun_written {p q : Pool} {c : CellNo} {pos : Nat} {w : Word} (hpos : pos < 8)
    (hother : ∀ d : CellNo, d ≠ c → q.cells[d] = p.cells[d])
    (hwritten : q.cells[c] = { p.cells[c] with runs := p.cells[c].runs.set pos ⟨w, parityOf w⟩ hpos })
    (chain : List CellNo) (k : Nat) :
    (chain[k / 8]? = some c → k % 8 = pos →
      q.readRun chain (k + 1) = if p.cells[c].fault then .unreadable c else .value w.toNat) ∧
    (¬(chain[k / 8]? = some c ∧ k % 8 = pos) → q.readRun chain (k + 1) = p.readRun chain (k + 1)) := by
  constructor
  · intro hcell hplace
    subst hplace
    rw [Pool.readRun_at hcell, hwritten]
    simp
  · intro helse
    cases hcell : chain[k / 8]? with
    | none => rw [Pool.readRun_beyond hcell, Pool.readRun_beyond hcell]
    | some d =>
      rw [Pool.readRun_at hcell, Pool.readRun_at hcell]
      by_cases hd : d = c
      · subst hd
        have hplace : pos ≠ k % 8 := fun h => helse ⟨hcell, h.symm⟩
        rw [hwritten]
        simp [Vector.getElem_set_ne _ _ hplace]
      · rw [hother d hd]

theorem storedRunsReadBack : Clause.storedRunsReadBack := by
  intro s task w n j i pos c hcase hplace chain k read
  rcases hcase with ⟨hcommand, hn, hlength, hj, hi, hpos⟩ | ⟨hcommand, hlength, hi, hpos⟩ <;> subst hi <;> subst hpos
  · obtain ⟨p, hstored, -, hother, hwritten⟩ := runWords s task w n j c hcommand hn hlength hj hplace
    simp only [read, hstored]
    exact Pool.readRun_written (Nat.mod_lt _ (by decide)) hother hwritten chain k
  · obtain ⟨p, hstored, -, hother, hwritten⟩ := repeatRunWords s task w j c hcommand hlength hplace
    simp only [read, hstored]
    exact Pool.readRun_written (Nat.mod_lt _ (by decide)) hother hwritten chain k

end Sys2Proof.Machine

namespace Sys2Proof.Machine

/-- Settles O35: the comparison by induction on the runs of the burst, the parity by induction on the bits of the word, and
the read of a stored run by the one cell it was written to. -/
theorem candidatesAreComparedRunByRun : Obligations.CandidatesAreComparedRunByRun :=
  ⟨candidateComparison, runReads, storedRunsReadBack⟩

end Sys2Proof.Machine
end

section
/-! SUPPORT. The lookup: its candidates, its visits, and the match result it ends with (R84 to R94). -/

namespace Sys2Proof.Machine

/-! ## Candidates (R11, R87) -/

theorem State.groupOf_frame {s : State} {slot : SlotNo} {e : Installed} (h : s.installedAt slot = some e) (v : Variant) :
    s.groupOf (.frame slot v) = s.groups[e.group].map (fun group => (e.group, group)) := by
  simp only [State.groupOf, h, Option.map_some, Option.bind_some]

theorem State.groupOf_ofGroup (s : State) (g : GroupNo) :
    s.groupOf (.ofGroup g) = s.groups[g].map (fun group => (g, group)) := rfl

/-- The group whose record decides about a pattern. -/
theorem State.groupOf_eq_some {s : State} {ref : PatternRef} {g : GroupNo} {group : Group} :
    s.groupOf ref = some (g, group) ↔ s.groups[g] = some group ∧
      (ref = .ofGroup g ∨ ∃ slot v e, ref = .frame slot v ∧ s.installedAt slot = some e ∧ e.group = g) := by
  cases ref with
  | ofGroup h =>
    rw [State.groupOf_ofGroup, Option.map_eq_some_iff]
    constructor
    · rintro ⟨x, hx, hpair⟩
      obtain ⟨rfl, rfl⟩ := Prod.mk.inj hpair
      exact ⟨hx, .inl rfl⟩
    · rintro ⟨hgroup, href | ⟨slot, v, e, href, -⟩⟩
      · obtain rfl := PatternRef.ofGroup.inj href
        exact ⟨group, hgroup, rfl⟩
      · cases href
  | frame slot v =>
    cases he : s.installedAt slot with
    | none =>
      have hnone : s.groupOf (.frame slot v) = none := by
        simp only [State.groupOf, he, Option.map_none, Option.bind_none]
      rw [hnone]
      refine ⟨nofun, ?_⟩
      rintro ⟨-, href | ⟨slot', v', e, href, he', -⟩⟩
      · cases href
      · obtain ⟨rfl, rfl⟩ := PatternRef.frame.inj href
        rw [he] at he'
        cases he'
    | some e =>
      rw [State.groupOf_frame he, Option.map_eq_some_iff]
      constructor
      · rintro ⟨x, hx, hpair⟩
        obtain ⟨rfl, rfl⟩ := Prod.mk.inj hpair
        exact ⟨hx, .inr ⟨slot, v, e, rfl, he, rfl⟩⟩
      · rintro ⟨hgroup, href | ⟨slot', v', e', href, he', rfl⟩⟩
        · cases href
        · obtain ⟨rfl, rfl⟩ := PatternRef.frame.inj href
          obtain rfl := Option.some.inj (he.symm.trans he')
          exact ⟨group, hgroup, rfl⟩

/-- The carrier filter of a group passes every ENVELOPE burst, and a CARRIER burst near its nominal frequency. -/
theorem passesCarrier_iff (g : GroupSettings) (kind : BurstKind) (estimate : Option Nat) :
    passesCarrier g kind estimate = true ↔ (kind = .carrier → g.receiveNominal ≠ 0 → ∃ e, estimate = some e ∧
      g.receiveNominal ≤ e + g.receiveWindow ∧ e ≤ g.receiveNominal + g.receiveWindow) := by
  cases kind with
  | envelope => exact ⟨fun _ h => (nomatch h), fun _ => rfl⟩
  | carrier =>
    by_cases hzero : g.receiveNominal = 0
    · simp [passesCarrier, hzero]
    · cases estimate <;> simp [passesCarrier, hzero]

theorem candidates : Clause.candidates := by
  intro s b ref
  constructor
  · intro h
    unfold State.isCandidate at h
    split at h
    · rename_i g group hgroup
      obtain ⟨hrecord, href⟩ := State.groupOf_eq_some.1 hgroup
      obtain ⟨hmask, hcarrier⟩ := Bool.and_eq_true_iff.1 h
      exact ⟨g, group, hrecord, href, hmask, (passesCarrier_iff _ _ _).1 hcarrier⟩
    · cases h
  · rintro ⟨g, group, hrecord, href, hmask, hcarrier⟩
    rw [State.isCandidate, State.groupOf_eq_some.2 ⟨hrecord, href⟩]
    exact Bool.and_eq_true_iff.2 ⟨hmask, (passesCarrier_iff _ _ _).2 hcarrier⟩

/-! ## One visit (R86 to R90) -/

section
variable {s : State} {b : Burst} {ref : PatternRef} {f : Found}

theorem State.visit_passed (h : ref ∉ s.binList b.runs.length ∨ s.isCandidate b ref = false) :
    State.visit b (s, f) ref = (s, f) := by
  refine if_neg fun hboth => ?_
  obtain ⟨hin, hcandidate⟩ := Bool.and_eq_true_iff.1 hboth
  rcases h with h | h
  · exact h (List.contains_iff_mem.1 hin)
  · exact Bool.false_ne_true (h.symm.trans hcandidate)

/-- A candidate of the bin that a lookup visits is compared with the burst. -/
theorem State.visit_compared {c : Contender} (hin : ref ∈ s.binList b.runs.length) (hcandidate : s.isCandidate b ref = true)
    (hc : s.contenderOf ref = some c) :
    State.visit b (s, f) ref = match compareCandidate s.pool c (b.runs.zipIdx 1) with
      | .matched => (s, s.foundOf ref)
      | .apart => (s, f)
      | .fault cell => ((s.recordFault cell).damagePattern ref, f) := by
  have hboth : ((s.binList b.runs.length).contains ref && s.isCandidate b ref) = true :=
    Bool.and_eq_true_iff.2 ⟨List.contains_iff_mem.2 hin, hcandidate⟩
  simp only [State.visit, hboth, if_true, hc] <;> rfl

theorem State.foundOf_frame {slot : SlotNo} {e : Installed} {g : Group} (he : s.installedAt slot = some e)
    (hg : s.groups[e.group] = some g) (v : Variant) : s.foundOf (.frame slot v) = .entry {
      group := e.group, handle := ⟨slot, s.entries[slot].generation⟩, variant := v, key := e.key
      releaseGap := g.settings.releaseGap, pressLimit := g.settings.pressLimit } := by
  have hgroup : s.groupOf (.frame slot v) = some (e.group, g) := by
    rw [State.groupOf_frame he, hg, Option.map_some]
  simp only [State.foundOf, hgroup, he] <;> rfl

theorem State.foundOf_ofGroup {g : GroupNo} {group : Group} (hg : s.groups[g] = some group) :
    s.foundOf (.ofGroup g) = .ofGroup {
      group := g, releaseGap := group.settings.releaseGap, pressLimit := group.settings.pressLimit } := by
  have hgroup : s.groupOf (.ofGroup g) = some (g, group) := by
    rw [State.groupOf_ofGroup, hg, Option.map_some]
  simp only [State.foundOf, hgroup]

end

theorem lookupVisits : Clause.lookupVisits := by
  intro s b ref f
  refine ⟨State.visit_passed, fun c hin hcandidate hc => ?_⟩
  intro verdict
  have hvisit := State.visit_compared (f := f) hin hcandidate hc
  refine ⟨fun hv => ?_, fun cell hv => ?_, fun slot v e g hv href he hg => ?_, fun g group hv href hg => ?_⟩ <;>
    rw [show compareCandidate s.pool c (b.runs.zipIdx 1) = _ from hv] at hvisit
  · exact hvisit
  · exact hvisit
  · subst href
    rw [State.foundOf_frame he hg] at hvisit
    exact hvisit
  · subst href
    rw [State.foundOf_ofGroup hg] at hvisit
    exact hvisit

/-! ## The end of a lookup (R84, R91 to R94) -/

/-- A lookup in its turn visits the bin of its burst as it stood at the grant, and ends with what it has found. -/
theorem exec_lookup_served {s : State} {i : InputId} {b : Burst} (hturn : s.turnOf (.input i) = true)
    (hheld : s.inputs[i].held = some b) {u : State} {f : Found}
    (hvisits : (s.binList b.runs.length).foldl (State.visit b) (s.beginLookup i b, .none) = (u, f)) :
    exec (.lookup i) s = .next (u.endLookup b (u.keepFound f)) := by
  change execLookup i s = _
  have hrun : (s.beginLookup i b).runLookup =
      ((((s.binList b.runs.length).foldl (State.visit b) (s.beginLookup i b, .none)).1.endLookup b
        (((s.binList b.runs.length).foldl (State.visit b) (s.beginLookup i b, .none)).1.keepFound
          ((s.binList b.runs.length).foldl (State.visit b) (s.beginLookup i b, .none)).2))) := rfl
  rw [execLookup, hturn, hheld]
  exact congrArg Host.Outcome.next (hrun.trans (by rw [hvisits]))

theorem State.endLookup_none (u : State) (b : Burst) : u.endLookup b .none = { u with
    working := none
    mail := { u.mail with
      path := u.mail.path ++ [.result { input := b.input, startTime := b.startTime, endTime := b.endTime, found := .none }]
      sticky := u.mail.sticky.set b.input (u.mail.sticky[b.input] ++ [.unmatched]) } } := rfl

theorem State.endLookup_found (u : State) (b : Burst) {f : Found} (hf : f ≠ .none) : u.endLookup b f = { u with
    working := none
    mail := { u.mail with
      path := u.mail.path ++ [.result { input := b.input, startTime := b.startTime, endTime := b.endTime, found := f }] } } := by
  cases f with
  | none => exact absurd rfl hf
  | entry m => rfl
  | ofGroup m => rfl

theorem lookupEnds : Clause.lookupEnds := by
  intro s i b hturn hheld emptied u f hvisits result dropped
  have hexec := exec_lookup_served hturn hheld (u := u) (f := f) hvisits
  refine ⟨fun hnone => ?_, fun m e hf he hstatus => ?_, fun m hf => ?_⟩
  · have hkept : u.keepFound f = .none := by
      rcases hnone with rfl | ⟨m, e, rfl, he, hstatus⟩
      · rfl
      · simp only [State.keepFound, he, hstatus, if_true]
    rw [hexec, hkept, State.endLookup_none]
  · subst hf
    have hkept : u.keepFound (.entry m) = .entry m := by
      simp only [State.keepFound, he, hstatus, if_false]
    rw [hexec, hkept, State.endLookup_found _ _ (by simp)]
  · subst hf
    exact hexec.trans (congrArg Host.Outcome.next (State.endLookup_found (f := .ofGroup m) _ _ (by simp)))

/-! ## A lookup that meets no fault -/

/-- Visits that leave the state as it is, and find one pattern where they come to it. -/
theorem foldl_visit {s : State} {b : Burst} {found : Found} {p : PatternRef → Bool} (l : List PatternRef) (f : Found)
    (h : ∀ ref ∈ l, ∀ f, State.visit b (s, f) ref = (s, if p ref then found else f)) :
    l.foldl (State.visit b) (s, f) = (s, if l.any p then found else f) := by
  induction l generalizing f with
  | nil => rfl
  | cons ref l ih =>
    rw [List.foldl_cons, h ref (List.mem_cons_self ..), ih _ fun r hr => h r (List.mem_cons_of_mem _ hr), List.any_cons]
    cases p ref <;> cases l.any p <;> rfl

section
variable {s : State} {b : Burst}

theorem State.visit_apart {ref : PatternRef} (f : Found) (hin : ref ∈ s.binList b.runs.length)
    (h : s.isCandidate b ref = true →
      (s.contenderOf ref).map (fun c => compareCandidate s.pool c (b.runs.zipIdx 1)) = some .apart) :
    State.visit b (s, f) ref = (s, f) := by
  cases hcandidate : s.isCandidate b ref with
  | false => exact State.visit_passed (.inr hcandidate)
  | true =>
    obtain ⟨c, hc, hverdict⟩ := Option.map_eq_some_iff.1 (h hcandidate)
    rw [State.visit_compared hin hcandidate hc, hverdict]

theorem State.visit_matched {ref : PatternRef} (f : Found) (hin : ref ∈ s.binList b.runs.length)
    (hcandidate : s.isCandidate b ref = true)
    (h : (s.contenderOf ref).map (fun c => compareCandidate s.pool c (b.runs.zipIdx 1)) = some .matched) :
    State.visit b (s, f) ref = (s, s.foundOf ref) := by
  obtain ⟨c, hc, hverdict⟩ := Option.map_eq_some_iff.1 h
  rw [State.visit_compared hin hcandidate hc, hverdict]

/-- The visits of a bin whose candidates all lie apart find nothing. -/
theorem foldl_visit_apart
    (h : ∀ ref ∈ (s.binList b.runs.length).filter (fun ref => s.isCandidate b ref),
      (s.contenderOf ref).map (fun c => compareCandidate s.pool c (b.runs.zipIdx 1)) = some .apart) :
    (s.binList b.runs.length).foldl (State.visit b) (s, .none) = (s, .none) := by
  rw [foldl_visit (found := .none) (p := fun _ => false) _ _ fun ref hin f => ?_]
  · split <;> rfl
  · exact State.visit_apart f hin fun hcandidate => h ref (List.mem_filter.2 ⟨hin, hcandidate⟩)

/-- The visits of a bin in which one candidate matches and all others lie apart find that one. -/
theorem foldl_visit_matched {ref : PatternRef}
    (hin : ref ∈ (s.binList b.runs.length).filter (fun ref => s.isCandidate b ref))
    (hmatched : (s.contenderOf ref).map (fun c => compareCandidate s.pool c (b.runs.zipIdx 1)) = some .matched)
    (hothers : ∀ r ∈ (s.binList b.runs.length).filter (fun ref => s.isCandidate b ref), r ≠ ref →
      (s.contenderOf r).map (fun c => compareCandidate s.pool c (b.runs.zipIdx 1)) = some .apart) :
    (s.binList b.runs.length).foldl (State.visit b) (s, .none) = (s, s.foundOf ref) := by
  obtain ⟨hbin, hcandidate⟩ := List.mem_filter.1 hin
  have hany : (s.binList b.runs.length).any (fun r => decide (r = ref)) = true :=
    List.any_eq_true.2 ⟨ref, hbin, decide_eq_true rfl⟩
  rw [foldl_visit (found := s.foundOf ref) (p := fun r => decide (r = ref)) _ _ fun r hr f => ?_, hany, if_pos rfl]
  by_cases href : r = ref
  · subst href
    rw [State.visit_matched f hr hcandidate hmatched, if_pos (decide_eq_true rfl)]
  · rw [State.visit_apart f hr fun hc => hothers r (List.mem_filter.2 ⟨hr, hc⟩) href, if_neg (by simpa using href)]

end

theorem faultFreeLookups : Clause.faultFreeLookups := by
  intro s i b hturn hheld verdict candidates result emptied
  refine ⟨fun h => ?_, fun slot v e g hin hmatched hothers he hstatus hg => ?_, fun g group hin hmatched hothers hg => ?_⟩
  · have hvisits := foldl_visit_apart (s := s.beginLookup i b) (b := b) h
    exact exec_lookup_served hturn hheld hvisits
  · have hvisits := foldl_visit_matched (s := s.beginLookup i b) (b := b) hin hmatched hothers
    rw [State.foundOf_frame (s := s.beginLookup i b) he hg] at hvisits
    refine (exec_lookup_served hturn hheld hvisits).trans (congrArg Host.Outcome.next ?_)
    have hinstalled : (s.beginLookup i b).installedAt slot = some e := he
    simp only [State.keepFound, hinstalled, hstatus, if_false]
    exact State.endLookup_found _ _ (by simp)
  · have hvisits := foldl_visit_matched (s := s.beginLookup i b) (b := b) hin hmatched hothers
    rw [State.foundOf_ofGroup (s := s.beginLookup i b) hg] at hvisits
    exact exec_lookup_served hturn hheld hvisits

end Sys2Proof.Machine

namespace Sys2Proof.Machine

/-- Settles O36: the fold of the visits over the bin, each visit by the verdict on its candidate. -/
theorem lookupReportsTheMatch : Obligations.LookupReportsTheMatch :=
  ⟨faultFreeLookups, candidates, lookupVisits, lookupEnds⟩

end Sys2Proof.Machine
end

section
/-! SUPPORT. The part after a hardware reset: what each block holds, and that it is safe (R2, R45, R60, R82, R122, R132,
R158, R178). -/

namespace Sys2Proof.Machine

/-! ## What a hardware reset leaves -/

theorem reset_entries (slot : SlotNo) : State.reset.entries[slot] = { generation := 0, occupant := .free } := by
  simp [State.reset]

theorem reset_installedAt (slot : SlotNo) : State.reset.installedAt slot = none := by
  rw [State.installedAt, reset_entries]

theorem reset_groups (g : GroupNo) : State.reset.groups[g] = none := by
  simp [State.reset]

theorem reset_bins (b : Fin 63) : State.reset.bins[b] = [] := by
  simp [State.reset]

theorem reset_waiting (p : Position) : State.reset.claims.waiting p = false := by
  cases p <;> simp [State.reset, Claims.resetValue, Claims.waiting]

theorem reset_cells (c : CellNo) : State.reset.pool.cells[c] = Cell.resetValue := by
  simp [State.reset, Pool.resetValue]

theorem reset_inputs (i : InputId) : State.reset.inputs[i] = Input.resetValue Line.resetValue := by
  simp [State.reset]

theorem reset_presses (r : PressNo) : State.reset.tracker.presses[r] = none := by
  simp [State.reset, Tracker.resetValue]

theorem reset_relays (n : RelayNo) : State.reset.relays[n] = none := by
  simp [State.reset]

theorem reset_outputs (o : OutputId) : State.reset.outputs[o] = Output.resetValue := by
  simp [State.reset]

theorem reset_txLevel (o : OutputId) (sub : Fin 16) : State.reset.txLevel o sub = true := by
  have hactive : State.reset.txActive o sub = false := by
    rw [State.txActive, reset_outputs] <;> rfl
  rw [State.txLevel, reset_outputs, hactive] <;> rfl

theorem reset_readLocation (location : Nat) : State.reset.readLocation location = 0 := by
  unfold State.readLocation
  split <;> rfl

theorem reset_binList (n : Nat) : State.reset.binList n = [] := by
  unfold State.binList
  split
  · exact reset_bins _
  · rfl

/-- After a reset no condition is enabled. -/
theorem reset_intLow : State.reset.intLow = false := by
  have henables : State.reset.port.enables = 0#4 := rfl
  simp [State.intLow, henables]

theorem resetValues : Clause.resetValues := by
  unfold Clause.resetValues
  intro r
  refine ⟨rfl, rfl, reset_entries, reset_groups, reset_bins, reset_waiting, rfl, rfl, fun c => ?_, rfl, rfl, rfl,
    fun i => ?_, reset_presses, rfl, rfl, reset_relays, fun o => ?_, rfl, reset_readLocation, reset_intLow⟩
  · rw [reset_cells]
    exact ⟨rfl, rfl, rfl⟩
  · rw [reset_inputs]
    exact ⟨rfl, rfl, rfl, rfl⟩
  · rw [reset_outputs]
    exact ⟨rfl, rfl, rfl, rfl, rfl, rfl, rfl, rfl, reset_txLevel o⟩

theorem hardwareReset : Clause.hardwareReset := by
  intro s
  refine ⟨s.hardwareReset, rfl, rfl, fun i => ?_, rfl, fun hspi => ?_, fun f hspi => ?_⟩
  · rw [reset_inputs]
    simp [State.hardwareReset] <;> rfl
  · exact congrArg SpiFrame.afterReset hspi
  · exact congrArg SpiFrame.afterReset hspi

/-! ## The laws after a hardware reset -/

theorem reset_storedChain (ref : PatternRef) : State.reset.storedChain ref = none := by
  cases ref with
  | frame slot v => simp only [State.storedChain, reset_installedAt, Option.bind_none]
  | ofGroup g => simp only [State.storedChain, reset_groups, Option.bind_none]

theorem reset_contenderOf (ref : PatternRef) : State.reset.contenderOf ref = none := by
  cases ref with
  | frame slot v => simp only [State.contenderOf, reset_installedAt]
  | ofGroup g => simp only [State.contenderOf, reset_groups]

theorem reset_placeLaw : State.reset.PlaceLaw where
  free := ⟨List.nodup_nil, nofun⟩
  reserved := ⟨List.nodup_nil, nofun⟩
  returning := ⟨List.nodup_nil, nofun⟩
  released := ⟨List.nodup_nil, nofun⟩
  stored := fun ref chain h => by rw [reset_storedChain] at h; cases h
  apart := fun ref _ chain _ _ h => by rw [reset_storedChain] at h; cases h
  kept := fun ref chain h => by rw [reset_storedChain] at h; cases h
  testing := fun _ c => by rw [reset_cells]; rfl

theorem reset_binLaw : State.reset.BinLaw := by
  intro n
  rw [reset_binList]
  refine ⟨List.nodup_nil, fun slot v => ⟨nofun, ?_⟩, fun g => ⟨nofun, ?_⟩⟩
  · rintro ⟨e, he, -⟩
    rw [reset_installedAt] at he
    cases he
  · rintro ⟨group, p, hgroup, -⟩
    rw [reset_groups] at hgroup
    cases hgroup

theorem reset_workLaw : State.reset.WorkLaw := by
  refine ⟨fun task hphase => ?_, nofun, fun slot l hl => ?_⟩
  · rcases hphase with ⟨⟨_, h⟩, -⟩ | ⟨_, h⟩ <;> cases h
  · rw [reset_entries] at hl
    cases hl

theorem reset_queueLaw : State.reset.QueueLaw := by
  intro o
  rw [reset_outputs]
  exact ⟨Nat.zero_le _, nofun, ⟨fun _ => rfl, fun _ => rfl⟩, rfl⟩

end Sys2Proof.Machine

namespace Sys2Proof.Machine

/-- Settles O3: each block of the state after reset, read off. -/
theorem resetLeavesTheStatedValues : Obligations.ResetLeavesTheStatedValues := ⟨resetValues, hardwareReset⟩

/-- Settles O2: after a reset there is no entry, group, press, relay record or item, and a memory test runs. -/
theorem resetIsSafe : Obligations.ResetIsSafe where
  left := nofun
  right := by
    refine ⟨fun r q c d _ hc => ?_, fun a b g key ha => ?_, fun a b p q ha => ?_, ?_, fun a b p q ha => ?_, fun n r hr => ?_,
      reset_queueLaw, reset_binLaw, ?_, ⟨nofun, nofun⟩, fun c hc => ?_, nofun, fun _ => ⟨rfl, .inl ⟨rfl, rfl⟩⟩,
      reset_workLaw, nofun, reset_placeLaw⟩
    · rw [reset_contenderOf] at hc
      cases hc
    · rw [reset_entries] at ha
      cases ha
    · rw [reset_presses] at ha
      cases ha
    · refine ⟨List.nodup_nil, fun r => ⟨nofun, ?_⟩, fun r p hp => ?_⟩
      · rintro ⟨p, hp, -⟩
        rw [reset_presses] at hp
        cases hp
      · rw [reset_presses] at hp
        cases hp
    · rw [reset_relays] at ha
      cases ha
    · rw [reset_relays] at hr
      cases hr
    · refine ⟨fun g group hg => ?_, fun slot e he => ?_⟩
      · rw [reset_groups] at hg
        cases hg
      · rw [reset_installedAt] at he
        cases he
    · rw [reset_cells] at hc
      exact absurd rfl hc

end Sys2Proof.Machine
end

section
/-! SUPPORT. The patterns of a conflict check: what each stands for, the set and the patterns under test, and their order
(R5, R9, R13, R27, R30, R31, R36). -/

namespace Sys2Proof.Machine

/-! ## A stored pattern in a check (R5, R9, R13) -/

theorem State.contenderOf_frame_eq (s : State) (slot : SlotNo) (v : Variant) : s.contenderOf (.frame slot v) =
    (s.installedAt slot).bind fun e => (e.chainOf v).bind fun chain => (s.groups[e.group]).map fun g =>
      { owner := .stored (.frame slot v), runCount := e.runCount, chain := chain
        tolerance := e.tolerance, inputMask := g.settings.inputMask } := by
  simp only [State.contenderOf]
  cases s.installedAt slot with
  | none => rfl
  | some e =>
    simp only [Option.bind_some]
    cases e.chainOf v <;> cases s.groups[e.group] <;> rfl

theorem State.contenderOf_ofGroup_eq (s : State) (g : GroupNo) : s.contenderOf (.ofGroup g) =
    (s.groups[g]).bind fun group => group.repeatPattern.map fun p =>
      { owner := .stored (.ofGroup g), runCount := p.runCount, chain := p.chain
        tolerance := group.settings.repeatTolerance, inputMask := group.settings.inputMask } := by
  simp only [State.contenderOf]
  cases s.groups[g] <;> rfl

theorem State.contenderOf_frame {s : State} {slot : SlotNo} {v : Variant} {c : Contender} :
    s.contenderOf (.frame slot v) = some c ↔ ∃ e chain g, s.installedAt slot = some e ∧ e.chainOf v = some chain ∧
      s.groups[e.group] = some g ∧ c = { owner := .stored (.frame slot v), runCount := e.runCount, chain := chain
                                         tolerance := e.tolerance, inputMask := g.settings.inputMask } := by
  rw [State.contenderOf_frame_eq]
  simp only [Option.bind_eq_some_iff, Option.map_eq_some_iff]
  constructor
  · rintro ⟨e, he, chain, hchain, g, hg, rfl⟩
    exact ⟨e, chain, g, he, hchain, hg, rfl⟩
  · rintro ⟨e, chain, g, he, hchain, hg, rfl⟩
    exact ⟨e, he, chain, hchain, g, hg, rfl⟩

theorem State.contenderOf_ofGroup {s : State} {g : GroupNo} {c : Contender} :
    s.contenderOf (.ofGroup g) = some c ↔ ∃ group n chain, s.groups[g] = some group ∧
      group.repeatPattern = some ⟨n, chain⟩ ∧
      c = { owner := .stored (.ofGroup g), runCount := n, chain := chain
            tolerance := group.settings.repeatTolerance, inputMask := group.settings.inputMask } := by
  rw [State.contenderOf_ofGroup_eq]
  simp only [Option.bind_eq_some_iff, Option.map_eq_some_iff]
  constructor
  · rintro ⟨group, hg, ⟨n, chain⟩, hp, rfl⟩
    exact ⟨group, n, chain, hg, hp, rfl⟩
  · rintro ⟨group, n, chain, hg, hp, rfl⟩
    exact ⟨group, hg, ⟨n, chain⟩, hp, rfl⟩

theorem State.contenderOf_owner {s : State} {ref : PatternRef} {c : Contender} (h : s.contenderOf ref = some c) :
    c.owner = .stored ref := by
  cases ref with
  | frame slot v =>
    obtain ⟨e, chain, g, -, -, -, rfl⟩ := State.contenderOf_frame.1 h
    rfl
  | ofGroup g =>
    obtain ⟨group, n, chain, -, -, rfl⟩ := State.contenderOf_ofGroup.1 h
    rfl

/-! ## The order of patterns (R27) -/

/-- The place of a stored pattern in the set: the frame patterns by slot, and then the repeat patterns. -/
def PatternRef.rank : PatternRef → Nat
  | .frame slot v => 2 * slot.val + v.field
  | .ofGroup g => 256 + g.val

theorem Variant.field_le (v : Variant) : v.field ≤ 1 := by
  cases v <;> decide

theorem PatternRef.frame_rank_lt (slot : SlotNo) (v : Variant) : (PatternRef.frame slot v).rank < 256 := by
  have hv := v.field_le
  simp only [PatternRef.rank]
  omega

/-- The frame patterns of slots in ascending order. -/
theorem pairwise_frames {slots : List SlotNo} (h : slots.Pairwise (· < ·)) :
    (slots.flatMap (fun slot => [PatternRef.frame slot .main, .frame slot .alternate])).Pairwise
      (fun r q => r.rank < q.rank) := by
  rw [List.pairwise_flatMap]
  refine ⟨fun slot _ => ?_, h.imp fun {a b} hab x hx y hy => ?_⟩
  · simp [PatternRef.rank, Variant.field]
  · simp only [List.mem_cons, List.not_mem_nil, or_false] at hx hy
    have hlt : a.val < b.val := hab
    rcases hx with rfl | rfl <;> rcases hy with rfl | rfl <;> simp only [PatternRef.rank, Variant.field] <;> omega

theorem pairwise_frameRefs : frameRefs.Pairwise (fun r q => r.rank < q.rank) :=
  pairwise_frames (List.pairwise_lt_finRange 128)

theorem pairwise_framesOfGroup (s : State) (g : GroupNo) : (s.framesOfGroup g).Pairwise (fun r q => r.rank < q.rank) :=
  pairwise_frames ((List.pairwise_lt_finRange 128).filter _)

theorem mem_frameRefs (slot : SlotNo) (v : Variant) : .frame slot v ∈ frameRefs := by
  refine List.mem_flatMap.2 ⟨slot, List.mem_finRange slot, ?_⟩
  cases v <;> simp

theorem eq_frame_of_mem {slots : List SlotNo} {ref : PatternRef}
    (h : ref ∈ slots.flatMap (fun slot => [PatternRef.frame slot .main, .frame slot .alternate])) :
    ∃ slot v, slot ∈ slots ∧ ref = .frame slot v := by
  obtain ⟨slot, hslot, hmem⟩ := List.mem_flatMap.1 h
  simp only [List.mem_cons, List.not_mem_nil, or_false] at hmem
  rcases hmem with rfl | rfl
  · exact ⟨slot, .main, hslot, rfl⟩
  · exact ⟨slot, .alternate, hslot, rfl⟩

theorem mem_repeatRefs (g : GroupNo) : .ofGroup g ∈ repeatRefs :=
  List.mem_map.2 ⟨g, List.mem_finRange g, rfl⟩

theorem pairwise_allRefs : (frameRefs ++ repeatRefs).Pairwise (fun r q => r.rank < q.rank) := by
  refine List.pairwise_append.2 ⟨pairwise_frameRefs, ?_, fun r hr q hq => ?_⟩
  · refine List.pairwise_map.2 ((List.pairwise_lt_finRange 16).imp fun {a b} hab => ?_)
    exact Nat.add_lt_add_left hab 256
  · obtain ⟨slot, v, -, rfl⟩ := eq_frame_of_mem hr
    obtain ⟨g, -, rfl⟩ := List.mem_map.1 hq
    exact (PatternRef.frame_rank_lt slot v).trans_le (Nat.le_add_right 256 g.val)

theorem mem_allRefs (ref : PatternRef) : ref ∈ frameRefs ++ repeatRefs := by
  cases ref with
  | frame slot v => exact List.mem_append_left _ (mem_frameRefs slot v)
  | ofGroup g => exact List.mem_append_right _ (mem_repeatRefs g)

/-- The place of a pattern in the set of a check. -/
def ContenderOwner.inSet : ContenderOwner → Nat
  | .stored (.frame slot v) => 2 * slot.val + v.field
  | .stored (.ofGroup g) => 256 + g.val
  | .reservedFrame _ | .reservedRepeat => 0

/-- The place of a pattern under test: the repeat pattern first. -/
def ContenderOwner.underTest : ContenderOwner → Nat
  | .stored (.frame slot v) => 1 + (2 * slot.val + v.field)
  | .stored (.ofGroup _) | .reservedFrame _ | .reservedRepeat => 0

theorem ContenderOwner.inSet_stored (ref : PatternRef) : (ContenderOwner.stored ref).inSet = ref.rank := by
  cases ref <;> rfl

/-- Stored patterns stand in the order of their references. -/
theorem pairwise_contenders {s : State} {refs : List PatternRef} {rank : ContenderOwner → Nat}
    (h : refs.Pairwise (fun r q => rank (.stored r) < rank (.stored q))) :
    (refs.filterMap s.contenderOf).Pairwise (fun c d => rank c.owner < rank d.owner) := by
  refine List.pairwise_filterMap.2 (h.imp fun {r q} hrq c hc d hd => ?_)
  rw [State.contenderOf_owner hc, State.contenderOf_owner hd]
  exact hrq

theorem pairwise_conflictSet (s : State) (excluded : PatternRef → Bool) :
    (s.conflictSet excluded).Pairwise (fun c d => c.owner.inSet < d.owner.inSet) := by
  refine pairwise_contenders ((pairwise_allRefs.filter _).imp fun {r q} hrq => ?_)
  rw [ContenderOwner.inSet_stored, ContenderOwner.inSet_stored]
  exact hrq

theorem pairwise_framesUnder (s : State) (slot : SlotNo) (tolerance : Fin 8) :
    (s.framesUnder slot tolerance).Pairwise (fun c d => c.owner.underTest < d.owner.underTest) := by
  refine List.pairwise_map.2 (pairwise_contenders (rank := ContenderOwner.underTest) ?_)
  simp [ContenderOwner.underTest, Variant.field]

/-- The patterns of a group edit that stand before its entries': the kept or the new repeat pattern. -/
def State.repeatUnderTest (s : State) (g : GroupNo) (task : Task) : List Contender :=
  match repeatChoice (task.word 0) with
  | 0 => (s.contenderOf (.ofGroup g)).toList.map (fun c =>
      { c with tolerance := task.settings.repeatTolerance, inputMask := task.settings.inputMask })
  | 1 => [reservedRepeatContender task (s.newRepeat task)]
  | _ => []

theorem State.editUnderTest_eq (s : State) (g : GroupNo) (task : Task) : s.editUnderTest g task =
    s.repeatUnderTest g task ++ ((s.framesOfGroup g).filterMap s.contenderOf).map
      (fun c => { c with inputMask := task.settings.inputMask }) := rfl

theorem State.mem_repeatUnderTest {s : State} {g : GroupNo} {task : Task} {c : Contender} :
    c ∈ s.repeatUnderTest g task ↔
      (repeatChoice (task.word 0) = 0 ∧ ∃ d, s.contenderOf (.ofGroup g) = some d ∧
        c = { d with tolerance := task.settings.repeatTolerance, inputMask := task.settings.inputMask }) ∨
      (repeatChoice (task.word 0) = 1 ∧
        c = { owner := .reservedRepeat, runCount := (task.word 6).toNat, chain := s.pool.reservation
              tolerance := task.settings.repeatTolerance, inputMask := task.settings.inputMask }) := by
  unfold State.repeatUnderTest
  split
  · rename_i hchoice
    simp only [hchoice, List.mem_map, Option.mem_toList, true_and, Nat.zero_ne_one, false_and, or_false]
    exact exists_congr fun d => and_congr_right fun _ => eq_comm
  · rename_i hchoice
    simp only [hchoice, List.mem_singleton, Nat.one_ne_zero, false_and, true_and, false_or]
    rfl
  · rename_i hzero hone
    simp only [List.not_mem_nil, false_iff, not_or, not_and]
    exact ⟨fun h => absurd h hzero, fun h => absurd h hone⟩

theorem State.repeatUnderTest_rank {s : State} {g : GroupNo} {task : Task} {c : Contender}
    (h : c ∈ s.repeatUnderTest g task) : c.owner.underTest = 0 := by
  rcases State.mem_repeatUnderTest.1 h with ⟨-, d, hd, rfl⟩ | ⟨-, rfl⟩
  · exact congrArg ContenderOwner.underTest (State.contenderOf_owner hd)
  · rfl

theorem State.repeatUnderTest_pairwise (s : State) (g : GroupNo) (task : Task) (R : Contender → Contender → Prop) :
    (s.repeatUnderTest g task).Pairwise R := by
  unfold State.repeatUnderTest
  split
  · cases s.contenderOf (.ofGroup g) <;> simp
  · exact List.pairwise_singleton _ _
  · exact List.Pairwise.nil

theorem pairwise_editUnderTest (s : State) (g : GroupNo) (task : Task) :
    (s.editUnderTest g task).Pairwise (fun c d => c.owner.underTest < d.owner.underTest) := by
  rw [State.editUnderTest_eq]
  refine List.pairwise_append.2 ⟨s.repeatUnderTest_pairwise g task _, List.pairwise_map.2 ?_, fun c hc d hd => ?_⟩
  · refine List.pairwise_filterMap.2 ((pairwise_framesOfGroup s g).imp_of_mem fun {r q} hr hq hrq c hc d hd => ?_)
    obtain ⟨slot, v, -, rfl⟩ := eq_frame_of_mem hr
    obtain ⟨slot', v', -, rfl⟩ := eq_frame_of_mem hq
    rw [State.contenderOf_owner hc, State.contenderOf_owner hd]
    exact Nat.add_lt_add_left hrq 1
  · rw [State.repeatUnderTest_rank hc]
    obtain ⟨d', hd', rfl⟩ := List.mem_map.1 hd
    obtain ⟨ref, href, hcontender⟩ := List.mem_filterMap.1 hd'
    obtain ⟨slot, v, -, rfl⟩ := eq_frame_of_mem href
    simp only [State.contenderOf_owner hcontender]
    exact Nat.add_pos_left Nat.one_pos _

theorem checkOrder : Clause.checkOrder := by
  intro s frame inSet underTest
  have hset : inSet = ContenderOwner.inSet := by
    funext x
    cases x with
    | stored ref => cases ref <;> rfl
    | _ => rfl
  have htest : underTest = ContenderOwner.underTest := by
    funext x
    cases x with
    | stored ref => cases ref <;> rfl
    | _ => rfl
  rw [hset, htest]
  exact ⟨pairwise_conflictSet s, pairwise_framesUnder s, pairwise_editUnderTest s⟩

/-! ## The set and the patterns under test -/

/-- Patterns in ascending order stand there once each. -/
theorem nodup_owners {l : List Contender} {rank : ContenderOwner → Nat}
    (h : l.Pairwise (fun c d => rank c.owner < rank d.owner)) : (l.map Contender.owner).Nodup :=
  List.pairwise_map.2 (h.imp fun hcd heq => absurd (heq ▸ hcd) (Nat.lt_irrefl _))

theorem State.mem_conflictSet {s : State} {excluded : PatternRef → Bool} {c : Contender} :
    c ∈ s.conflictSet excluded ↔ ∃ ref, excluded ref = false ∧ s.contenderOf ref = some c := by
  rw [State.conflictSet, List.mem_filterMap]
  refine exists_congr fun ref => and_congr_left fun _ => ?_
  rw [List.mem_filter, Bool.not_eq_true']
  exact ⟨fun h => h.2, fun h => ⟨mem_allRefs ref, h⟩⟩

theorem conflictSets : Clause.conflictSets :=
  fun s => ⟨fun _ _ _ => State.contenderOf_frame, fun _ _ => State.contenderOf_ofGroup,
    fun excluded => ⟨nodup_owners (pairwise_conflictSet s excluded), fun _ => State.mem_conflictSet⟩⟩

theorem State.mem_framesUnder {s : State} {slot : SlotNo} {tolerance : Fin 8} {c : Contender} :
    c ∈ s.framesUnder slot tolerance ↔
      ∃ v d, s.contenderOf (.frame slot v) = some d ∧ c = { d with tolerance := tolerance } := by
  simp only [State.framesUnder, List.mem_map, List.mem_filterMap, List.mem_cons, List.not_mem_nil, or_false]
  constructor
  · rintro ⟨d, ⟨ref, rfl | rfl, hd⟩, rfl⟩
    · exact ⟨.main, d, hd, rfl⟩
    · exact ⟨.alternate, d, hd, rfl⟩
  · rintro ⟨v, d, hd, rfl⟩
    refine ⟨d, ⟨.frame slot v, ?_, hd⟩, rfl⟩
    cases v
    · exact .inl rfl
    · exact .inr rfl

theorem State.mem_editUnderTest {s : State} {g : GroupNo} {task : Task} {c : Contender} :
    c ∈ s.editUnderTest g task ↔ c ∈ s.repeatUnderTest g task ∨ ∃ slot v e d, s.installedAt slot = some e ∧ e.group = g ∧
      s.contenderOf (.frame slot v) = some d ∧ c = { d with inputMask := task.settings.inputMask } := by
  rw [State.editUnderTest_eq, List.mem_append]
  refine or_congr_right ?_
  simp only [List.mem_map, List.mem_filterMap]
  constructor
  · rintro ⟨d, ⟨ref, href, hd⟩, rfl⟩
    obtain ⟨slot, v, hslot, rfl⟩ := eq_frame_of_mem href
    obtain ⟨e, he, hgroup⟩ := State.mem_slotsOfGroup.1 hslot
    exact ⟨slot, v, e, d, he, hgroup, hd, rfl⟩
  · rintro ⟨slot, v, e, d, he, hgroup, hd, rfl⟩
    refine ⟨d, ⟨.frame slot v, List.mem_flatMap.2 ⟨slot, State.mem_slotsOfGroup.2 ⟨e, he, hgroup⟩, ?_⟩, hd⟩, rfl⟩
    cases v <;> simp

theorem ofSlot_iff {slot : SlotNo} {ref : PatternRef} : ofSlot slot ref = true ↔ ∃ v, ref = .frame slot v := by
  cases ref with
  | frame slot' v => simp [ofSlot]
  | ofGroup g => simp [ofSlot]

theorem State.belongsTo_iff {s : State} {g : GroupNo} {ref : PatternRef} : s.belongsTo g ref = true ↔
    ref = .ofGroup g ∨ ∃ slot v e, ref = .frame slot v ∧ s.installedAt slot = some e ∧ e.group = g := by
  cases ref with
  | ofGroup g' => simp [State.belongsTo]
  | frame slot v => cases he : s.installedAt slot <;> simp [State.belongsTo, he]

theorem State.installUnderTest_eq {s : State} {l : Loading} {g : Group} (hg : s.groups[l.group] = some g) :
    s.installUnderTest l =
      { owner := .reservedFrame .main, runCount := l.runCount, chain := s.pool.reservation.take ((l.runCount + 7) / 8)
        tolerance := l.tolerance, inputMask := g.settings.inputMask } ::
      if l.alternatePresent then
        [{ owner := .reservedFrame .alternate, runCount := l.runCount
           chain := s.pool.reservation.drop ((l.runCount + 7) / 8), tolerance := l.tolerance
           inputMask := g.settings.inputMask }]
      else [] := by
  simp only [State.installUnderTest, hg] <;> rfl

theorem patternsUnderTest : Clause.patternsUnderTest := by
  intro s
  refine ⟨fun l g hg => State.installUnderTest_eq hg,
    fun slot tolerance => ⟨nodup_owners (pairwise_framesUnder s slot tolerance), fun _ => State.mem_framesUnder⟩,
    fun _ _ => ofSlot_iff, fun g task => ⟨nodup_owners (pairwise_editUnderTest s g task), fun c => ?_⟩,
    fun _ _ => State.belongsTo_iff⟩
  rw [State.mem_editUnderTest, State.mem_repeatUnderTest, or_assoc]

/-! ## Windows and words (R6 to R8, R181) -/

theorem windowBounds : Clause.windowBounds := by
  intro p q a b slack
  simp only [windowsIntersect, windowLow, windowHigh, slack_eq, decide_eq_true_iff, slack]

theorem conflictWordsShown : Clause.conflictWordsShown :=
  fun _ _ _ => ⟨rfl, rfl, rfl, rfl⟩

end Sys2Proof.Machine
end

section
/-! SUPPORT. The conflict check: its reads, the comparison of a pair, and what any check answers (R8, R13, R27). -/

namespace Sys2Proof.Machine

/-! ## Reads across marks of faults -/

theorem Pool.readRun_place {p : Pool} {chain : List CellNo} {k : Nat} {c : CellNo} {pos : Fin 8}
    (h : runPlace chain k = some (c, pos)) : p.readRun chain k =
      if p.cells[c].fault || (parityOf p.cells[c].runs[pos].value != p.cells[c].runs[pos].parity) then .unreadable c
      else .value p.cells[c].runs[pos].value.toNat := by
  simp only [Pool.readRun, h]

theorem Pool.readRun_noPlace {p : Pool} {chain : List CellNo} {k : Nat} (h : runPlace chain k = none) :
    p.readRun chain k = .absent := by
  simp only [Pool.readRun, h]

/-- An unreadable run is unreadable in the cell where it stands. -/
theorem Pool.readRun_unreadable {p : Pool} {chain : List CellNo} {k : Nat} {cell : CellNo}
    (h : p.readRun chain k = .unreadable cell) : ∃ pos, runPlace chain k = some (cell, pos) := by
  cases hplace : runPlace chain k with
  | none =>
    rw [Pool.readRun_noPlace hplace] at h
    cases h
  | some place =>
    obtain ⟨c, pos⟩ := place
    rw [Pool.readRun_place hplace] at h
    split at h
    · obtain rfl := RunRead.unreadable.inj h
      exact ⟨pos, rfl⟩
    · cases h

/-- A run in a cell with a fault mark is unreadable. -/
theorem Pool.readRun_of_fault {p : Pool} {chain : List CellNo} {k : Nat} {c : CellNo} {pos : Fin 8}
    (h : runPlace chain k = some (c, pos)) (hfault : p.cells[c].fault = true) : p.readRun chain k = .unreadable c := by
  rw [Pool.readRun_place h, hfault, Bool.true_or, if_pos rfl]

section
variable {s u : State}

/-- Marks of faults take runs away from what can be read, and change no run that still can. -/
theorem State.Marked.readRun_value (h : s.Marked u) {chain : List CellNo} {k d : Nat}
    (hu : u.pool.readRun chain k = .value d) : s.pool.readRun chain k = .value d := by
  cases hplace : runPlace chain k with
  | none =>
    rw [Pool.readRun_noPlace hplace] at hu
    cases hu
  | some place =>
    obtain ⟨c, pos⟩ := place
    rcases h.cell c with hc | hc
    · rw [Pool.readRun_place hplace, hc] at hu
      rw [Pool.readRun_place hplace]
      exact hu
    · rw [Pool.readRun_of_fault hplace (by rw [hc])] at hu
      cases hu

/-- Two patterns that conflict go on to conflict when runs become unreadable. -/
theorem State.Marked.conflicts (h : s.Marked u) {p q : Contender} (hs : s.conflicts p q) : u.conflicts p q := by
  obtain ⟨hcount, hmask, hwindows⟩ := hs
  exact ⟨hcount, hmask, fun k h1 hk a b ha hb => hwindows k h1 hk a b (h.readRun_value ha) (h.readRun_value hb)⟩

end

/-! ## One read of a check (R27, R39, R40, R57) -/

section
variable {s u : State} {c : Contender} {k d : Nat} {cell : CellNo}

theorem State.checkRead_value (h : s.pool.readRun c.chain k = .value d) : s.checkRead c k = (some d, s, false) := by
  simp only [State.checkRead, h]

theorem State.checkRead_stored {ref : PatternRef} (h : s.pool.readRun c.chain k = .unreadable cell)
    (howner : c.owner = .stored ref) : s.checkRead c k = (none, (s.recordFault cell).damagePattern ref, false) := by
  simp only [State.checkRead, h, howner]

theorem State.checkRead_reserved (h : s.pool.readRun c.chain k = .unreadable cell)
    (howner : ∀ ref, c.owner ≠ .stored ref) : s.checkRead c k = (none, s.recordFault cell, true) := by
  cases hc : c.owner with
  | stored ref => exact absurd hc (howner ref)
  | _ => simp only [State.checkRead, h, hc]

/-- A run that a check has read is the one that can be read. -/
theorem State.readRun_of_checkRead {a : Option Nat} {stop : Bool} (h : s.checkRead c k = (a, u, stop)) :
    a = some d ↔ s.pool.readRun c.chain k = .value d := by
  constructor
  · intro ha
    subst ha
    unfold State.checkRead at h
    split at h
    · rename_i d' hread
      obtain rfl := Option.some.inj (Prod.mk.inj h).1
      exact hread
    · cases h
    · split at h <;> cases h
  · intro hread
    rw [State.checkRead_value hread] at h
    exact (Prod.mk.inj h).1.symm

/-- A pattern in reserved cells whose run is unreadable, with the fault recorded. -/
def State.Stopped (u : State) (c : Contender) (k : Nat) : Prop :=
  (∀ ref, c.owner ≠ .stored ref) ∧
    ∃ cell : CellNo, u.pool.readRun c.chain k = .unreadable cell ∧ u.pool.cells[cell].fault = true

theorem State.stopped_of_checkRead {a : Option Nat} (h : s.checkRead c k = (a, u, true)) : u.Stopped c k := by
  unfold State.checkRead at h
  split at h
  · cases h
  · cases h
  · rename_i cell hread
    obtain ⟨pos, hplace⟩ := Pool.readRun_unreadable hread
    have hfault : (s.recordFault cell).pool.cells[cell].fault = true := by
      change (s.pool.recordFault cell).cells[cell].fault = true
      rw [Pool.recordFault, Pool.modifyCell_cells, if_pos rfl]
    have hstopped : (∀ ref, c.owner ≠ .stored ref) → (s.recordFault cell).Stopped c k := fun howner =>
      ⟨howner, cell, Pool.readRun_of_fault hplace hfault, hfault⟩
    split at h
    · cases h
    · rename_i hc
      cases h
      exact hstopped fun ref => by rw [hc]; exact nofun
    · rename_i hc
      cases h
      exact hstopped fun ref => by rw [hc]; exact nofun

end

/-! ## The comparison of two patterns run by run (R13, R27) -/

section
variable {p q : Contender} {k : Nat} {ks : List Nat} {a b : Option Nat} {s u v : State}

theorem compareRuns_stop_first (hp : s.checkRead p k = (a, u, true)) : compareRuns p q (k :: ks) s = (u, .unreadable) := by
  simp only [compareRuns, hp]

theorem compareRuns_stop_second (hp : s.checkRead p k = (a, u, false)) (hq : u.checkRead q k = (b, v, true)) :
    compareRuns p q (k :: ks) s = (v, .unreadable) := by
  simp only [compareRuns, hp, hq]

theorem compareRuns_clear (hp : s.checkRead p k = (a, u, false)) (hq : u.checkRead q k = (b, v, false)) {x y : Nat}
    (ha : a = some x) (hb : b = some y) (hwindows : windowsIntersect p.tolerance x q.tolerance y = false) :
    compareRuns p q (k :: ks) s = (v, .clear) := by
  subst ha hb
  simp only [compareRuns, hp, hq, hwindows, Bool.false_eq_true, if_false]

theorem compareRuns_goes_on (hp : s.checkRead p k = (a, u, false)) (hq : u.checkRead q k = (b, v, false))
    (hwindows : ∀ x y, a = some x → b = some y → windowsIntersect p.tolerance x q.tolerance y = true) :
    compareRuns p q (k :: ks) s = compareRuns p q ks v := by
  cases a with
  | none => simp only [compareRuns, hp, hq]
  | some x =>
    cases b with
    | none => simp only [compareRuns, hp, hq]
    | some y => simp only [compareRuns, hp, hq, hwindows x y rfl rfl, if_true]

end

theorem checkReads : Clause.checkReads := by
  intro s
  refine ⟨fun c k cell hread => ?_, fun c k d hread => State.checkRead_value hread, fun p q => rfl,
    fun p q k ks a b u v stop hp => ⟨fun hstop => ?_, fun hstop hq => ?_, fun hstop hq =>
      ⟨fun x y ha hb hwindows => ?_, fun hwindows => ?_⟩⟩, fun p q => rfl⟩
  · exact ⟨fun ref howner => State.checkRead_stored hread howner, fun howner => State.checkRead_reserved hread howner⟩
  all_goals subst hstop
  · exact compareRuns_stop_first hp
  · exact compareRuns_stop_second hp hq
  · exact compareRuns_clear hp hq ha hb hwindows
  · exact compareRuns_goes_on hp hq hwindows

/-- What the comparison of two patterns at some indexes tells about the runs before it, in `s`, and after it, in `u`. -/
def RunsOutcome (p q : Contender) (ks : List Nat) (s u : State) : CheckVerdict → Prop
  | .clear => ∃ k ∈ ks, ∃ a b, s.pool.readRun p.chain k = .value a ∧ s.pool.readRun q.chain k = .value b ∧
      windowsIntersect p.tolerance a q.tolerance b = false
  | .conflict other => other = q.owner ∧ ∀ k ∈ ks, ∀ a b, u.pool.readRun p.chain k = .value a →
      u.pool.readRun q.chain k = .value b → windowsIntersect p.tolerance a q.tolerance b = true
  | .unreadable => ∃ k ∈ ks, u.Stopped p k ∨ u.Stopped q k

/-- One more index in front, whose windows intersect as far as they can be read after it. -/
theorem RunsOutcome.cons {p q : Contender} {k : Nat} {ks : List Nat} {s v u : State} {verdict : CheckVerdict}
    (h : RunsOutcome p q ks v u verdict) (hsv : s.Marked v)
    (hhead : ∀ a b, u.pool.readRun p.chain k = .value a → u.pool.readRun q.chain k = .value b →
      windowsIntersect p.tolerance a q.tolerance b = true) : RunsOutcome p q (k :: ks) s u verdict := by
  cases verdict with
  | clear =>
    obtain ⟨j, hj, a, b, ha, hb, hwindows⟩ := h
    exact ⟨j, List.mem_cons_of_mem _ hj, a, b, hsv.readRun_value ha, hsv.readRun_value hb, hwindows⟩
  | conflict other =>
    obtain ⟨hother, hall⟩ := h
    exact ⟨hother, fun j hj => (List.mem_cons.1 hj).elim (fun he => he ▸ hhead) (hall j)⟩
  | unreadable =>
    obtain ⟨j, hj, hstopped⟩ := h
    exact ⟨j, List.mem_cons_of_mem _ hj, hstopped⟩

theorem compareRuns_outcome (p q : Contender) (ks : List Nat) (s : State) :
    RunsOutcome p q ks s (compareRuns p q ks s).1 (compareRuns p q ks s).2 := by
  induction ks generalizing s with
  | nil => exact ⟨rfl, nofun⟩
  | cons k ks ih =>
    obtain ⟨a, u, stop, hp⟩ : ∃ a u stop, s.checkRead p k = (a, u, stop) := ⟨_, _, _, rfl⟩
    have hsu : s.Marked u := by
      have h := s.checkRead_marked p k
      rwa [hp] at h
    cases stop with
    | true =>
      rw [compareRuns_stop_first hp]
      exact ⟨k, List.mem_cons_self .., .inl (State.stopped_of_checkRead hp)⟩
    | false =>
      obtain ⟨b, v, stop, hq⟩ : ∃ b v stop, u.checkRead q k = (b, v, stop) := ⟨_, _, _, rfl⟩
      have huv : u.Marked v := by
        have h := u.checkRead_marked q k
        rwa [hq] at h
      cases stop with
      | true =>
        rw [compareRuns_stop_second hp hq]
        exact ⟨k, List.mem_cons_self .., .inr (State.stopped_of_checkRead hq)⟩
      | false =>
        by_cases hapart : ∃ x y, a = some x ∧ b = some y ∧ windowsIntersect p.tolerance x q.tolerance y = false
        · obtain ⟨x, y, ha, hb, hwindows⟩ := hapart
          rw [compareRuns_clear hp hq ha hb hwindows]
          exact ⟨k, List.mem_cons_self .., x, y, (State.readRun_of_checkRead hp).1 ha,
            hsu.readRun_value ((State.readRun_of_checkRead hq).1 hb), hwindows⟩
        · have hwindows : ∀ x y, a = some x → b = some y → windowsIntersect p.tolerance x q.tolerance y = true :=
            fun x y ha hb => by
              by_contra hno
              exact hapart ⟨x, y, ha, hb, Bool.eq_false_iff.2 hno⟩
          have hend := compareRuns_marked p q ks v
          rw [compareRuns_goes_on hp hq hwindows]
          refine (ih v).cons (hsu.trans huv) fun x y hx hy => hwindows x y ?_ ?_
          · exact (State.readRun_of_checkRead hp).2 (((hsu.trans huv).trans hend).readRun_value hx)
          · exact (State.readRun_of_checkRead hq).2 ((huv.trans hend).readRun_value hy)

/-! ## What any check answers (R27) -/

/-- What a check of some pairs answers: that none conflicts before it, that one conflicts after it, or that a run of a
pattern in reserved cells is unreadable. -/
def CheckOutcome (pairs : Contender → Contender → Prop) (s u : State) : CheckVerdict → Prop
  | .clear => ∀ p q, pairs p q → ¬s.conflicts p q
  | .conflict other => ∃ p q, pairs p q ∧ q.owner = other ∧ u.conflicts p q
  | .unreadable => ∃ p q c, pairs p q ∧ (c = p ∨ c = q) ∧ ∃ k, 1 ≤ k ∧ k ≤ c.runCount ∧ u.Stopped c k

theorem CheckOutcome.mono {P Q : Contender → Contender → Prop} {s s' u : State} {verdict : CheckVerdict}
    (h : CheckOutcome P s u verdict) (hverdict : verdict ≠ .clear) (hPQ : ∀ p q, P p q → Q p q) :
    CheckOutcome Q s' u verdict := by
  cases verdict with
  | clear => exact absurd rfl hverdict
  | conflict other =>
    obtain ⟨p, q, hp, hrest⟩ := h
    exact ⟨p, q, hPQ p q hp, hrest⟩
  | unreadable =>
    obtain ⟨p, q, c, hp, hrest⟩ := h
    exact ⟨p, q, c, hPQ p q hp, hrest⟩

/-- A check after one that has found no conflict. -/
theorem CheckOutcome.after {P Q R : Contender → Contender → Prop} {s v u : State} {verdict : CheckVerdict}
    (h : CheckOutcome Q v u verdict) (hfirst : CheckOutcome P s v .clear) (hsv : s.Marked v)
    (hR : ∀ p q, R p q ↔ P p q ∨ Q p q) : CheckOutcome R s u verdict := by
  by_cases hverdict : verdict = .clear
  · subst hverdict
    intro p q hpq hconflict
    rcases (hR p q).1 hpq with hpq | hpq
    · exact hfirst p q hpq hconflict
    · exact h p q hpq (hsv.conflicts hconflict)
  · exact h.mono hverdict fun p q hq => (hR p q).2 (.inr hq)

theorem comparePair_outcome (p q : Contender) (s : State) :
    CheckOutcome (fun x y => x = p ∧ y = q) s (comparePair p q s).1 (comparePair p q s).2 := by
  unfold comparePair
  by_cases hread : p.runCount = q.runCount ∧ p.inputMask &&& q.inputMask ≠ 0
  · rw [if_pos hread]
    obtain ⟨hcount, hmask⟩ := hread
    have hindex : ∀ k, k ∈ (List.range p.runCount).map (· + 1) ↔ 1 ≤ k ∧ k ≤ p.runCount := fun k => by
      simp only [List.mem_map, List.mem_range]
      exact ⟨fun ⟨j, hj, he⟩ => by omega, fun hk => ⟨k - 1, by omega, by omega⟩⟩
    have hruns := compareRuns_outcome p q ((List.range p.runCount).map (· + 1)) s
    cases hverdict : (compareRuns p q ((List.range p.runCount).map (· + 1)) s).2 with
    | clear =>
      rw [hverdict] at hruns
      obtain ⟨k, hk, a, b, ha, hb, hwindows⟩ := hruns
      obtain ⟨h1, hn⟩ := (hindex k).1 hk
      rintro x y ⟨rfl, rfl⟩ ⟨-, -, hall⟩
      have hmeet := hall k h1 hn a b ha hb
      rw [hwindows] at hmeet
      cases hmeet
    | conflict other =>
      rw [hverdict] at hruns
      obtain ⟨rfl, hall⟩ := hruns
      exact ⟨p, q, ⟨rfl, rfl⟩, rfl, hcount, hmask, fun k h1 hn => hall k ((hindex k).2 ⟨h1, hn⟩)⟩
    | unreadable =>
      rw [hverdict] at hruns
      obtain ⟨k, hk, hstopped | hstopped⟩ := hruns
      · obtain ⟨h1, hn⟩ := (hindex k).1 hk
        exact ⟨p, q, p, ⟨rfl, rfl⟩, .inl rfl, k, h1, hn, hstopped⟩
      · obtain ⟨h1, hn⟩ := (hindex k).1 hk
        exact ⟨p, q, q, ⟨rfl, rfl⟩, .inr rfl, k, h1, hcount ▸ hn, hstopped⟩
  · rw [if_neg hread]
    rintro x y ⟨rfl, rfl⟩ ⟨hcount, hmask, -⟩
    exact hread ⟨hcount, hmask⟩

/-- Two checks, one after the other if the first finds no conflict. -/
theorem CheckOutcome.andThen {P Q R : Contender → Contender → Prop} {s : State} {first : State × CheckVerdict}
    {second : State → State × CheckVerdict} (hfirst : CheckOutcome P s first.1 first.2) (hmarked : s.Marked first.1)
    (hsecond : ∀ v, CheckOutcome Q v (second v).1 (second v).2) (hR : ∀ p q, R p q ↔ P p q ∨ Q p q)
    {whole : State × CheckVerdict} (hclear : first.2 = .clear → whole = second first.1)
    (hother : first.2 ≠ .clear → whole = first) : CheckOutcome R s whole.1 whole.2 := by
  by_cases hverdict : first.2 = .clear
  · rw [hclear hverdict]
    rw [hverdict] at hfirst
    exact (hsecond first.1).after hfirst hmarked hR
  · rw [hother hverdict]
    exact hfirst.mono hverdict fun p q hp => (hR p q).2 (.inl hp)

section
variable (p q : Contender) (l set : List Contender) (s : State)

theorem compareAgainst_cons_clear (h : (comparePair p q s).2 = .clear) :
    compareAgainst p (q :: l) s = compareAgainst p l (comparePair p q s).1 := by
  rw [compareAgainst]
  split
  · rename_i he
    rw [he]
  · rename_i hne
    exact (hne _ (Prod.ext rfl h)).elim

theorem compareAgainst_cons_found (h : (comparePair p q s).2 ≠ .clear) :
    compareAgainst p (q :: l) s = comparePair p q s := by
  rw [compareAgainst]
  split
  · rename_i he
    rw [he] at h
    exact absurd rfl h
  · rfl

theorem compareWithin_cons_clear (h : (compareAgainst p l s).2 = .clear) :
    compareWithin (p :: l) s = compareWithin l (compareAgainst p l s).1 := by
  rw [compareWithin]
  split
  · rename_i he
    rw [he]
  · rename_i hne
    exact (hne _ (Prod.ext rfl h)).elim

theorem compareWithin_cons_found (h : (compareAgainst p l s).2 ≠ .clear) :
    compareWithin (p :: l) s = compareAgainst p l s := by
  rw [compareWithin]
  split
  · rename_i he
    rw [he] at h
    exact absurd rfl h
  · rfl

theorem compareEach_cons_clear (h : (compareAgainst p set s).2 = .clear) :
    compareEach set (p :: l) s = compareEach set l (compareAgainst p set s).1 := by
  rw [compareEach]
  split
  · rename_i he
    rw [he]
  · rename_i hne
    exact (hne _ (Prod.ext rfl h)).elim

theorem compareEach_cons_found (h : (compareAgainst p set s).2 ≠ .clear) :
    compareEach set (p :: l) s = compareAgainst p set s := by
  rw [compareEach]
  split
  · rename_i he
    rw [he] at h
    exact absurd rfl h
  · rfl

theorem conflictCheck_clear (h : (compareWithin l s).2 = .clear) :
    conflictCheck l set s = compareEach set l (compareWithin l s).1 := by
  rw [conflictCheck]
  split
  · rename_i he
    rw [he]
  · rename_i hne
    exact (hne _ (Prod.ext rfl h)).elim

theorem conflictCheck_found (h : (compareWithin l s).2 ≠ .clear) : conflictCheck l set s = compareWithin l s := by
  rw [conflictCheck]
  split
  · rename_i he
    rw [he] at h
    exact absurd rfl h
  · rfl

end

theorem compareAgainst_outcome (p : Contender) (l : List Contender) (s : State) :
    CheckOutcome (fun x y => x = p ∧ y ∈ l) s (compareAgainst p l s).1 (compareAgainst p l s).2 := by
  induction l generalizing s with
  | nil => exact fun x y h => nomatch h.2
  | cons q l ih =>
    refine (comparePair_outcome p q s).andThen (comparePair_marked p q s) ih (fun x y => ?_)
      (compareAgainst_cons_clear p q l s) (compareAgainst_cons_found p q l s)
    rw [List.mem_cons, and_or_left]

theorem compareWithin_outcome (l : List Contender) (s : State) :
    CheckOutcome (fun x y => [x, y].Sublist l) s (compareWithin l s).1 (compareWithin l s).2 := by
  induction l generalizing s with
  | nil => exact fun x y h => nomatch h
  | cons p l ih =>
    refine (compareAgainst_outcome p l s).andThen (compareAgainst_marked p l s) ih (fun x y => ?_)
      (compareWithin_cons_clear p l s) (compareWithin_cons_found p l s)
    rw [List.cons_sublist_cons', List.singleton_sublist, or_comm]

theorem compareEach_outcome (set l : List Contender) (s : State) :
    CheckOutcome (fun x y => x ∈ l ∧ y ∈ set) s (compareEach set l s).1 (compareEach set l s).2 := by
  induction l generalizing s with
  | nil => exact fun x y h => nomatch h.1
  | cons p l ih =>
    refine (compareAgainst_outcome p set s).andThen (compareAgainst_marked p set s) ih (fun x y => ?_)
      (compareEach_cons_clear p l set s) (compareEach_cons_found p l set s)
    rw [List.mem_cons, or_and_right]

/-- The pairs of a check: those under test, and each pattern under test with each of the set. -/
def CheckedPair (underTest set : List Contender) (x y : Contender) : Prop :=
  [x, y].Sublist underTest ∨ x ∈ underTest ∧ y ∈ set

theorem conflictCheck_outcome (underTest set : List Contender) (s : State) :
    CheckOutcome (CheckedPair underTest set) s (conflictCheck underTest set s).1 (conflictCheck underTest set s).2 :=
  (compareWithin_outcome underTest s).andThen (compareWithin_marked underTest s) (compareEach_outcome set underTest)
    (fun _ _ => .rfl) (conflictCheck_clear underTest set s) (conflictCheck_found underTest set s)

theorem CheckedPair.mem {underTest set : List Contender} {x y : Contender} (h : CheckedPair underTest set x y) :
    x ∈ underTest ++ set ∧ y ∈ underTest ++ set := by
  rcases h with hwithin | ⟨hx, hy⟩
  · exact ⟨List.mem_append_left _ (hwithin.subset (by simp)), List.mem_append_left _ (hwithin.subset (by simp))⟩
  · exact ⟨List.mem_append_left _ hx, List.mem_append_right _ hy⟩

/-- No checked pair has a property: of those under test each pair once, and of the rest all pairs. -/
theorem checkedPair_forall {underTest set : List Contender} {R : Contender → Contender → Prop} :
    (∀ p q, CheckedPair underTest set p q → R p q) ↔
      underTest.Pairwise R ∧ ∀ p ∈ underTest, ∀ q ∈ set, R p q := by
  rw [List.pairwise_iff_forall_sublist]
  exact ⟨fun h => ⟨fun hpq => h _ _ (.inl hpq), fun p hp q hq => h p q (.inr ⟨hp, hq⟩)⟩,
    fun ⟨hwithin, hset⟩ p q h => h.elim hwithin fun ⟨hp, hq⟩ => hset p hp q hq⟩

theorem conflictCheck_conflict {underTest set : List Contender} {s : State} {other : ContenderOwner}
    (h : (conflictCheck underTest set s).2 = .conflict other) : ∃ p q, CheckedPair underTest set p q ∧ q.owner = other ∧
      (conflictCheck underTest set s).1.conflicts p q := by
  have houtcome := conflictCheck_outcome underTest set s
  rwa [h] at houtcome

theorem conflictCheck_no_conflict {underTest set : List Contender} {s : State}
    (h : (conflictCheck underTest set s).2 = .clear) :
    underTest.Pairwise (fun p q => ¬s.conflicts p q) ∧ ∀ p ∈ underTest, ∀ q ∈ set, ¬s.conflicts p q := by
  have houtcome := conflictCheck_outcome underTest set s
  rw [h] at houtcome
  exact checkedPair_forall.1 houtcome

theorem conflictCheck_stopped {underTest set : List Contender} {s : State}
    (h : (conflictCheck underTest set s).2 = .unreadable) : ∃ c ∈ underTest ++ set, ∃ k, 1 ≤ k ∧ k ≤ c.runCount ∧
      (conflictCheck underTest set s).1.Stopped c k := by
  have houtcome := conflictCheck_outcome underTest set s
  rw [h] at houtcome
  obtain ⟨p, q, c, hpair, rfl | rfl, hstopped⟩ := houtcome
  · exact ⟨_, hpair.mem.1, hstopped⟩
  · exact ⟨_, hpair.mem.2, hstopped⟩

theorem checkAnswers : Clause.checkAnswers := by
  intro underTest set s u
  refine ⟨conflictCheck_no_conflict, fun other h => ?_, fun h => ?_⟩
  · obtain ⟨p, q, hpair, hother, hconflict⟩ := conflictCheck_conflict h
    exact ⟨p, q, hother, hconflict, hpair.symm⟩
  · obtain ⟨c, hc, k, h1, hn, howner, cell, hread, hfault⟩ := conflictCheck_stopped h
    exact ⟨c, hc, howner, k, cell, h1, hn, hread, hfault⟩

end Sys2Proof.Machine
end

section
/-! SUPPORT. The conflict check on readable patterns: it changes nothing, and the conflict it names is the first of its order
(R27, R30). -/

namespace Sys2Proof.Machine

/-! ## Readable patterns -/

/-- Every run of a pattern can be read. -/
def State.Readable (s : State) (c : Contender) : Prop :=
  ∀ k, 1 ≤ k → k ≤ c.runCount → ∃ d, s.pool.readRun c.chain k = .value d

section
variable {s : State}

theorem compareRuns_readable {p q : Contender} {ks : List Nat}
    (hp : ∀ k ∈ ks, ∃ d, s.pool.readRun p.chain k = .value d) (hq : ∀ k ∈ ks, ∃ d, s.pool.readRun q.chain k = .value d) :
    (compareRuns p q ks s).1 = s := by
  induction ks with
  | nil => rfl
  | cons k ks ih =>
    obtain ⟨a, ha⟩ := hp k (List.mem_cons_self ..)
    obtain ⟨b, hb⟩ := hq k (List.mem_cons_self ..)
    cases hwindows : windowsIntersect p.tolerance a q.tolerance b with
    | false => rw [compareRuns_clear (State.checkRead_value ha) (State.checkRead_value hb) rfl rfl hwindows]
    | true =>
      rw [compareRuns_goes_on (State.checkRead_value ha) (State.checkRead_value hb)]
      · exact ih (fun j hj => hp j (List.mem_cons_of_mem _ hj)) (fun j hj => hq j (List.mem_cons_of_mem _ hj))
      · rintro x y hx hy
        obtain rfl := Option.some.inj hx
        obtain rfl := Option.some.inj hy
        exact hwindows

theorem comparePair_readable {p q : Contender} (hp : s.Readable p) (hq : s.Readable q) : (comparePair p q s).1 = s := by
  unfold comparePair
  split
  · rename_i hread
    have hindex : ∀ k ∈ (List.range p.runCount).map (· + 1), 1 ≤ k ∧ k ≤ p.runCount := fun k hk => by
      obtain ⟨j, hj, rfl⟩ := List.mem_map.1 hk
      exact ⟨Nat.succ_pos j, List.mem_range.1 hj⟩
    exact compareRuns_readable (fun k hk => hp k (hindex k hk).1 (hindex k hk).2)
      (fun k hk => hq k (hindex k hk).1 (hread.1 ▸ (hindex k hk).2))
  · rfl

theorem compareAgainst_readable {p : Contender} {l : List Contender} (hp : s.Readable p) (hl : ∀ q ∈ l, s.Readable q) :
    (compareAgainst p l s).1 = s := by
  induction l with
  | nil => rfl
  | cons q l ih =>
    have hpair := comparePair_readable hp (hl q (List.mem_cons_self ..))
    by_cases hverdict : (comparePair p q s).2 = .clear
    · rw [compareAgainst_cons_clear p q l s hverdict, hpair]
      exact ih fun r hr => hl r (List.mem_cons_of_mem _ hr)
    · rw [compareAgainst_cons_found p q l s hverdict, hpair]

theorem compareWithin_readable {l : List Contender} (hl : ∀ q ∈ l, s.Readable q) : (compareWithin l s).1 = s := by
  induction l with
  | nil => rfl
  | cons p l ih =>
    have hrest : ∀ q ∈ l, s.Readable q := fun q hq => hl q (List.mem_cons_of_mem _ hq)
    have hagainst := compareAgainst_readable (hl p (List.mem_cons_self ..)) hrest
    by_cases hverdict : (compareAgainst p l s).2 = .clear
    · rw [compareWithin_cons_clear p l s hverdict, hagainst]
      exact ih hrest
    · rw [compareWithin_cons_found p l s hverdict, hagainst]

theorem compareEach_readable {set l : List Contender} (hset : ∀ q ∈ set, s.Readable q) (hl : ∀ q ∈ l, s.Readable q) :
    (compareEach set l s).1 = s := by
  induction l with
  | nil => rfl
  | cons p l ih =>
    have hagainst := compareAgainst_readable (hl p (List.mem_cons_self ..)) hset
    by_cases hverdict : (compareAgainst p set s).2 = .clear
    · rw [compareEach_cons_clear p l set s hverdict, hagainst]
      exact ih fun q hq => hl q (List.mem_cons_of_mem _ hq)
    · rw [compareEach_cons_found p l set s hverdict, hagainst]

section
variable {underTest set : List Contender} (hread : ∀ c ∈ underTest ++ set, s.Readable c)
include hread

theorem conflictCheck_readable : (conflictCheck underTest set s).1 = s := by
  have htest : ∀ c ∈ underTest, s.Readable c := fun c hc => hread c (List.mem_append_left _ hc)
  have hset : ∀ c ∈ set, s.Readable c := fun c hc => hread c (List.mem_append_right _ hc)
  have hwithin := compareWithin_readable htest
  by_cases hverdict : (compareWithin underTest s).2 = .clear
  · rw [conflictCheck_clear underTest set s hverdict, hwithin]
    exact compareEach_readable hset htest
  · rw [conflictCheck_found underTest set s hverdict, hwithin]

theorem conflictCheck_not_stopped : (conflictCheck underTest set s).2 ≠ .unreadable := by
  intro hverdict
  obtain ⟨c, hc, k, h1, hn, -, cell, hunreadable, -⟩ := conflictCheck_stopped hverdict
  obtain ⟨d, hd⟩ := hread c hc k h1 hn
  rw [conflictCheck_readable hread] at hunreadable
  exact absurd (hd.symm.trans hunreadable) (by simp)

end

end

theorem readableChecks : Clause.readableChecks := by
  intro underTest set s hread
  have hsame := conflictCheck_readable (underTest := underTest) (set := set) hread
  refine ⟨hsame, ⟨conflictCheck_no_conflict, fun hnone => ?_⟩, fun other h => ?_⟩
  · cases hverdict : (conflictCheck underTest set s).2 with
    | clear => rfl
    | conflict other =>
      obtain ⟨p, q, hpair, -, hconflict⟩ := conflictCheck_conflict hverdict
      rw [hsame] at hconflict
      exact absurd hconflict (checkedPair_forall.2 hnone p q hpair)
    | unreadable => exact absurd hverdict (conflictCheck_not_stopped hread)
  · obtain ⟨p, q, hpair, hother, hconflict⟩ := conflictCheck_conflict h
    rw [hsame] at hconflict
    exact ⟨p, q, hother, hconflict, hpair.symm⟩

/-! ## The first conflict (R27, R30) -/

/-- The pattern at one place of a list conflicts with that at a place of another. -/
def State.ConflictAt (s : State) (l m : List Contender) (i j : Nat) : Prop :=
  ∃ p q, l[i]? = some p ∧ m[j]? = some q ∧ s.conflicts p q

/-- One pair of places stands before another. -/
def PlaceBefore (i j i' j' : Nat) : Prop := i < i' ∨ i = i' ∧ j < j'

section
variable {s : State} {other : ContenderOwner}

/-- The first of a list that conflicts with a pattern. -/
theorem compareAgainst_first {p : Contender} {l : List Contender} (hp : s.Readable p) (hl : ∀ q ∈ l, s.Readable q)
    (h : (compareAgainst p l s).2 = .conflict other) :
    ∃ (j : Nat) (q : Contender), l[j]? = some q ∧ s.conflicts p q ∧ q.owner = other ∧
      ∀ (j' : Nat) (q' : Contender), j' < j → l[j']? = some q' → ¬s.conflicts p q' := by
  induction l with
  | nil => cases h
  | cons q l ih =>
    have hrest : ∀ r ∈ l, s.Readable r := fun r hr => hl r (List.mem_cons_of_mem _ hr)
    have hpair := comparePair_readable hp (hl q (List.mem_cons_self ..))
    have houtcome := comparePair_outcome p q s
    by_cases hverdict : (comparePair p q s).2 = .clear
    · rw [compareAgainst_cons_clear p q l s hverdict, hpair] at h
      rw [hverdict] at houtcome
      obtain ⟨j, r, hr, hconflict, hother, hbefore⟩ := ih hrest h
      refine ⟨j + 1, r, hr, hconflict, hother, fun j' q' hj' hq' => ?_⟩
      cases j' with
      | zero => exact houtcome p q' ⟨rfl, (Option.some.inj hq').symm⟩
      | succ j' => exact hbefore j' q' (Nat.lt_of_succ_lt_succ hj') hq'
    · rw [compareAgainst_cons_found p q l s hverdict] at h
      rw [h, hpair] at houtcome
      obtain ⟨x, y, ⟨rfl, rfl⟩, hother, hconflict⟩ := houtcome
      exact ⟨0, y, rfl, hconflict, hother, fun j' _ hj' => absurd hj' (Nat.not_lt_zero j')⟩

theorem compareAgainst_none {p : Contender} {l : List Contender} (h : (compareAgainst p l s).2 = .clear) {j : Nat}
    {q : Contender} (hq : l[j]? = some q) : ¬s.conflicts p q := by
  have houtcome := compareAgainst_outcome p l s
  rw [h] at houtcome
  exact houtcome p q ⟨rfl, List.mem_of_getElem? hq⟩

/-- The first pair of a pattern under test and one of the set that conflict. -/
theorem compareEach_first {set l : List Contender} (hset : ∀ q ∈ set, s.Readable q) (hl : ∀ q ∈ l, s.Readable q)
    (h : (compareEach set l s).2 = .conflict other) :
    ∃ i j, s.ConflictAt l set i j ∧ set[j]?.map Contender.owner = some other ∧
      ∀ i' j', PlaceBefore i' j' i j → ¬s.ConflictAt l set i' j' := by
  induction l with
  | nil => cases h
  | cons p l ih =>
    have hp := hl p (List.mem_cons_self ..)
    have hrest : ∀ r ∈ l, s.Readable r := fun r hr => hl r (List.mem_cons_of_mem _ hr)
    by_cases hverdict : (compareAgainst p set s).2 = .clear
    · rw [compareEach_cons_clear p l set s hverdict, compareAgainst_readable hp hset] at h
      obtain ⟨i, j, hconflict, hother, hbefore⟩ := ih hrest h
      refine ⟨i + 1, j, hconflict, hother, fun i' j' hplace => ?_⟩
      cases i' with
      | zero =>
        rintro ⟨x, y, hx, hy, hxy⟩
        obtain rfl := Option.some.inj hx
        exact compareAgainst_none hverdict hy hxy
      | succ i' => exact hbefore i' j' (by unfold PlaceBefore at hplace ⊢; omega)
    · rw [compareEach_cons_found p l set s hverdict] at h
      obtain ⟨j, q, hq, hconflict, hother, hbefore⟩ := compareAgainst_first hp hset h
      refine ⟨0, j, ⟨p, q, rfl, hq, hconflict⟩, by rw [hq, Option.map_some, hother], fun i' j' hplace => ?_⟩
      rintro ⟨x, y, hx, hy, hxy⟩
      obtain ⟨rfl, hj'⟩ : i' = 0 ∧ j' < j := by unfold PlaceBefore at hplace; omega
      obtain rfl := Option.some.inj hx
      exact hbefore j' y hj' hy hxy

/-- The first pair under test that conflict. -/
theorem compareWithin_first {l : List Contender} (hl : ∀ q ∈ l, s.Readable q)
    (h : (compareWithin l s).2 = .conflict other) :
    ∃ i j, i < j ∧ s.ConflictAt l l i j ∧ l[j]?.map Contender.owner = some other ∧
      ∀ i' j', i' < j' → PlaceBefore i' j' i j → ¬s.ConflictAt l l i' j' := by
  induction l with
  | nil => cases h
  | cons p l ih =>
    have hp := hl p (List.mem_cons_self ..)
    have hrest : ∀ r ∈ l, s.Readable r := fun r hr => hl r (List.mem_cons_of_mem _ hr)
    by_cases hverdict : (compareAgainst p l s).2 = .clear
    · rw [compareWithin_cons_clear p l s hverdict, compareAgainst_readable hp hrest] at h
      obtain ⟨i, j, hij, hconflict, hother, hbefore⟩ := ih hrest h
      refine ⟨i + 1, j + 1, Nat.succ_lt_succ hij, hconflict, hother, fun i' j' hij' hplace => ?_⟩
      obtain ⟨j', rfl⟩ : ∃ m, j' = m + 1 := ⟨j' - 1, by omega⟩
      cases i' with
      | zero =>
        rintro ⟨x, y, hx, hy, hxy⟩
        obtain rfl := Option.some.inj hx
        exact compareAgainst_none (j := j') hverdict hy hxy
      | succ i' => exact hbefore i' j' (Nat.lt_of_succ_lt_succ hij') (by unfold PlaceBefore at hplace ⊢; omega)
    · rw [compareWithin_cons_found p l s hverdict] at h
      obtain ⟨j, q, hq, hconflict, hother, hbefore⟩ := compareAgainst_first hp hrest h
      refine ⟨0, j + 1, Nat.succ_pos j, ⟨p, q, rfl, hq, hconflict⟩, ?_, fun i' j' hij' hplace => ?_⟩
      · rw [List.getElem?_cons_succ, hq, Option.map_some, hother]
      · rintro ⟨x, y, hx, hy, hxy⟩
        obtain ⟨m, rfl⟩ : ∃ m, j' = m + 1 := ⟨j' - 1, by omega⟩
        obtain ⟨rfl, hm⟩ : i' = 0 ∧ m < j := by unfold PlaceBefore at hplace; omega
        obtain rfl := Option.some.inj hx
        exact hbefore m y hm hy hxy

theorem compareWithin_none {l : List Contender} (h : (compareWithin l s).2 = .clear) {i j : Nat} (hij : i < j) :
    ¬s.ConflictAt l l i j := by
  rintro ⟨p, q, hp, hq, hconflict⟩
  have houtcome := compareWithin_outcome l s
  rw [h] at houtcome
  have hpairwise : l.Pairwise (fun x y => ¬s.conflicts x y) :=
    List.pairwise_iff_forall_sublist.2 fun hxy => houtcome _ _ hxy
  obtain ⟨hi, rfl⟩ := List.getElem?_eq_some_iff.1 hp
  obtain ⟨hj, rfl⟩ := List.getElem?_eq_some_iff.1 hq
  exact List.pairwise_iff_getElem.1 hpairwise i j hi hj hij hconflict

end

theorem firstConflicts : Clause.firstConflicts := by
  intro underTest set s other hread before conflictAt h
  have htest : ∀ c ∈ underTest, s.Readable c := fun c hc => hread c (List.mem_append_left _ hc)
  have hset : ∀ c ∈ set, s.Readable c := fun c hc => hread c (List.mem_append_right _ hc)
  by_cases hverdict : (compareWithin underTest s).2 = .clear
  · rw [conflictCheck_clear underTest set s hverdict, compareWithin_readable htest] at h
    exact .inr ⟨fun i j hij => compareWithin_none hverdict hij, compareEach_first hset htest h⟩
  · rw [conflictCheck_found underTest set s hverdict] at h
    exact .inl (compareWithin_first htest h)

end Sys2Proof.Machine
end

section
/-! SUPPORT. Stored patterns that lie apart: what keeps them so, and what the conflict check makes sure of (law 2: R13,
R27). -/

namespace Sys2Proof.Machine

/-! ## Patterns that lie apart (R13) -/

/-- Two patterns do not conflict by their stored runs: where they have the same run count and a common input, some index
has windows that do not intersect. -/
def State.Apart (s : State) (c d : Contender) : Prop :=
  c.runCount = d.runCount → c.inputMask &&& d.inputMask ≠ 0 →
    ∃ k a b, 1 ≤ k ∧ k ≤ c.runCount ∧ s.storedRun c.chain k = some a ∧ s.storedRun d.chain k = some b ∧
      windowsIntersect c.tolerance a d.tolerance b = false

theorem State.conflictLaw_iff (s : State) : s.ConflictLaw ↔
    ∀ r q c d, r ≠ q → s.contenderOf r = some c → s.contenderOf q = some d → s.Apart c d := .rfl

theorem windowsIntersect_comm (x y : Fin 8) (a b : Nat) : windowsIntersect x a y b = windowsIntersect y b x a := by
  unfold windowsIntersect
  exact decide_eq_decide.2 and_comm

theorem State.Apart.symm {s : State} {c d : Contender} (h : s.Apart c d) : s.Apart d c := by
  intro hcount hmask
  obtain ⟨k, a, b, h1, hn, ha, hb, hwindows⟩ := h hcount.symm (by rwa [BitVec.and_comm])
  exact ⟨k, b, a, h1, hcount ▸ hn, hb, ha, (windowsIntersect_comm ..).trans hwindows⟩

theorem State.Apart.of_runs {s t : State} {c d : Contender} (h : s.Apart c d)
    (hc : ∀ k, t.storedRun c.chain k = s.storedRun c.chain k)
    (hd : ∀ k, t.storedRun d.chain k = s.storedRun d.chain k) : t.Apart c d := by
  intro hcount hmask
  obtain ⟨k, a, b, h1, hn, ha, hb, hwindows⟩ := h hcount hmask
  exact ⟨k, a, b, h1, hn, (hc k).trans ha, (hd k).trans hb, hwindows⟩

/-- A run that can be read is the stored one. -/
theorem State.storedRun_of_readRun {s : State} {chain : List CellNo} {k d : Nat}
    (h : s.pool.readRun chain k = .value d) : s.storedRun chain k = some d := by
  unfold State.storedRun
  cases hplace : runPlace chain k with
  | none =>
    rw [Pool.readRun_noPlace hplace] at h
    cases h
  | some place =>
    obtain ⟨c, pos⟩ := place
    rw [Pool.readRun_place hplace] at h
    split at h
    · cases h
    · exact congrArg some (RunRead.value.inj h)

/-- Patterns that do not conflict as they can be read lie apart. -/
theorem State.apart_of_not_conflicts {s : State} {c d : Contender} (h : ¬s.conflicts c d) : s.Apart c d := by
  intro hcount hmask
  by_contra hnone
  refine h ⟨hcount, hmask, fun k h1 hn a b ha hb => ?_⟩
  by_contra hwindows
  exact hnone ⟨k, a, b, h1, hn, State.storedRun_of_readRun ha, State.storedRun_of_readRun hb,
    Bool.eq_false_iff.2 hwindows⟩

/-! ## Pools with the same runs -/

/-- Every cell keeps its runs. -/
def Pool.SameRuns (p q : Pool) : Prop := ∀ c : CellNo, q.cells[c].runs = p.cells[c].runs

theorem Pool.SameRuns.refl (p : Pool) : p.SameRuns p := fun _ => rfl

theorem Pool.SameRuns.trans {p q r : Pool} (h : p.SameRuns q) (k : q.SameRuns r) : p.SameRuns r :=
  fun c => (k c).trans (h c)

theorem Pool.SameRuns.of_cells {p q : Pool} (h : q.cells = p.cells) : p.SameRuns q := fun c => by rw [h]

theorem Pool.sameRuns_foldl {f : Pool → CellNo → Pool} (hf : ∀ (p : Pool) c, p.SameRuns (f p c)) (chain : List CellNo)
    (p : Pool) : p.SameRuns (chain.foldl f p) := by
  induction chain generalizing p with
  | nil => exact .refl p
  | cons c cs ih => exact (hf p c).trans (ih _)

theorem Pool.modifyCell_sameRuns (p : Pool) (c : CellNo) {f : Cell → Cell} (hf : ∀ x : Cell, (f x).runs = x.runs) :
    p.SameRuns (p.modifyCell c f) := fun d => by
  rw [Pool.modifyCell_cells]
  split
  · exact hf _
  · rfl

theorem Pool.modifyChain_sameRuns (p : Pool) (chain : List CellNo) {f : Cell → Cell}
    (hf : ∀ x : Cell, (f x).runs = x.runs) : p.SameRuns (p.modifyChain chain f) :=
  Pool.sameRuns_foldl (fun p c => p.modifyCell_sameRuns c hf) chain p

theorem Pool.returnCells_sameRuns (p : Pool) (chain : List CellNo) : p.SameRuns (p.returnCells chain) := by
  refine Pool.sameRuns_foldl (fun p c d => ?_) chain p
  rw [Pool.returnCell_cells]
  split <;> rfl

theorem Pool.reserve_sameRuns {p q : Pool} {n : Nat} (h : p.reserve n = some q) : p.SameRuns q := by
  unfold Pool.reserve at h
  split at h
  · cases h
  · obtain rfl := Option.some.inj h
    exact p.modifyChain_sameRuns (p.freeList.take n) fun _ => rfl

theorem Pool.ownReservation_sameRuns (p : Pool) : p.SameRuns p.ownReservation :=
  p.modifyChain_sameRuns p.reservation fun _ => rfl

theorem Pool.SameRuns.storedRun {s t : State} (h : s.pool.SameRuns t.pool) (chain : List CellNo) (k : Nat) :
    t.storedRun chain k = s.storedRun chain k := by
  unfold State.storedRun
  refine congrArg (Option.map · (runPlace chain k)) (funext fun place => ?_)
  rw [h]

/-! ## Records that stand for the same patterns -/

/-- Two entry records have the same patterns under the same settings. -/
structure Installed.SamePatterns (e e' : Installed) : Prop where
  group : e'.group = e.group
  runCount : e'.runCount = e.runCount
  tolerance : e'.tolerance = e.tolerance
  chain : ∀ v, e'.chainOf v = e.chainOf v

theorem Installed.SamePatterns.refl (e : Installed) : e.SamePatterns e := ⟨rfl, rfl, rfl, fun _ => rfl⟩

theorem Installed.SamePatterns.trans {e f g : Installed} (h : e.SamePatterns f) (k : f.SamePatterns g) : e.SamePatterns g :=
  ⟨k.group.trans h.group, k.runCount.trans h.runCount, k.tolerance.trans h.tolerance,
    fun v => (k.chain v).trans (h.chain v)⟩

theorem Installed.SamePatterns.of_marks (e : Installed) (status : EntryStatus) (m a : Bool) :
    e.SamePatterns { e with status := status, mainDamaged := m, alternateDamaged := a } :=
  ⟨rfl, rfl, rfl, fun v => by cases v <;> rfl⟩

/-- Two group records have the same settings and the same repeat pattern. -/
structure Group.SamePatterns (x x' : Group) : Prop where
  settings : x'.settings = x.settings
  pattern : x'.repeatPattern = x.repeatPattern

theorem Group.SamePatterns.refl (x : Group) : x.SamePatterns x := ⟨rfl, rfl⟩

theorem Group.SamePatterns.trans {x y z : Group} (h : x.SamePatterns y) (k : y.SamePatterns z) : x.SamePatterns z :=
  ⟨k.settings.trans h.settings, k.pattern.trans h.pattern⟩

/-- A frame pattern that stood before. -/
theorem State.contenderOf_frame_of {s t : State} {slot : SlotNo} {v : Variant} {c : Contender}
    (h : t.contenderOf (.frame slot v) = some c)
    (hentry : ∀ e, t.installedAt slot = some e → ∃ e', s.installedAt slot = some e' ∧ e'.SamePatterns e)
    (hgroup : ∀ e x, t.installedAt slot = some e → t.groups[e.group] = some x →
      ∃ x', s.groups[e.group] = some x' ∧ x'.SamePatterns x) : s.contenderOf (.frame slot v) = some c := by
  obtain ⟨e, chain, x, he, hchain, hx, rfl⟩ := State.contenderOf_frame.1 h
  obtain ⟨e', he', hsame⟩ := hentry e he
  obtain ⟨x', hx', hsettings, -⟩ := hgroup e x he hx
  refine State.contenderOf_frame.2 ⟨e', chain, x', he', (hsame.chain v).symm.trans hchain, ?_, ?_⟩
  · rw [← hx']
    exact congrArg (fun g : GroupNo => s.groups[g]) hsame.group.symm
  · rw [hsame.runCount, hsame.tolerance, hsettings]

/-- A repeat pattern that stood before. -/
theorem State.contenderOf_ofGroup_of {s t : State} {g : GroupNo} {c : Contender} (h : t.contenderOf (.ofGroup g) = some c)
    (hgroup : ∀ x, t.groups[g] = some x → ∃ x', s.groups[g] = some x' ∧ x'.SamePatterns x) :
    s.contenderOf (.ofGroup g) = some c := by
  obtain ⟨x, n, chain, hx, hp, rfl⟩ := State.contenderOf_ofGroup.1 h
  obtain ⟨x', hx', hsettings, hpattern⟩ := hgroup x hx
  refine State.contenderOf_ofGroup.2 ⟨x', n, chain, hx', hpattern.symm.trans hp, ?_⟩
  rw [hsettings]

/-! ## Steps that add no pattern -/

/-- Every pattern stood before, under the same settings and with the same runs. -/
structure State.FewerPatterns (s t : State) : Prop where
  entry : ∀ slot e, t.installedAt slot = some e → ∃ e', s.installedAt slot = some e' ∧ e'.SamePatterns e
  group : ∀ (g : GroupNo) x, t.groups[g] = some x → ∃ x', s.groups[g] = some x' ∧ x'.SamePatterns x
  runs : s.pool.SameRuns t.pool

theorem State.FewerPatterns.refl (s : State) : s.FewerPatterns s :=
  ⟨fun _ e he => ⟨e, he, .refl e⟩, fun _ x hx => ⟨x, hx, .refl x⟩, .refl _⟩

theorem State.FewerPatterns.trans {s t u : State} (h : s.FewerPatterns t) (k : t.FewerPatterns u) : s.FewerPatterns u where
  entry slot e he := by
    obtain ⟨e', he', hsame⟩ := k.entry slot e he
    obtain ⟨e'', he'', hsame'⟩ := h.entry slot e' he'
    exact ⟨e'', he'', hsame'.trans hsame⟩
  group g x hx := by
    obtain ⟨x', hx', hsame⟩ := k.group g x hx
    obtain ⟨x'', hx'', hsame'⟩ := h.group g x' hx'
    exact ⟨x'', hx'', hsame'.trans hsame⟩
  runs := h.runs.trans k.runs

theorem State.FewerPatterns.contender {s t : State} (h : s.FewerPatterns t) {ref : PatternRef} {c : Contender}
    (hc : t.contenderOf ref = some c) : s.contenderOf ref = some c := by
  cases ref with
  | frame slot v => exact State.contenderOf_frame_of hc (h.entry slot) fun e x _ hx => h.group e.group x hx
  | ofGroup g => exact State.contenderOf_ofGroup_of hc (h.group g)

theorem State.SameEntries.samePatterns {s t : State} (h : s.SameEntries t) {slot : SlotNo} {e : Installed}
    (he : t.installedAt slot = some e) : ∃ e', s.installedAt slot = some e' ∧ e'.SamePatterns e := by
  obtain ⟨e', he', status, m, a, rfl⟩ := h.installedAt he
  exact ⟨e', he', .of_marks e' status m a⟩

theorem State.SameEntries.fewerPatterns {s t : State} (h : s.SameEntries t) (hgroups : t.groups = s.groups)
    (hcells : t.pool.cells = s.pool.cells) : s.FewerPatterns t :=
  ⟨fun _ _ he => h.samePatterns he, fun _ x hx => ⟨x, hgroups ▸ hx, .refl x⟩, .of_cells hcells⟩

/-- The same records, and cells with the same runs. -/
theorem State.FewerPatterns.of_records {s t : State} (hentries : t.entries = s.entries) (hgroups : t.groups = s.groups)
    (hruns : s.pool.SameRuns t.pool) : s.FewerPatterns t :=
  ⟨fun _ _ he => (State.SameEntries.of_entries hentries).samePatterns he, fun _ x hx => ⟨x, hgroups ▸ hx, .refl x⟩, hruns⟩

theorem State.served_fewerPatterns (s : State) (p : Position) : s.FewerPatterns (s.served p) :=
  .of_records rfl rfl (.refl _)

theorem State.Within.fewerPatterns {l : List Part} {s t : State} (h : State.Within l s t) (hentries : Part.entries ∉ l)
    (hgroups : Part.groups ∉ l) (hcells : Part.cells ∉ l) : s.FewerPatterns t :=
  (h.sameEntries hentries).fewerPatterns (h .groups hgroups) (h .cells hcells)

theorem State.Marked.fewerPatterns {s t : State} (h : s.Marked t) : s.FewerPatterns t where
  entry _ _ he := h.sameEntries.samePatterns he
  group g x hx := by
    rcases h.group g with hg | ⟨y, hy, hg⟩
    · exact ⟨x, hg ▸ hx, .refl x⟩
    · obtain rfl := Option.some.inj (hg.symm.trans hx)
      exact ⟨y, hy, rfl, rfl⟩
  runs c := by
    rcases h.cell c with hc | hc <;> rw [hc]

theorem State.setPool_fewerPatterns {s : State} {p : Pool} (h : s.pool.SameRuns p) : s.FewerPatterns (s.setPool p) :=
  .of_records rfl rfl h

/-- A slot that holds no installed entry any more. -/
theorem State.setEntry_fewerPatterns (s : State) (slot : SlotNo) {x : Entry} (hx : ∀ e, x.occupant ≠ .installed e) :
    s.FewerPatterns (s.setEntry slot x) where
  entry other e he := by
    rw [State.installedAt_setEntry] at he
    split at he
    · split at he
      · rename_i e' hocc
        exact absurd hocc (hx e')
      all_goals cases he
    · exact ⟨e, he, .refl e⟩
  group _ x hx := ⟨x, hx, .refl x⟩
  runs := .refl _

theorem State.freeSlot_fewerPatterns (s : State) (slot : SlotNo) : s.FewerPatterns (s.freeSlot slot) :=
  s.setEntry_fewerPatterns slot nofun

theorem State.freeLoading_fewerPatterns (s : State) : s.FewerPatterns s.freeLoading := by
  unfold State.freeLoading
  split
  · exact s.freeSlot_fewerPatterns _
  · exact .refl s

theorem State.setGroup_fewerPatterns {s : State} {g : GroupNo} {x : Option Group}
    (h : ∀ y, x = some y → ∃ y', s.groups[g] = some y' ∧ y'.SamePatterns y) : s.FewerPatterns (s.setGroup g x) where
  entry _ e he := ⟨e, he, .refl e⟩
  group k y hy := by
    rw [State.groups_setGroup] at hy
    split at hy
    · rename_i heq
      exact heq ▸ h y hy
    · exact ⟨y, hy, .refl y⟩
  runs := .refl _

theorem State.changeCount_fewerPatterns (s : State) (g : GroupNo) (f : Nat → Nat) :
    s.FewerPatterns (s.changeCount g f) := by
  unfold State.changeCount
  split
  · rename_i x hx
    refine State.setGroup_fewerPatterns fun y hy => ⟨x, hx, ?_⟩
    obtain rfl := Option.some.inj hy
    exact ⟨rfl, rfl⟩
  · exact .refl s

theorem State.returnCells_fewerPatterns (s : State) (chain : List CellNo) : s.FewerPatterns (s.returnCells chain) := by
  rw [State.returnCells_frame]
  exact .of_records rfl rfl (s.pool.returnCells_sameRuns chain)

theorem State.returnReservation_fewerPatterns (s : State) : s.FewerPatterns s.returnReservation :=
  (State.setPool_fewerPatterns (p := { s.pool with reservation := [] }) (.of_cells rfl)).trans
    (State.returnCells_fewerPatterns _ _)

theorem State.finish_fewerPatterns (s : State) (task : Task) (held : Bool) (outcome : HostOutcome) (results : List Word) :
    s.FewerPatterns (s.finish task held outcome results) :=
  (s.finish_within task held outcome results).fewerPatterns (by decide) (by decide) (by decide)

/-- A command that ends with its reservation given back. -/
theorem State.giveBack_fewerPatterns (s : State) (task : Task) (held : Bool) (outcome : HostOutcome)
    (results : List Word) : s.FewerPatterns (s.returnReservation.finish task held outcome results) :=
  s.returnReservation_fewerPatterns.trans (State.finish_fewerPatterns ..)

/-! ## What keeps law 2 -/

/-- Every pattern stood before, and the chains of the patterns keep their runs. -/
theorem State.ConflictLaw.of_stored {s t : State} (h : s.ConflictLaw)
    (hcontender : ∀ ref c, t.contenderOf ref = some c → s.contenderOf ref = some c)
    (hruns : ∀ ref c, s.contenderOf ref = some c → ∀ k, t.storedRun c.chain k = s.storedRun c.chain k) :
    t.ConflictLaw := by
  refine t.conflictLaw_iff.2 fun r q c d hne hc hd => ?_
  have hc' := hcontender r c hc
  have hd' := hcontender q d hd
  exact (s.conflictLaw_iff.1 h r q c d hne hc' hd').of_runs (hruns r c hc') (hruns q d hd')

theorem State.ConflictLaw.fewer {s t : State} (h : s.ConflictLaw) (hf : s.FewerPatterns t) : t.ConflictLaw :=
  h.of_stored (fun _ _ => hf.contender) fun _ c _ k => hf.runs.storedRun c.chain k

theorem State.ConflictLaw.of_none {t : State} (h : ∀ ref, t.contenderOf ref = none) : t.ConflictLaw :=
  fun r _ _ _ _ hc => (nomatch (h r).symm.trans hc)

/-- The step writes the patterns under test of a check that found no conflict, and no others but those that the check
compared them with. -/
theorem State.ConflictLaw.tested {s t : State} (h : s.ConflictLaw) {underTest : List Contender}
    {excluded : PatternRef → Bool} {new : PatternRef → Prop} {owner : PatternRef → ContenderOwner}
    (hcheck : (conflictCheck underTest (s.conflictSet excluded) s).2 = .clear) (hruns : s.pool.SameRuns t.pool)
    (howner : ∀ r q, new r → new q → r ≠ q → owner r ≠ owner q)
    (hnew : ∀ ref c, new ref → t.contenderOf ref = some c → { c with owner := owner ref } ∈ underTest)
    (hold : ∀ ref c, ¬new ref → t.contenderOf ref = some c → excluded ref = false ∧ s.contenderOf ref = some c) :
    t.ConflictLaw := by
  obtain ⟨hwithin, hset⟩ := conflictCheck_no_conflict hcheck
  have hapart : underTest.Pairwise s.Apart := hwithin.imp State.apart_of_not_conflicts
  have hnewOld : ∀ r q c d, new r → ¬new q → t.contenderOf r = some c → t.contenderOf q = some d → s.Apart c d := by
    intro r q c d hr hq hc hd
    exact State.apart_of_not_conflicts (c := { c with owner := owner r })
      (hset _ (hnew r c hr hc) d (State.mem_conflictSet.2 ⟨q, hold q d hq hd⟩))
  refine t.conflictLaw_iff.2 fun r q c d hne hc hd => ?_
  refine State.Apart.of_runs (s := s) ?_ (hruns.storedRun c.chain) (hruns.storedRun d.chain)
  by_cases hr : new r <;> by_cases hq : new q
  · have hsymm : Std.Symm s.Apart := ⟨fun _ _ => State.Apart.symm⟩
    have hother : ({ c with owner := owner r } : Contender) ≠ { d with owner := owner q } := fun heq =>
      howner r q hr hq hne (congrArg Contender.owner heq)
    have hboth : s.Apart { c with owner := owner r } { d with owner := owner q } :=
      hapart.forall (hnew r c hr hc) (hnew q d hq hd) hother
    exact hboth
  · exact hnewOld r q c d hr hq hc hd
  · exact (hnewOld q r d c hq hr hd hc).symm
  · exact s.conflictLaw_iff.1 h r q c d hne (hold r c hr hc).2 (hold q d hq hd).2

end Sys2Proof.Machine
end

section
/-! SUPPORT. The commands that add no pattern: those that take patterns away, mark them, or leave them (law 2). -/

namespace Sys2Proof.Machine

/-! ## The table steps of the host -/

theorem installParameterBody_fewerPatterns (task : Task) (held : Bool) (s : State) :
    s.FewerPatterns (installParameterBody task held s) := by
  have hfailed : ∀ outcome, s.FewerPatterns (s.stepFailed task outcome) := fun outcome =>
    (s.stepFailed_within _ _).fewerPatterns (by decide) (by decide) (by decide)
  unfold installParameterBody
  simp only
  split
  · exact hfailed _
  split
  · exact hfailed _
  split
  · exact hfailed _
  split
  · exact hfailed _
  split
  · exact hfailed _
  · rename_i slot _ _ p hp
    have hloading : s.FewerPatterns (s.setLoading slot task.loading) := s.setEntry_fewerPatterns slot nofun
    exact (hloading.trans (State.setPool_fewerPatterns (Pool.reserve_sameRuns hp))).trans
      ((State.stepPassed_within _ _ _).fewerPatterns (by decide) (by decide) (by decide))

theorem groupParameterBody_fewerPatterns (task : Task) (held : Bool) (s : State) :
    s.FewerPatterns (groupParameterBody task held s) := by
  have hfailed : ∀ outcome, s.FewerPatterns (s.stepFailed task outcome) := fun outcome =>
    (s.stepFailed_within _ _).fewerPatterns (by decide) (by decide) (by decide)
  unfold groupParameterBody
  simp only
  split
  · exact hfailed _
  split
  · exact hfailed _
  split
  · exact hfailed _
  · rename_i p hp
    exact (State.setPool_fewerPatterns (Pool.reserve_sameRuns hp)).trans
      ((State.stepPassed_within _ _ _).fewerPatterns (by decide) (by decide) (by decide))

theorem State.cleanUp_fewerPatterns (s : State) : s.FewerPatterns s.cleanUp := by
  unfold State.cleanUp
  split
  · split
    · exact (((s.served_fewerPatterns .host).trans (State.freeLoading_fewerPatterns _)).trans (State.returnReservation_fewerPatterns _)).trans
        ((State.endTask_within _ _ _ _).fewerPatterns (by decide) (by decide) (by decide))
    all_goals exact .refl s
  · exact .refl s

theorem groupRemoveBody_fewerPatterns (task : Task) (held : Bool) (s : State) :
    s.FewerPatterns (groupRemoveBody task held s) := by
  unfold groupRemoveBody
  simp only
  split
  · exact s.finish_fewerPatterns ..
  · rename_i group _
    split
    · exact s.finish_fewerPatterns ..
    · have hreleased := (s.releaseRepeat_within (argGroup task.arg) group.repeatPattern).fewerPatterns (by decide)
        (by decide) (by decide)
      exact ((hreleased.trans (State.setGroup_fewerPatterns (x := none) nofun)).trans
        ((State.clearToggle_within _ _).fewerPatterns (by decide) (by decide) (by decide))).trans
        (State.finish_fewerPatterns ..)

theorem State.retireEntry_fewerPatterns (s : State) (hd : Handle) (e : Installed) :
    s.FewerPatterns (s.retireEntry hd e) := by
  have hfreed := (s.freeSlot_fewerPatterns hd.slot).trans
    ((s.freeSlot hd.slot).changeCount_fewerPatterns e.group (· - 1))
  rw [State.changeCount_frame, State.changeCount_groups (s := s) (t := s.freeSlot hd.slot) rfl]
    at hfreed
  rw [State.retireEntry_parts]
  exact ⟨hfreed.entry, hfreed.group, .refl _⟩

theorem retireBody_fewerPatterns (task : Task) (held : Bool) (s : State) : s.FewerPatterns (retireBody task held s) := by
  unfold retireBody
  split
  · exact s.finish_fewerPatterns ..
  · exact (s.retireEntry_fewerPatterns _ _).trans (State.finish_fewerPatterns ..)

theorem entryReadBody_fewerPatterns (task : Task) (held : Bool) (s : State) :
    s.FewerPatterns (entryReadBody task held s) := by
  unfold entryReadBody
  split
  · exact s.finish_fewerPatterns ..
  · rename_i hd e _
    exact (s.readFrames_marked hd.slot e).fewerPatterns.trans (State.finish_fewerPatterns ..)

theorem groupReadBody_fewerPatterns (task : Task) (held : Bool) (s : State) :
    s.FewerPatterns (groupReadBody task held s) := by
  unfold groupReadBody
  simp only
  split
  · exact s.finish_fewerPatterns ..
  · rename_i group _
    exact (s.readRepeat_marked (argGroup task.arg) group.repeatPattern).fewerPatterns.trans
      (State.finish_fewerPatterns ..)

theorem suspendBody_fewerPatterns (task : Task) (held : Bool) (s : State) : s.FewerPatterns (suspendBody task held s) :=
  (suspendBody_sameEntries task held s).fewerPatterns ((suspendBody_within task held s) .groups (by decide))
    ((suspendBody_within task held s) .cells (by decide))

theorem resumeBody_fewerPatterns (task : Task) (held : Bool) (s : State) : s.FewerPatterns (resumeBody task held s) :=
  (resumeBody_sameEntries task held s).fewerPatterns ((resumeBody_within task held s) .groups (by decide))
    ((resumeBody_within task held s) .cells (by decide))

/-! ## The other commands that touch records or cells -/

theorem exec_lookup_fewerPatterns {i : InputId} {s t : State} (h : exec (.lookup i) s = .next t) :
    s.FewerPatterns t := by
  cases h
  split
  · rename_i b _ _
    have hbegin : s.FewerPatterns (s.beginLookup i b) := .of_records rfl rfl (.refl _)
    unfold State.runLookup
    split
    · exact hbegin
    · rename_i b' _
      exact (hbegin.trans (State.visits_marked b' ((s.beginLookup i b).binList b'.runs.length)
        (s.beginLookup i b, .none)).fewerPatterns).trans
        ((State.endLookup_within _ _ _).fewerPatterns (by decide) (by decide) (by decide))
  · exact .refl s

theorem exec_damageNotice_fewerPatterns {o : OutputId} {s t : State} (h : exec (.damageNotice o) s = .next t) :
    s.FewerPatterns t := by
  cases h
  split
  · rename_i d _ _
    have htaken : (s.served (.output o)).FewerPatterns ((s.served (.output o)).takeDamage d) := by
      unfold State.takeDamage
      split
      · split
        · exact (State.damagePattern_marked _ _).fewerPatterns
        · exact .of_records rfl rfl (.refl _)
      · exact .of_records rfl rfl (.refl _)
    exact ((s.served_fewerPatterns _).trans htaken).trans
      ((State.raiseDeferred_within _ o).fewerPatterns (by decide) (by decide) (by decide))
  · exact .refl s

theorem exec_frameParityFault_fewerPatterns {o : OutputId} {time : Time} {s t : State}
    (h : exec (.frameParityFault o time) s = .next t) : s.FewerPatterns t := by
  have hw := exec_within _ s t h
  have hruns : s.pool.SameRuns t.pool := by
    cases h
    have hadvanced : s.pool.SameRuns (s.advanceTo time).pool := .of_cells ((s.advanceTo_within time) .cells (by decide))
    split
    · rename_i f c _
      refine hadvanced.trans ?_
      unfold State.cutFrame
      split
      · exact .refl _
      · have hfault := ((s.advanceTo time).recordFault_marked c).fewerPatterns.runs
        exact hfault.trans (.of_cells ((State.endActive_only _ o .damaged f.runEnd).within .cells (by decide)))
    · exact hadvanced
  exact .of_records (hw .entries (by simp only [touches]; decide)) (hw .groups (by simp only [touches]; decide)) hruns

theorem exec_frameGrant_fewerPatterns {o : OutputId} {s t : State} (h : exec (.frameGrant o) s = .next t) :
    s.FewerPatterns t := by
  have hw := exec_within _ s t h
  refine .of_records (hw .entries (by simp only [touches]; decide)) (hw .groups (by simp only [touches]; decide))
    fun c => ?_
  rcases exec_frameGrant_cells h with hsame | ⟨ref, chain, -, hadd⟩
  · rw [hsame]
  · rw [hadd, Pool.addReference_cells]

theorem State.takeRelease_fewerPatterns (s : State) (chain : List CellNo) : s.FewerPatterns (s.takeRelease chain) := by
  unfold State.takeRelease
  simp only
  split
  · exact s.returnCells_fewerPatterns chain
  · exact State.setPool_fewerPatterns (s.pool.modifyChain_sameRuns chain fun _ => rfl)

theorem State.takeRemoval_fewerPatterns (s : State) (o : OutputId) (chain : List CellNo) :
    s.FewerPatterns (s.takeRemoval o chain) := by
  have hdropped : s.pool.SameRuns (s.pool.dropReference chain o) := s.pool.modifyChain_sameRuns chain fun _ => rfl
  unfold State.takeRemoval
  simp only
  split
  · exact State.setPool_fewerPatterns hdropped
  · split
    · have hlist : ∀ l, s.FewerPatterns (s.setPool { s.pool.dropReference chain o with returnList := l }) :=
        fun _ => State.setPool_fewerPatterns hdropped
      exact (hlist _).trans (State.returnCells_fewerPatterns _ _)
    · exact State.setPool_fewerPatterns hdropped

end Sys2Proof.Machine
end

section
/-! SUPPORT. The commands that bring patterns or write runs keep law 2 (R13, R27, R30, R31, R35 to R37, R51, R59). -/

namespace Sys2Proof.Machine

/-! ## Installs (R30) -/

/-- The reserved pattern that becomes a frame pattern of an installed entry. -/
def installOwner : PatternRef → ContenderOwner
  | .frame _ v => .reservedFrame v
  | .ofGroup _ => .reservedRepeat

theorem State.completeInstall_conflictLaw {s u : State} (hs : s.ConflictLaw) {slot : SlotNo} {l : Loading}
    (hm : s.Marked u)
    (hcheck : (conflictCheck (s.installUnderTest l) (s.conflictSet (fun _ => false)) s).2 = .clear) :
    (u.completeInstall slot l).1.ConflictLaw := by
  let v := (u.setEntry slot { generation := nextGeneration u.entries[slot].generation
                              occupant := .installed (l.install u.pool.reservation) }).setPool u.pool.ownReservation
  have hinstalled : ∀ other, v.installedAt other =
      if slot = other then some (l.install u.pool.reservation) else u.installedAt other :=
    fun other => u.installedAt_setEntry slot other _
  have hreservation : u.pool.reservation = s.pool.reservation := by rw [hm.frame]
  have hold : ∀ ref c, ofSlot slot ref ≠ true → v.contenderOf ref = some c → s.contenderOf ref = some c := by
    intro ref c href hc
    cases ref with
    | ofGroup g => exact hm.fewerPatterns.contender hc
    | frame other w =>
      have hother : slot ≠ other := fun heq => href (decide_eq_true heq.symm)
      refine State.contenderOf_frame_of hc (fun e he => ?_) fun e x _ hx => hm.fewerPatterns.group e.group x hx
      rw [hinstalled, if_neg hother] at he
      exact hm.fewerPatterns.entry other e he
  have hlaw : v.ConflictLaw := by
    refine hs.tested (new := fun ref => ofSlot slot ref = true) (owner := installOwner) hcheck
      (hm.fewerPatterns.runs.trans u.pool.ownReservation_sameRuns) (fun r q hr hq hne => ?_) (fun ref c href hc => ?_)
      fun ref c href hc => ⟨rfl, hold ref c href hc⟩
    · obtain ⟨w, rfl⟩ := ofSlot_iff.1 hr
      obtain ⟨w', rfl⟩ := ofSlot_iff.1 hq
      exact fun heq => hne (congrArg (PatternRef.frame slot) (ContenderOwner.reservedFrame.inj heq))
    · obtain ⟨w, rfl⟩ := ofSlot_iff.1 href
      obtain ⟨e, chain, x, he, hchain, hx, rfl⟩ := State.contenderOf_frame.1 hc
      rw [hinstalled, if_pos rfl] at he
      obtain rfl := Option.some.inj he
      obtain ⟨x', hx', hsettings, -⟩ := hm.fewerPatterns.group l.group x hx
      rw [State.installUnderTest_eq hx', ← hreservation, ← hsettings]
      cases w with
      | main =>
        obtain rfl := Option.some.inj hchain
        exact List.mem_cons_self
      | alternate =>
        obtain ⟨hpresent, rfl⟩ : l.alternatePresent = true ∧ u.pool.reservation.drop ((l.runCount + 7) / 8) = chain := by
          simpa [Installed.chainOf, Loading.install, reservationParts, cellsFor] using hchain
        rw [if_pos hpresent]
        exact List.mem_cons_of_mem _ List.mem_cons_self
  exact hlaw.fewer (((State.joinFrames_within v slot (l.install u.pool.reservation)).fewerPatterns (by decide) (by decide)
    (by decide)).trans (State.changeCount_fewerPatterns _ _ _))

theorem installFinalBody_conflictLaw (task : Task) (held : Bool) {s : State} (h : s.ConflictLaw) :
    (installFinalBody task held s).ConflictLaw := by
  unfold installFinalBody
  split
  · exact h
  · rename_i slot l _
    have hm := conflictCheck_marked (s.installUnderTest l) (s.conflictSet (fun _ => false)) s
    have hreturned : ∀ (u : State), s.Marked u → ∀ outcome words,
        ((u.freeSlot slot).returnReservation.finish task held outcome words).ConflictLaw := fun u hu _ _ =>
      h.fewer ((hu.fewerPatterns.trans (u.freeSlot_fewerPatterns slot)).trans (State.giveBack_fewerPatterns ..))
    split <;> rename_i hs <;> rw [hs] at hm
    · exact hreturned _ hm _ _
    · exact hreturned _ hm _ _
    · exact (State.completeInstall_conflictLaw h hm (by rw [hs])).fewer (State.finish_fewerPatterns ..)

/-! ## Groups (R35 to R37) -/

theorem State.defineGroup_sameRuns (s : State) (g : GroupNo) (settings : GroupSettings) (p : Option Pattern) :
    s.pool.SameRuns (s.defineGroup g settings p).pool := by
  cases p with
  | none => exact .refl _
  | some p =>
    rw [State.defineGroup_some]
    exact s.pool.ownReservation_sameRuns.trans (.of_cells ((State.joinBin_within _ _ _) .cells (by decide)))

/-- A group that is defined changes no pattern but its own. -/
theorem State.defineGroup_contender {s : State} {g : GroupNo} (hempty : ∀ slot, s.groupAt slot ≠ some g)
    {settings : GroupSettings} {p : Option Pattern} {ref : PatternRef} {c : Contender} (href : ref ≠ .ofGroup g)
    (hc : (s.defineGroup g settings p).contenderOf ref = some c) : s.contenderOf ref = some c := by
  have hother : ∀ k x, g ≠ k → (s.defineGroup g settings p).groups[k] = some x →
      ∃ x', s.groups[k] = some x' ∧ x'.SamePatterns x := fun k x hk hx => by
    rw [State.defineGroup_groups, if_neg hk] at hx
    exact ⟨x, hx, .refl x⟩
  cases ref with
  | ofGroup k => exact State.contenderOf_ofGroup_of hc fun x => hother k x fun heq => href (congrArg _ heq.symm)
  | frame slot v =>
    have hentry : ∀ e, (s.defineGroup g settings p).installedAt slot = some e →
        ∃ e', s.installedAt slot = some e' ∧ e'.SamePatterns e := fun _ he =>
      ((s.defineGroup_within g settings p).sameEntries (by decide)).samePatterns he
    refine State.contenderOf_frame_of hc hentry fun e x he => hother e.group x fun heq => hempty slot ?_
    obtain ⟨e', he', hsame⟩ := hentry e he
    unfold State.groupAt
    rw [he', heq, hsame.group]
    rfl

theorem groupDefineFinalBody_conflictLaw (task : Task) (held : Bool) {s : State} (h : s.ConflictLaw)
    (hcount : s.CountLaw) (hg : repeatChoice (task.word 0) = 1 → s.groups[argGroup task.arg] = none) :
    (groupDefineFinalBody task held s).ConflictLaw := by
  unfold groupDefineFinalBody
  simp only
  split
  · rename_i hrepeat
    have hm := conflictCheck_marked [reservedRepeatContender task (s.newRepeat task)] (s.conflictSet (fun _ => false)) s
    split <;> rename_i u hs <;> rw [hs] at hm
    · exact h.fewer (hm.fewerPatterns.trans (State.giveBack_fewerPatterns ..))
    · exact h.fewer (hm.fewerPatterns.trans (State.giveBack_fewerPatterns ..))
    · refine State.ConflictLaw.fewer ?_ (State.finish_fewerPatterns ..)
      have hempty : ∀ slot, u.groupAt slot ≠ some (argGroup task.arg) := fun slot => by
        rw [hm.sameCounts.group]
        exact hcount.no_entry (hg hrepeat) slot
      refine h.tested (new := fun ref => ref = .ofGroup (argGroup task.arg)) (owner := fun _ => .reservedRepeat)
        (by rw [hs]) (hm.fewerPatterns.runs.trans (u.defineGroup_sameRuns _ _ _))
        (fun r q hr hq hne => absurd (hr.trans hq.symm) hne) (fun ref c href hc => ?_)
        fun ref c href hc => ⟨rfl, hm.fewerPatterns.contender (State.defineGroup_contender hempty href hc)⟩
      subst href
      obtain ⟨x, n, chain, hx, hp, rfl⟩ := State.contenderOf_ofGroup.1 hc
      rw [State.defineGroup_groups, if_pos rfl] at hx
      obtain rfl := Option.some.inj hx
      obtain ⟨rfl, rfl⟩ := Pattern.mk.inj (Option.some.inj hp)
      exact List.mem_singleton.2 rfl
  · split
    · exact h.fewer (s.finish_fewerPatterns ..)
    · rename_i hnone
      refine State.ConflictLaw.fewer ?_ (State.finish_fewerPatterns ..)
      have hundefined : s.groups[argGroup task.arg] = none := by simpa using hnone
      refine h.of_stored (fun ref c hc => State.defineGroup_contender (hcount.no_entry hundefined) ?_ hc)
        fun _ c _ k => (s.defineGroup_sameRuns _ _ _).storedRun c.chain k
      rintro rfl
      obtain ⟨x, n, chain, hx, hp, -⟩ := State.contenderOf_ofGroup.1 hc
      rw [State.defineGroup_groups, if_pos rfl] at hx
      obtain rfl := Option.some.inj hx
      cases hp

theorem State.editGroup_sameRuns (s : State) (g : GroupNo) (task : Task) (group : Group) :
    s.pool.SameRuns (s.editGroup g task group).pool := by
  have hreleased : ∀ x, s.pool.SameRuns ((s.setGroup g x).releaseRepeat g group.repeatPattern).pool := fun x =>
    .of_cells ((State.releaseRepeat_within (s.setGroup g x) g group.repeatPattern) .cells (by decide))
  by_cases h0 : repeatChoice (task.word 0) = 0
  · rw [State.editGroup_keep s g group h0]
    exact .refl _
  by_cases h1 : repeatChoice (task.word 0) = 1
  · rw [State.editGroup_replace s g group h1]
    exact ((hreleased _).trans (Pool.ownReservation_sameRuns _)).trans
      (.of_cells ((State.joinBin_within _ (s.newRepeat task).runCount (.ofGroup g)) .cells (by decide)))
  · rw [State.editGroup_remove s g group h0 h1]
    exact hreleased _

/-- The record of the edited group: its settings are the new ones, and its repeat pattern is kept, new or gone. -/
theorem State.editGroup_groups (s : State) (g : GroupNo) (task : Task) (group : Group) :
    ∃ x : Group, (∀ k : GroupNo, (s.editGroup g task group).groups[k] = if g = k then some x else s.groups[k]) ∧
      x.settings = task.settings ∧
      ((repeatChoice (task.word 0) = 0 ∧ x.repeatPattern = group.repeatPattern) ∨
        (repeatChoice (task.word 0) = 1 ∧ x.repeatPattern = some (s.newRepeat task)) ∨ x.repeatPattern = none) := by
  by_cases h0 : repeatChoice (task.word 0) = 0
  · rw [State.editGroup_keep s g group h0]
    exact ⟨{ group with settings := task.settings }, fun k => s.groups_setGroup g k _, rfl, .inl ⟨h0, rfl⟩⟩
  by_cases h1 : repeatChoice (task.word 0) = 1
  · rw [State.editGroup_replace s g group h1]
    refine ⟨{ group with settings := task.settings, repeatPattern := some (s.newRepeat task), repeatDamaged := false },
      fun k => ?_, rfl, .inr (.inl ⟨h1, rfl⟩)⟩
    refine Eq.trans ?_ (s.releaseRepeat_groups g k _ group.repeatPattern)
    show (State.joinBin _ _ _).groups[k] = _
    rw [(State.joinBin_within _ _ _) .groups (by decide)]
    rfl
  · rw [State.editGroup_remove s g group h0 h1]
    exact ⟨{ group with settings := task.settings, repeatPattern := none, repeatDamaged := false },
      fun k => s.releaseRepeat_groups g k _ group.repeatPattern, rfl, .inr (.inr rfl)⟩

/-- The pattern under test that becomes a pattern of an edited group. -/
def editOwner (task : Task) : PatternRef → ContenderOwner
  | .frame slot v => .stored (.frame slot v)
  | .ofGroup g => if repeatChoice (task.word 0) = 1 then .reservedRepeat else .stored (.ofGroup g)

theorem editOwner_ne {s : State} {g : GroupNo} (task : Task) {r q : PatternRef} (hr : s.belongsTo g r = true)
    (hq : s.belongsTo g q = true) (hne : r ≠ q) : editOwner task r ≠ editOwner task q := by
  rcases State.belongsTo_iff.1 hr with rfl | ⟨slot, v, -, rfl, -⟩ <;>
    rcases State.belongsTo_iff.1 hq with rfl | ⟨slot', v', -, rfl, -⟩
  · exact absurd rfl hne
  · by_cases h1 : repeatChoice (task.word 0) = 1 <;> simp [editOwner, h1]
  · by_cases h1 : repeatChoice (task.word 0) = 1 <;> simp [editOwner, h1]
  · exact fun heq => hne (ContenderOwner.stored.inj heq)

section
variable {s u : State} {g : GroupNo} {task : Task} {group : Group}

theorem State.editGroup_entry (hm : s.Marked u) {slot : SlotNo} {e : Installed}
    (he : (u.editGroup g task group).installedAt slot = some e) :
    ∃ e', s.installedAt slot = some e' ∧ e'.SamePatterns e := by
  have hentries : u.SameEntries (u.editGroup g task group) := (u.editGroup_within g task group).sameEntries (by decide)
  exact (hm.sameEntries.trans hentries).samePatterns he

/-- A pattern of another group. -/
theorem State.editGroup_old (hm : s.Marked u) {ref : PatternRef} {c : Contender} (href : s.belongsTo g ref ≠ true)
    (hc : (u.editGroup g task group).contenderOf ref = some c) : s.contenderOf ref = some c := by
  obtain ⟨y, hgroups, -⟩ := u.editGroup_groups g task group
  have hother : ∀ k x, g ≠ k → (u.editGroup g task group).groups[k] = some x →
      ∃ x', s.groups[k] = some x' ∧ x'.SamePatterns x := fun k x hk hx => by
    rw [hgroups, if_neg hk] at hx
    exact hm.fewerPatterns.group k x hx
  cases ref with
  | ofGroup k =>
    exact State.contenderOf_ofGroup_of hc fun x => hother k x fun heq => href (State.belongsTo_iff.2 (.inl (heq ▸ rfl)))
  | frame slot v =>
    refine State.contenderOf_frame_of hc (fun e => State.editGroup_entry hm) fun e x he => hother e.group x fun heq => ?_
    obtain ⟨e', he', hsame⟩ := State.editGroup_entry hm he
    exact href (State.belongsTo_iff.2 (.inr ⟨slot, v, e', rfl, he', hsame.group.symm.trans heq.symm⟩))

/-- A pattern of the edited group was under test, as it stands now. -/
theorem State.editGroup_new (hm : s.Marked u) (hgroup : u.groups[g] = some group) {ref : PatternRef} {c : Contender}
    (href : s.belongsTo g ref = true) (hc : (u.editGroup g task group).contenderOf ref = some c) :
    { c with owner := editOwner task ref } ∈ s.editUnderTest g task := by
  obtain ⟨y, hgroups, hsettings, hpattern⟩ := u.editGroup_groups g task group
  obtain ⟨x, hx, hsame⟩ := hm.fewerPatterns.group g group hgroup
  rw [State.mem_editUnderTest, State.mem_repeatUnderTest]
  rcases State.belongsTo_iff.1 href with rfl | ⟨slot, v, e', rfl, he', hgroup'⟩
  · obtain ⟨z, n, chain, hz, hp, rfl⟩ := State.contenderOf_ofGroup.1 hc
    rw [hgroups, if_pos rfl] at hz
    obtain rfl := Option.some.inj hz
    rw [hsettings]
    rcases hpattern with ⟨h0, hkept⟩ | ⟨h1, hnew⟩ | hnone
    · have hs := State.contenderOf_ofGroup.2 ⟨x, n, chain, hx, hsame.pattern.symm.trans (hkept.symm.trans hp), rfl⟩
      exact .inl (.inl ⟨h0, _, hs, by simp [editOwner, h0]⟩)
    · obtain ⟨rfl, rfl⟩ := Pattern.mk.inj (Option.some.inj (hnew.symm.trans hp))
      refine .inl (.inr ⟨h1, ?_⟩)
      have hreservation : u.pool.reservation = s.pool.reservation := by rw [hm.frame]
      simp [editOwner, h1, hreservation]
    · exact nomatch hnone.symm.trans hp
  · obtain ⟨e, chain, z, he, hchain, hz, rfl⟩ := State.contenderOf_frame.1 hc
    obtain ⟨e'', he'', hentry⟩ := State.editGroup_entry hm he
    obtain rfl := Option.some.inj (he'.symm.trans he'')
    have hz' : (u.editGroup g task group).groups[g] = some z :=
      (congrArg (fun k : GroupNo => (u.editGroup g task group).groups[k]) (hentry.group.trans hgroup').symm).trans hz
    rw [hgroups, if_pos rfl] at hz'
    obtain rfl := Option.some.inj hz'
    have hs := State.contenderOf_frame.2 ⟨e', chain, x, he', (hentry.chain v).symm.trans hchain,
      (congrArg (fun k : GroupNo => s.groups[k]) hgroup').trans hx, rfl⟩
    refine .inr ⟨slot, v, e', _, he', hgroup', hs, ?_⟩
    rw [hsettings, hentry.runCount, hentry.tolerance]
    rfl

theorem State.editGroup_conflictLaw (hs : s.ConflictLaw) (hm : s.Marked u)
    (hcheck : (conflictCheck (s.editUnderTest g task) (s.conflictSet (s.belongsTo g)) s).2 = .clear)
    (hgroup : u.groups[g] = some group) : (u.editGroup g task group).ConflictLaw :=
  hs.tested (new := fun ref => s.belongsTo g ref = true) (owner := editOwner task) hcheck
    (hm.fewerPatterns.runs.trans (u.editGroup_sameRuns g task group)) (fun _ _ hr hq => editOwner_ne task hr hq)
    (fun _ _ href hc => State.editGroup_new hm hgroup href hc)
    fun _ _ href hc => ⟨Bool.eq_false_iff.2 href, State.editGroup_old hm href hc⟩

end

theorem groupEditFinalBody_conflictLaw (task : Task) (held : Bool) {s : State} (h : s.ConflictLaw) :
    (groupEditFinalBody task held s).ConflictLaw := by
  unfold groupEditFinalBody
  simp only
  split
  · exact h.fewer (s.finish_fewerPatterns ..)
  · have hm := conflictCheck_marked (s.editUnderTest (argGroup task.arg) task)
      (s.conflictSet (s.belongsTo (argGroup task.arg))) s
    split <;> rename_i hs <;> rw [hs] at hm
    · exact h.fewer (hm.fewerPatterns.trans (State.giveBack_fewerPatterns ..))
    · exact h.fewer (hm.fewerPatterns.trans (State.giveBack_fewerPatterns ..))
    · split
      · rename_i hgroup
        exact (State.editGroup_conflictLaw h hm (by rw [hs]) hgroup).fewer (State.finish_fewerPatterns ..)
      · exact h.fewer (hm.fewerPatterns.trans (State.finish_fewerPatterns ..))

end Sys2Proof.Machine
end

section
/-! SUPPORT. Entry edits, run words and the memory test keep law 2, and so does every step (R13, R31, R51, R59). -/

namespace Sys2Proof.Machine

/-! ## Entry edits (R31) -/

theorem State.setInstalled_fewerPatterns {s : State} {slot : SlotNo} {e e' : Installed}
    (he : s.installedAt slot = some e) (hsame : e.SamePatterns e') : s.FewerPatterns (s.setInstalled slot e') where
  entry other x hx := by
    rw [State.installedAt_setInstalled] at hx
    split at hx
    · rename_i heq
      obtain rfl := Option.some.inj hx
      exact ⟨e, heq ▸ he, hsame⟩
    · exact ⟨x, hx, .refl x⟩
  group _ x hx := ⟨x, hx, .refl x⟩
  runs := .refl _

theorem State.writeEdit_conflictLaw {u : State} (h : u.ConflictLaw) (task : Task) (held : Bool) {slot : SlotNo}
    (hwritten : ∀ e, u.installedAt slot = some e →
      (u.setInstalled slot { e with key := editKey task e, tolerance := editTolerance task e }).ConflictLaw) :
    (u.writeEdit task held slot).ConflictLaw := by
  unfold State.writeEdit
  split
  · exact h.fewer (u.finish_fewerPatterns ..)
  · rename_i e he
    split
    · exact h.fewer (u.finish_fewerPatterns ..)
    · exact (hwritten e he).fewer (State.finish_fewerPatterns ..)

/-- The patterns of an entry under a class that a check has found free of conflict. -/
theorem State.editTolerance_conflictLaw {s u : State} (hs : s.ConflictLaw) (hm : s.Marked u) {slot : SlotNo}
    {e : Installed} {tolerance : Fin 8} {key : Word} (he : u.installedAt slot = some e)
    (hcheck : (conflictCheck (s.framesUnder slot tolerance) (s.conflictSet (ofSlot slot)) s).2 = .clear) :
    (u.setInstalled slot { e with key := key, tolerance := tolerance }).ConflictLaw := by
  have hinstalled : ∀ other, (u.setInstalled slot { e with key := key, tolerance := tolerance }).installedAt other =
      if slot = other then some { e with key := key, tolerance := tolerance } else u.installedAt other :=
    fun other => u.installedAt_setInstalled slot other _
  refine hs.tested (new := fun ref => ofSlot slot ref = true) (owner := .stored) hcheck hm.fewerPatterns.runs
    (fun _ _ _ _ hne heq => hne (ContenderOwner.stored.inj heq)) (fun ref c href hc => ?_) fun ref c href hc =>
      ⟨Bool.eq_false_iff.2 href, ?_⟩
  · obtain ⟨v, rfl⟩ := ofSlot_iff.1 href
    obtain ⟨e', chain, x, he', hchain, hx, rfl⟩ := State.contenderOf_frame.1 hc
    rw [hinstalled, if_pos rfl] at he'
    obtain rfl := Option.some.inj he'
    have hchain' : e.chainOf v = some chain := by cases v <;> exact hchain
    have hs' := hm.fewerPatterns.contender (State.contenderOf_frame.2 ⟨e, chain, x, he, hchain', hx, rfl⟩)
    exact State.mem_framesUnder.2 ⟨v, _, hs', rfl⟩
  · cases ref with
    | ofGroup g => exact hm.fewerPatterns.contender hc
    | frame other v =>
      have hother : slot ≠ other := fun heq => href (decide_eq_true heq.symm)
      refine State.contenderOf_frame_of hc (fun x hx => ?_) fun x y _ hy => hm.fewerPatterns.group x.group y hy
      rw [hinstalled, if_neg hother] at hx
      exact hm.fewerPatterns.entry other x hx

/-- An entry edit reads stored patterns alone, so that its check never stops at reserved cells. -/
theorem editCheck_not_stopped (s : State) (slot : SlotNo) (tolerance : Fin 8) :
    (conflictCheck (s.framesUnder slot tolerance) (s.conflictSet (ofSlot slot)) s).2 ≠ .unreadable := by
  intro hverdict
  obtain ⟨c, hc, k, -, -, howner, -⟩ := conflictCheck_stopped hverdict
  rcases List.mem_append.1 hc with htest | hset
  · obtain ⟨v, d, hd, rfl⟩ := State.mem_framesUnder.1 htest
    have hstored : d.owner = .stored (.frame slot v) := State.contenderOf_owner hd
    exact howner _ hstored
  · obtain ⟨ref, -, hd⟩ := State.mem_conflictSet.1 hset
    exact howner _ (State.contenderOf_owner hd)

theorem entryEditBody_conflictLaw (task : Task) (held : Bool) {s : State} (h : s.ConflictLaw) :
    (entryEditBody task held s).ConflictLaw := by
  unfold entryEditBody
  split
  · exact h.fewer (s.finish_fewerPatterns ..)
  rename_i hd e hcurrent
  split
  · exact h.fewer (s.finish_fewerPatterns ..)
  split
  · exact h.fewer (s.finish_fewerPatterns ..)
  by_cases hclass : editTolerance task e = e.tolerance
  · rw [State.editCheck_same hclass]
    refine State.writeEdit_conflictLaw h task held fun e' he' => ?_
    obtain rfl := Option.some.inj (he'.symm.trans (s.installedAt_of_currentWord hcurrent))
    exact h.fewer (State.setInstalled_fewerPatterns he' ⟨rfl, rfl, hclass, fun v => by cases v <;> rfl⟩)
  · rw [State.editCheck_changed hclass]
    have hm := conflictCheck_marked (s.framesUnder hd.slot (editTolerance task e)) (s.conflictSet (ofSlot hd.slot)) s
    have hgoes := editCheck_not_stopped s hd.slot (editTolerance task e)
    split <;> rename_i hs <;> rw [hs] at hm
    · exact h.fewer (hm.fewerPatterns.trans (State.finish_fewerPatterns ..))
    · have hclear : (conflictCheck (s.framesUnder hd.slot (editTolerance task e)) (s.conflictSet (ofSlot hd.slot)) s).2 =
        .clear := by rw [hs]
      refine State.writeEdit_conflictLaw (h.fewer hm.fewerPatterns) task held fun e' he' => ?_
      obtain ⟨x, hx, status, m, a, rfl⟩ := hm.sameEntries.installedAt he'
      obtain rfl := Option.some.inj (hx.symm.trans (s.installedAt_of_currentWord hcurrent))
      exact State.editTolerance_conflictLaw h hm he' hclear
    · exact absurd (by rw [hs]) hgoes

/-! ## Run words (R51) -/

theorem State.contenderOf_congr {s t : State} (hentries : t.entries = s.entries) (hgroups : t.groups = s.groups)
    (ref : PatternRef) : t.contenderOf ref = s.contenderOf ref := by
  have hinstalled : ∀ slot, t.installedAt slot = s.installedAt slot := fun slot => by
    unfold State.installedAt
    rw [hentries]
  cases ref with
  | frame slot v => rw [State.contenderOf_frame_eq, State.contenderOf_frame_eq, hinstalled, hgroups]
  | ofGroup g => rw [State.contenderOf_ofGroup_eq, State.contenderOf_ofGroup_eq, hgroups]

theorem State.storedChain_of_contenderOf {s : State} {ref : PatternRef} {c : Contender}
    (h : s.contenderOf ref = some c) : s.storedChain ref = some c.chain := by
  cases ref with
  | frame slot v =>
    obtain ⟨e, chain, x, he, hchain, -, rfl⟩ := State.contenderOf_frame.1 h
    simp only [State.storedChain, he, Option.bind_some, hchain]
  | ofGroup g =>
    obtain ⟨x, n, chain, hx, hp, rfl⟩ := State.contenderOf_ofGroup.1 h
    simp only [State.storedChain, hx, Option.bind_some, hp, Option.map_some]

/-- A run word goes into a cell of the reservation. -/
theorem State.mem_runTarget {s : State} {task : Task} {index : Nat} {c : CellNo}
    (h : c ∈ (s.runTarget task index).1) : c ∈ s.pool.reservation := by
  unfold State.runTarget at h
  split at h
  · dsimp only at h
    split at h
    · exact List.mem_of_mem_take h
    · exact List.mem_of_mem_drop h
  · exact h

theorem Pool.writeRun_runs (p : Pool) {chain : List CellNo} (k : Nat) (w : Word) {c : CellNo} (hc : c ∉ chain) :
    (p.writeRun chain k w).cells[c].runs = p.cells[c].runs := by
  unfold Pool.writeRun
  split
  · rfl
  · rename_i d pos hplace
    have hmem : d ∈ chain := by
      obtain ⟨d', hd', heq⟩ := Option.map_eq_some_iff.1 hplace
      exact (Prod.mk.inj heq).1 ▸ List.mem_of_getElem? hd'
    rw [Pool.modifyCell_cells, if_neg]
    rintro rfl
    exact hc hmem

theorem State.storeRun_runs (s : State) (task : Task) (w : Word) {c : CellNo} (hc : c ∉ s.pool.reservation) :
    (s.storeRun task w).pool.cells[c].runs = s.pool.cells[c].runs := by
  unfold State.storeRun
  split
  · rfl
  · exact s.pool.writeRun_runs _ w fun hmem => hc (State.mem_runTarget hmem)

theorem State.takeWord_runs (s : State) (task : Task) (w : Word) {c : CellNo} (hc : c ∉ s.pool.reservation) :
    (s.takeWord task w).pool.cells[c].runs = s.pool.cells[c].runs := by
  have hstored := s.storeRun_runs task w hc
  unfold State.takeWord
  simp only
  split
  · rw [(s.endOrCleanUp_within _ _) .cells (by decide)]
  · exact hstored
  · rfl
  · obtain ⟨claim, he, -⟩ := (s.storeRun task w).enterExecute_frame { task with words := task.words ++ [w] }
    rw [he]
    exact hstored

/-- The chain of a stored pattern keeps its runs when its cells do. -/
theorem State.storedRun_of_cells {s t : State} {chain : List CellNo}
    (h : ∀ c ∈ chain, t.pool.cells[c].runs = s.pool.cells[c].runs) (k : Nat) :
    t.storedRun chain k = s.storedRun chain k := by
  unfold State.storedRun
  refine Option.map_congr fun place hplace => ?_
  obtain ⟨c, hc, rfl⟩ := Option.map_eq_some_iff.1 hplace
  rw [h c (List.mem_of_getElem? hc)]

theorem State.storedRun_nil (s : State) (k : Nat) : s.storedRun [] k = none := by
  simp [State.storedRun, runPlace]

theorem State.takeWord_conflictLaw {s : State} (h : s.ConflictLaw) (hplace : s.PlaceLaw) (task : Task) (w : Word) :
    (s.takeWord task w).ConflictLaw := by
  have hw := s.takeWord_within task w
  refine h.of_stored (fun ref c hc => ?_) fun ref c hc => State.storedRun_of_cells fun d hd => s.takeWord_runs task w ?_
  · rwa [State.contenderOf_congr (hw .entries (by decide)) (hw .groups (by decide))] at hc
  · exact (hplace.stored ref c.chain (State.storedChain_of_contenderOf hc)).apart hplace.reserved (by decide) hd

theorem State.ConflictLaw.within {l : List Part} {s t : State} (h : s.ConflictLaw) (hw : State.Within l s t)
    (hentries : Part.entries ∉ l) (hgroups : Part.groups ∉ l) (hcells : Part.cells ∉ l) : t.ConflictLaw :=
  h.fewer (hw.fewerPatterns hentries hgroups hcells)

theorem State.transferWrite_conflictLaw {s : State} (h : s.ConflictLaw) (hplace : s.PlaceLaw) (w : Word) :
    (s.transferWrite w).ConflictLaw := by
  rcases s.transferWrite_cases w with hw | ⟨u, task, hu, he⟩
  · exact h.within hw (by decide) (by decide) (by decide)
  · rw [he]
    exact State.takeWord_conflictLaw (h.within hu (by decide) (by decide) (by decide)) (hplace.within hu (by decide)) task w

/-! ## The memory test (R59) -/

/-- During a memory test no stored pattern has a cell. -/
theorem State.PlaceLaw.chain_eq_nil {s : State} (h : s.PlaceLaw) (htest : s.memoryTest.isSome = true) {ref : PatternRef}
    {chain : List CellNo} (hstored : s.storedChain ref = some chain) : chain = [] := by
  refine List.eq_nil_iff_forall_not_mem.2 fun c hc => ?_
  have howned := (h.stored ref chain hstored).2 c hc
  rw [h.testing htest c] at howned
  cases howned

/-- The end of a memory test may leave any runs: no stored pattern holds one. -/
theorem State.ConflictLaw.endMemoryTest {s : State} (h : s.ConflictLaw) (hplace : s.PlaceLaw)
    (htest : s.memoryTest.isSome = true) (failing : List CellNo) : (s.endMemoryTest failing).ConflictLaw := by
  have hw := s.endMemoryTest_within failing
  refine h.of_stored (fun ref c hc => ?_) fun ref c hc k => ?_
  · rwa [State.contenderOf_congr (hw .entries (by decide)) (hw .groups (by decide))] at hc
  · rw [hplace.chain_eq_nil htest (State.storedChain_of_contenderOf hc), State.storedRun_nil, State.storedRun_nil]

/-! ## Every step -/

theorem contenderOf_none {t : State} (hinstalled : ∀ slot, t.installedAt slot = none)
    (hgroups : ∀ g : GroupNo, t.groups[g] = none) (ref : PatternRef) : t.contenderOf ref = none := by
  cases ref with
  | frame slot v => rw [State.contenderOf_frame_eq, hinstalled, Option.bind_none]
  | ofGroup g => rw [State.contenderOf_ofGroup_eq, hgroups, Option.bind_none]

/-- Outside the table steps. -/
theorem exec_conflictLaw_of_noStep {c : Instr} {s t : State} (hstep : tableStepOf c = none) (h : exec c s = .next t)
    (hplace : s.PlaceLaw) (hs : s.ConflictLaw) : t.ConflictLaw := by
  cases c
  case installParameterStep | installFinalStep | groupParameterStep | groupDefineFinalStep | groupEditFinalStep |
      groupRemoveStep | entryEditStep | suspend | resume | retire | entryReadStep | groupReadStep | entryFindStep |
      entryListStep | tableStatusStep | handleCheck | initializeTableStep => exact nomatch hstep
  case hardwareReset =>
    cases h
    exact .of_none (contenderOf_none (fun slot => by simp [State.installedAt, State.hardwareReset, State.reset])
      fun g => by simp [State.hardwareReset, State.reset])
  case memoryTestEnd failing time =>
    cases h
    have hadvanced := hs.within (s.advanceTo_within time) (by decide) (by decide) (by decide)
    split
    · exact hadvanced.endMemoryTest (hplace.advanceTo time) (State.testDue_isSome ‹_›) failing
    · exact hadvanced
  case transferWrite w =>
    cases h
    exact State.transferWrite_conflictLaw hs hplace w
  case capture event =>
    rcases exec_capture_transferWrite h with hw | ⟨w, rfl⟩
    · exact hs.within hw (by decide) (by decide) (by decide)
    · exact State.transferWrite_conflictLaw hs hplace w
  case lookup i => exact hs.fewer (exec_lookup_fewerPatterns h)
  case frameGrant o => exact hs.fewer (exec_frameGrant_fewerPatterns h)
  case damageNotice o => exact hs.fewer (exec_damageNotice_fewerPatterns h)
  case frameParityFault o time => exact hs.fewer (exec_frameParityFault_fewerPatterns h)
  case parameterPhaseCleanUp =>
    cases h
    exact hs.fewer s.cleanUp_fewerPatterns
  case chainRelease =>
    cases h
    split
    · exact hs
    · have hmail : ∀ m, s.FewerPatterns (s.setMail m) := fun _ => .of_records rfl rfl (.refl _)
      exact hs.fewer ((hmail _).trans (State.takeRelease_fewerPatterns _ _))
  case referenceRemoval o =>
    cases h
    split
    · exact hs
    · have hmail : ∀ m, s.FewerPatterns (s.setMail m) := fun _ => .of_records rfl rfl (.refl _)
      exact hs.fewer ((hmail _).trans (State.takeRemoval_fewerPatterns _ _ _))
  all_goals
    exact hs.within (exec_within _ s t h) (by simp only [touches]; decide) (by simp only [touches]; decide)
      (by simp only [touches]; decide)

/-- The table steps of the host, with what a GROUP DEFINE with a repeat pattern has made sure of. -/
theorem tableStepOf_conflictLaw {c : Instr} {h : HostStep} {body : Task → Bool → State → State}
    (hc : tableStepOf c = some (h, body)) (task : Task) (held : Bool) {s : State} (hcount : s.CountLaw)
    (hdefine : h = .groupDefineFinal → repeatChoice (task.word 0) = 1 → s.groups[argGroup task.arg] = none)
    (hs : s.ConflictLaw) : (body task held s).ConflictLaw := by
  cases c <;> cases hc
  case installParameterStep => exact hs.fewer (installParameterBody_fewerPatterns task held s)
  case installFinalStep => exact installFinalBody_conflictLaw task held hs
  case groupParameterStep => exact hs.fewer (groupParameterBody_fewerPatterns task held s)
  case groupDefineFinalStep => exact groupDefineFinalBody_conflictLaw task held hs hcount (hdefine rfl)
  case groupEditFinalStep => exact groupEditFinalBody_conflictLaw task held hs
  case groupRemoveStep => exact hs.fewer (groupRemoveBody_fewerPatterns task held s)
  case entryEditStep => exact entryEditBody_conflictLaw task held hs
  case suspend => exact hs.fewer (suspendBody_fewerPatterns task held s)
  case resume => exact hs.fewer (resumeBody_fewerPatterns task held s)
  case retire => exact hs.fewer (retireBody_fewerPatterns task held s)
  case entryReadStep => exact hs.fewer (entryReadBody_fewerPatterns task held s)
  case groupReadStep => exact hs.fewer (groupReadBody_fewerPatterns task held s)
  case entryFindStep => exact hs.within (entryFindBody_within task held s) (by decide) (by decide) (by decide)
  case entryListStep => exact hs.within (entryListBody_within task held s) (by decide) (by decide) (by decide)
  case tableStatusStep => exact hs.within (tableStatusBody_within task held s) (by decide) (by decide) (by decide)
  case handleCheck later => exact hs.within (handleCheckBody_within later task held s) (by decide) (by decide) (by decide)
  case initializeTableStep =>
    exact .of_none (contenderOf_none (fun slot => by simp [State.installedAt, State.initializeTable])
      fun g => by simp [State.initializeTable])

theorem exec_conflictLaw {c : Instr} {s t : State} (h : exec c s = .next t) (hclaimLaw : s.HostClaimLaw)
    (hwork : s.WorkLaw) (hcount : s.CountLaw) (hplace : s.PlaceLaw) (hs : s.ConflictLaw) : t.ConflictLaw := by
  cases hstep : tableStepOf c with
  | none => exact exec_conflictLaw_of_noStep hstep h hplace hs
  | some x =>
    rcases exec_tableStep_cases hstep h with rfl | ⟨task, held, rfl, hclaim, hengine⟩
    · exact hs
    · refine tableStepOf_conflictLaw hstep task held (hcount.same (s.served_sameCounts .host)) (fun hdefine => ?_)
        (hs.fewer (s.served_fewerPatterns .host))
      exact defined_group_none (s := s) hclaimLaw hwork (hclaim.trans (congrArg some hdefine)) hengine

theorem stepKeepsConflictLaw : Clause.stepKeepsConflictLaw := by
  intro s t hclaimLaw _ hwork hcount hplace hconflict hstep
  rcases step_cases hstep with rfl | ⟨c, rest, hc⟩
  · exact hconflict.within (s.advanceTo_within _) (by decide) (by decide) (by decide)
  · have hplace' : (s.withPending rest).PlaceLaw := hplace.of_eq rfl rfl rfl rfl rfl
    have hconflict' : (s.withPending rest).ConflictLaw := hconflict
    exact exec_conflictLaw hc hclaimLaw hwork hcount hplace' hconflict'

/-- Settles O42: the check with its order, reads and answers, the patterns it compares, and law 2, by what each command
adds to the stored patterns and to their runs. -/
theorem conflictCheckFindsWindowOverlaps : Obligations.ConflictCheckFindsWindowOverlaps :=
  ⟨readableChecks, firstConflicts, checkOrder, checkReads, checkAnswers, windowBounds, conflictSets, patternsUnderTest,
    conflictWordsShown, stepKeepsConflictLaw⟩

end Sys2Proof.Machine
end
